-- ==== Sys2Proof/Word.lean ====
section
/-! DEFINITION. The word types of the device and the keyed table that sparse state is held in. -/
namespace Sys2Proof

/-- An 8-bit byte. -/
abbrev Byte := BitVec 8
/-- A 16-bit value (a status code, R36). -/
abbrev Half := BitVec 16
/-- A 32-bit value (a general register, R114). -/
abbrev Word := BitVec 32
/-- A 64-bit value (every register of the device, R24). -/
abbrev DWord := BitVec 64
/-- A stored codeword, 64 data bits and 16 metadata bits (R354). -/
abbrev Codeword := BitVec 80

/-- Sparse data by number: entries in rising key order, none repeated; an absent key reads as a default that
the reader names. -/
abbrev Tab (α : Type) := List (Nat × α)

end Sys2Proof
end

