-- ==== Sys2Proof/Syntax.lean ====
section
/-! DEFINITION. The commands the device takes: one constructor of `Instr` for each row of the opcode table, with
the row's operands. A group instruction names its tile and group and its decoded operands (the encodings are
those of a companion document, R126); a command-record row names the command window whose RECORD holds the
record (R444, R484); an event row names the unit it befalls and what the outside world presents to it. -/
namespace Sys2Proof

/-- Who makes a register access: the host over CXL.io, or control core `c` over the control ring (R611). -/
inductive Req where
  | host
  | core (c : Nat)
deriving DecidableEq, Repr

/-- Where a command record stands: host command slot `n` (R444) or the command window of core `c` (R484). -/
inductive Win where
  | slot (n : Nat)
  | core (c : Nat)
deriving DecidableEq, Repr

/-- The agents that access device memory (R147). -/
inductive Agent where
  | tile (t : Nat)
  | mover (r : Nat)
  | core (c : Nat)
  | host
  | peer (dev : Nat)
  | pip
deriving DecidableEq, Repr

/-- Read-only system operands (R116). -/
inductive SysOp where
  | lane | group | rank | tileX | tileY | stepCount
deriving DecidableEq, Repr

/-- A decoded operand: an immediate, a 32-bit register, a 64-bit register pair (R114), a stage register (R115),
one half of a stage register, or a system operand (R116). -/
inductive Opnd where
  | imm (v : Nat)
  | reg (n : Nat)
  | pair (n : Nat)
  | sreg (j : Nat)
  | sregHalf (j : Nat) (hi : Bool)
  | sys (s : SysOp)
deriving DecidableEq, Repr

/-- A destination: a 32-bit register, a register pair, a stage register, or half of one. -/
inductive Dst where
  | reg (n : Nat)
  | pair (n : Nat)
  | sreg (j : Nat)
  | sregHalf (j : Nat) (hi : Bool)
deriving DecidableEq, Repr

/-- A bit upset that the environment makes in a stored register bit before the instruction reads it (R357):
lane, register, bit. -/
structure Upset where
  lane : Nat
  reg  : Nat
  bit  : Nat
deriving DecidableEq, Repr

/-- Per-lane arithmetic operations (R123, R227, R228, R229, R623); `undef` is an instruction word with no defined
encoding (R132). -/
inductive ArithOp where
  | mov | add | sub | mul | and | or | xor | not
  | shl | lshr | ashr
  | udiv | sdiv | urem | srem
  | cmpEq | cmpNe | cmpLtS | cmpLtU | cmpLeS | cmpLeU
  | select
  | fadd | fmul | ffma | fmin | fmax
  | fcmpEq | fcmpLt | fcmpLe | fcmpUnord
  | fsqrt | frcp | frsqrt | fexp2 | flog2
  | voteAny | voteAll | ballot
  | undef
deriving DecidableEq, Repr

/-- Atomic operations (R160). -/
inductive AtomOp where
  | add | min | max | and | or | xor | exch | cas
deriving DecidableEq, Repr

/-- Operand types of an atomic (R160). -/
inductive AtomTy where
  | u32 | s32 | u64 | s64 | f32
deriving DecidableEq, Repr

/-- Which half of a 64-bit register a read takes (R28). -/
inductive RegPart where
  | full | lo | hi
deriving DecidableEq, Repr

/-- A per-lane memory address: the stage buffer of the executing tile, or device-local memory (R149). -/
inductive MemSpace where
  | stageBuffer | device
deriving DecidableEq, Repr

/-- Operands of EASEL.HOLD (R180). -/
structure HoldArgs where
  mask     : Nat
  bank     : Opnd
  fmt      : Opnd
  rows     : Opnd
  src      : Opnd
  srcPitch : Opnd
  srcScale : Opnd
deriving DecidableEq, Repr

/-- Operands of EASEL.MMA (R180). -/
structure MmaArgs where
  mask      : Nat
  bank      : Opnd
  fmt       : Opnd
  m         : Opnd
  feedMode  : Opnd
  feed      : Opnd
  feedStep  : Opnd
  streamNo  : Opnd
  first     : Opnd
  col       : Opnd
  feedScale : Opnd
  acc       : Opnd
  accMode   : Opnd
  outMode   : Opnd
  out       : Opnd
  outPitch  : Opnd
  outFmt    : Opnd
  round     : Opnd
deriving DecidableEq, Repr

/-- What a host CXL.mem request says the host will hold (R314). -/
inductive HostHold where
  | none | shared | any
deriving DecidableEq, Repr

/-- Dirty data the host returns with a snoop response or a write-back: 64-byte pieces at an offset of the line,
each byte with its address in the line. -/
abbrev LineData := List (Nat × Byte)

/-- A received frame (R409, R411): whether the decoder found every codeword it overlaps correctable, its 544 bytes, the
symbols corrected in it (R434), the sixteenth of a tick in which it reached the pins (R428), and what the receiver knows
of its lanes: their skews in 1/16 tick, and the worst loss in 0.1 dB (R406, R407). -/
structure Frame where
  decodeOk  : Bool
  bytes     : List Byte
  corrected : Nat
  frac      : Nat
  skew      : List Nat
  loss      : Nat
deriving DecidableEq, Repr

/-- Why a transfer stops (R278). -/
inductive XferCause where
  | unbacked
  | crcFinal
  | peer (status : Nat)
  | errorResponse (status : Nat)
deriving DecidableEq, Repr

/-- A clocked rail with a sequencer (R502). -/
inductive Rail where
  | rind | stem | serdes
deriving DecidableEq, Repr

/-- A gated block (R507), by its bit of BLK_ENABLE (R617). -/
abbrev BlockIx := Nat

/-- What the module reports for one rail on PMBus (R491): voltage in mV, current in 0.1 A, fault or warning seen,
over-current warning seen. -/
structure RailReport where
  mv     : Nat
  deciA  : Nat
  bad    : Bool
  overCurrent : Bool
deriving DecidableEq, Repr

/-- Averages of one domain over a telemetry window (R492, R494). -/
structure DomainSample where
  deciA : Nat
  mv    : Nat
  mw    : Nat
deriving DecidableEq, Repr

/-- What a TELEMETRY_SAMPLE finds (R495, R529): domain averages and tile paces over the 2,000 ticks to DUE. -/
structure TelemSample where
  domains : List DomainSample
  paces   : List Nat
deriving DecidableEq, Repr

/-- A sensor of R516: compute-die sensor `i` of physical tile 17 × row + column, Kreten sensor `i` of slice `s`, rind
sensor `i` of rind die `r`, die `d` of stack `s` (12 is the base die), site `i` of the stem die, or via-field sensor
`i`. -/
inductive SensorId where
  | compute (phys i : Nat)
  | kreten (slice i : Nat)
  | rind (r i : Nat)
  | hbm (stack d : Nat)
  | stem (i : Nat)
  | via (i : Nat)
deriving DecidableEq, Repr

/-- The reset causes and findings that the environment presents to bring-up steps 1 to 5 (R536): what the flash
holds, what the start-up array reads, what trains, and what the tests find. Bits and lists name units. -/
structure BootEnv where
  /-- The flash answers, is large enough and has its counters (R536 step 1). -/
  flashOk      : Bool
  /-- Bytes of the attached flash changed from outside since the device last used it (R464, R563). -/
  flashPatch   : List (Nat × Byte)
  /-- The 16,320 lowest-numbered start-up array bits as sampled (R560), as bytes. -/
  startup      : List Byte
  /-- Populated stack sites (R323). -/
  stacksFound  : Nat
  /-- Sites whose capacity or geometry is not that of R321. -/
  stacksBad    : Nat
  /-- Banks the HBM test finds bad: (stack × 32 + pc) × 48 + bank (R551). -/
  hbmBadBanks  : List Nat
  /-- Kreten banks the march test finds bad: slice × 40 + bank (R546). -/
  krBadBanks   : List Nat
  /-- Slices with a logic fault (R547). -/
  krBadSlices  : List Nat
  /-- Bonds that fail the lane test: ((slice × 2 + port) × 120 + bundle) × 66 + bond (R548). -/
  badBonds     : List Nat
  /-- A failed under-mesh or over-mesh router (R543). -/
  underMeshBad : Bool
  overMeshBad  : Bool
  /-- Physical tiles that fail the self-test: 17 × row + column (R543). -/
  badTiles     : List Nat
  /-- A 128-bit seed from the entropy source for each logical tile (R245). -/
  seeds        : List (DWord × DWord)
  /-- The entropy source passes its start-up test (R236). -/
  entropyOk    : Bool
  /-- Values of the NVM monotonic counters 0 and 1 (R563), which never fall. -/
  counters     : Nat × Nat
deriving DecidableEq, Repr

/-- What bring-up steps 7 to 10 meet (R536): the host link, the firmware start, the self-test. -/
structure BootEnd where
  /-- The CXL or PCIe link trains. -/
  hostUp     : Bool
  hostRate   : Nat
  hostWidth  : Nat
  memEn      : Bool
  cacheEn    : Bool
  biEn       : Bool
  /-- Time from release of cold reset to the end of step 10, in ms (R538). -/
  doneMs     : Nat
  selfTestOk : Bool
deriving DecidableEq, Repr

/-- What a compute reset finds (R555 step 6): failing tiles and the new entropy seeds. -/
structure ResetFindings where
  badTiles : List Nat
  seeds    : List (DWord × DWord)
deriving DecidableEq, Repr

/-- How a sector arrives at an internal link (R360). -/
structure LinkId where
  /-- 0 vertical port, 1 over-mesh hop, 2 under-mesh hop, 3 rind bridge, 4 stem bridge. -/
  kind : Nat
  no   : Nat
deriving DecidableEq, Repr

/-- The unit that sends a sector: an HBM controller, a Kreten slice, or another (R384). -/
inductive Sender where
  | hbm (c : Nat)
  | slice (s : Nat)
  | other
deriving DecidableEq, Repr

/-- A sector as it arrives: its words as codewords, and its CRC (R358). -/
structure Sector where
  words : List Codeword
  crc   : Word
deriving DecidableEq, Repr

/-- The protocols that the host enables (R437). -/
structure LinkEnables where
  mem   : Bool
  cache : Bool
  bi    : Bool
deriving DecidableEq, Repr

/-- What a lost sector was carrying (R361). -/
inductive SectorUse where
  | readReply (agent : Agent) (addr : Nat)
  | tileStore (tile group addr : Nat)
  | hostWrite (addr : Nat)
  | moverWrite (rind place : Nat)
  | writeBack (slice line : Nat)
  /-- A sector of the oldest packet of a pair. -/
  | packet (canvas stream prod cons sector : Nat)
  /-- A sector of a line that a slice fills, of a context that a tile restores or saves, and one that a gleaner or a sweep
  reads at a device-local address. -/
  | fill (slice addr : Nat)
  | restore (tile sector : Nat)
  | save (tile : Nat)
  | glean (addr : Nat)
  | sweep (addr : Nat)
deriving DecidableEq, Repr

/-- A management request at the management port (R537): an MCTP control message, or a PLDM or SPDM message. -/
inductive MgmtKind where
  | mctpControl | pldm
deriving DecidableEq, Repr

/-- The commands: one constructor per row of the opcode table, in table order, those without operands last. -/
inductive Instr where
  | registerWrite (r : Req) (bar2 : Bool) (off bytes : Nat) (v : DWord)
  | streamWrite (t g stream : Nat) (addr rank : Opnd) (rel : Bool)
  | streamRead (t g stream : Nat) (rank : Option Opnd) (dstAddr dstLen : Nat)
  | streamRelease (t g stream : Nat) (slotAddr : Opnd)
  | packetArrives (tx ty ch : Nat) (heads : List (Nat × Nat))
  | creditReturns (canvas stream prod cons : Nat)
  | canvasLoad (w : Win)
  | canvasLoadComplete (canvas : Nat)
  | canvasStart (w : Win)
  | canvasBeginIssue (canvas : Nat)
  | canvasStop (w : Win)
  | canvasDrained (canvas : Nat)
  | canvasUnload (w : Win)
  | canvasUnloadComplete (canvas : Nat)
  | sittingSwitch (t : Nat)
  | minSeatElapsed (t : Nat)
  | yieldWindowExpires (t : Nat)
  | switchPoint (t : Nat)
  | saveDone (t : Nat)
  | restoreDone (t : Nat)
  | seatPrefetchStart (t order : Nat)
  | nextStepStart (t : Nat)
  | tbFirstLock (ref : DWord)
  | referenceReturns (ref : DWord)
  | tbNowRead (r : Req) (part : RegPart)
  | tbConfigWrite (r : Req) (off bytes : Nat) (v : DWord)
  | cueArmInstr (t g dst : Nat) (addr : Opnd)
  | cueCancelInstr (t g dst : Nat) (kind x y tag : Opnd)
  | cueWait (t g : Nat) (line : Opnd)
  | timeRead (t g dst : Nat)
  | cueGoArm (r : Req) (bytes : Nat) (v : DWord)
  | cueGoCancel (r : Req) (bytes : Nat) (v : DWord)
  | stepStartFires (t : Nat)
  | moverStartFires (r : Nat)
  | collectiveOpenFires (r : Nat)
  | telemetrySampleFires (s : TelemSample)
  | yield (t g : Nat)
  | exit (t g : Nat)
  | canvasEnd (t g : Nat)
  | arithmeticOp (t g : Nat) (op : ArithOp) (wide : Bool) (dst : Dst) (a b c : Opnd) (upsets : List Upset)
  | laneShuffle (t g dst src : Nat) (idx : Opnd) (upsets : List Upset)
  | branch (t g : Nat) (cond : Option Opnd) (target : Opnd) (upsets : List Upset)
  | barInit (t g : Nat) (b groupMask laneMask : Opnd)
  | barSync (t g : Nat) (b : Opnd)
  | barArrive (t g : Nat) (b : Opnd)
  | barrierTimeout (t : Nat)
  | contextExport (w : Win)
  | contextImport (w : Win)
  | load (t g : Nat) (sp : MemSpace) (addr : Opnd) (disp size : Nat) (signed : Bool) (dst order scope : Nat)
      (spent : Bool) (upsets : List Upset)
  | store (t g : Nat) (sp : MemSpace) (addr : Opnd) (disp size : Nat) (src : Nat) (order scope : Nat)
      (upsets : List Upset)
  | atomic (t g : Nat) (sp : MemSpace) (op : AtomOp) (ty : AtomTy) (addr : Opnd) (disp : Nat) (dst : Nat)
      (val cmp : Opnd) (order scope : Nat) (spent : Bool) (upsets : List Upset)
  | fence (t g scope : Nat)
  | coreLoad (c addr size : Nat) (reserve : Bool)
  | coreStore (c addr size : Nat) (v : DWord)
  | coreAmo (c addr size : Nat) (op : AtomOp) (signed : Bool) (v : DWord)
  | coreSc (c addr size : Nat) (v : DWord)
  | hostMemRead (addr : Nat) (hold : HostHold)
  | hostMemWrite (addr : Nat) (data : LineData) (poison : Bool) (failed : Option LinkId) (hold : HostHold)
  | hostWriteback (addr : Nat) (data : Option LineData) (hold : HostHold)
  | hostSnoop (addr : Nat)
  | easelHold (t g : Nat) (a : HoldArgs)
  | easelMma (t g : Nat) (a : MmaArgs)
  | easelWait (t g : Nat)
  | easelEnterQueue (t : Nat)
  | easelBegin (t : Nat)
  | holdLoaded (t : Nat)
  | mmaFed (t : Nat)
  | chainWrite (t : Nat)
  | holdReloadDone (t bank : Nat)
  | keeperGapBegin (t : Nat)
  | keepGapExpires (t : Nat)
  | rampStepElapses (t : Nat)
  | gateRead (t g stream : Nat) (addr : Opnd) (dst : Nat)
  | fillHoldExpires (canvas stream cons : Nat)
  | cvt (t g dst src srcFmt dstFmt round : Nat) (sat : Bool)
  | vcvt (t g vdst vsrc srcFmt dstFmt round : Nat) (sat : Bool)
  | vcvtPack (t g : Nat) (addr : Opnd) (vsrc dstFmt round : Nat) (sat : Bool)
  | vcvtUnpack (t g vdst : Nat) (addr : Opnd) (srcFmt : Nat)
  | vcvtMx (t g : Nat) (elemAddr scaleAddr : Opnd) (vsrc fmt round : Nat)
  | vcvtUnmx (t g vdst : Nat) (elemAddr scaleAddr : Opnd) (fmt : Nat)
  | entropyCondition (raw : List Byte)
  | entropyHealthFail (atStartup : Bool)
  | entropyRestart (r : Req) (off bytes : Nat) (v : DWord)
  | entropyDataRead (r : Req) (off bytes : Nat)
  | rand (t g dst seed : Nat) (tkey index : Opnd) (c : Opnd) (mode : Nat)
  | randJump (t g : Nat) (gen : Opnd)
  | randPseed (t g seed : Nat)
  | vrandBits (t g vdst seed : Nat) (tkey base : Opnd) (c : Opnd) (mode : Nat)
  | vrandUnif (t g vdst seed : Nat) (tkey base : Opnd) (mode : Nat)
  | vrandBern (t g : Nat) (addr : Opnd) (p : Opnd) (seed : Nat) (tkey base : Opnd) (mode : Nat)
  | vrandCat (t g dst : Nat) (addr n : Opnd) (seed : Nat) (tkey base : Opnd) (mode : Nat)
  | vsample (t g dst : Nat) (addr n invT topk topp : Opnd) (greedy : Bool) (seed : Nat) (tkey base : Opnd)
      (mode : Nat)
  | moveStart (t g dst : Nat) (addr : Opnd) (space : Opnd) (mover : Opnd)
  | mover (w : Win)
  | moverSubmit (r : Req) (rind bytes : Nat) (v : DWord)
  | transferActivate (rind : Nat)
  | transferDone (rind place : Nat)
  | transferError (rind place : Nat) (elems : Nat) (cause : XferCause)
  | transferFailed (rind place : Nat)
  | sliceRead (a : Agent) (addr bytes : Nat) (spent : Bool)
  | sliceWrite (a : Agent) (addr : Nat) (data : List Byte) (poison : Bool)
  | fillLands (slice line : Nat)
  | writebackDone (slice line : Nat)
  | bisnpResponse (slice line : Nat) (dirty : Option LineData)
  | krTlrSet (r : Req) (n bytes : Nat) (v : DWord)
  | krTlrClear (r : Req) (n bytes : Nat) (v : DWord)
  | krTlrDrained (n : Nat)
  | preserveCreate (w : Win)
  | preserveCreateDone (id : Nat)
  | preserveRelease (w : Win)
  | preserveReleaseDone (id : Nat)
  | thrashWindowEnd (slice : Nat)
  | refreshDue (stack pc : Nat)
  | pipPauseEnd (stack pc : Nat)
  | pipRegionSet (r : Req) (n bytes : Nat) (v : DWord)
  | pipRegionClear (r : Req) (n bytes : Nat) (v : DWord)
  | pipRegionDrained (n : Nat)
  | pipSession (w : Win)
  | pipSubmit (r : Req) (bytes : Nat) (v : DWord)
  | pipAbort (w : Win)
  | pipAbortWrite (r : Req) (bytes : Nat) (v : DWord)
  | sessionOpen (s : Nat)
  | sessionRun (s : Nat)
  | waveEnd (s : Nat)
  | sessionCloseDone (s : Nat)
  | ld (s stack pc : Nat)
  | st (s stack pc : Nat)
  | ldx (s stack pc : Nat)
  | add (s stack pc : Nat)
  | mul (s stack pc : Nat)
  | fma (s stack pc : Nat)
  | adds (s stack pc : Nat)
  | muls (s stack pc : Nat)
  | fmas (s stack pc : Nat)
  | max (s stack pc : Nat)
  | min (s stack pc : Nat)
  | sqrt (s stack pc : Nat)
  | rcp (s stack pc : Nat)
  | mov (s stack pc : Nat)
  | zero (s stack pc : Nat)
  | sectorReceived (l : LinkId) (sender : Sender) (x : Sector) (u : SectorUse)
  | linkLaneTestDone (l : LinkId) (badBonds : List Nat) (retryOk recovered : Bool) (u : SectorUse)
  | writebackRetry (slice line : Nat) (failed : Option LinkId)
  | correctedMergeTimer (kind unit : Nat)
  | errlogBaseWrite (r : Req) (off bytes : Nat) (v : DWord)
  | errlogConsWrite (r : Req) (off bytes : Nat) (v : DWord)
  | gleanSector (stack : Nat) (flips : List (Nat × Codeword)) (late : Bool)
  | kretenGleanSector (slice : Nat) (flips : List (Nat × Codeword)) (late : Bool)
  | sweep (w : Win)
  | sweepDone (n : Nat)
  | smudgeArmWord (r : Req) (off bytes : Nat) (v : DWord)
  | smudgeArmCrc (r : Req) (off bytes : Nat) (v : DWord)
  | bypassSwitchChange (pair : Nat)
  | portEnable (r : Req) (p off bytes : Nat) (v : DWord)
  | portDisable (r : Req) (p off bytes : Nat) (v : DWord)
  | portRetrainWrite (r : Req) (p off bytes : Nat) (v : DWord)
  | trainFrame (p : Nat) (f : Frame)
  | equalizeDone (p : Nat)
  | equalizeTimeout (p : Nat)
  | retrainDone (p : Nat)
  | retrainTimeout (p : Nat)
  | failedRetryTimer (p : Nat)
  | signalLoss (p : Nat)
  | frameReceived (p : Nat) (f : Frame)
  | resendTimeout (p : Nat)
  | stampSend (p frac : Nat)
  | messageForward (p n : Nat)
  | write (p n : Nat)
  | combine (p n : Nat)
  | read (p n : Nat)
  | writeAck (p n : Nat)
  | readData (p n : Nat)
  | relay (p n : Nat)
  | requestTimeout (tag : Nat)
  | xcCtlArm (r : Req) (rind entry bytes : Nat) (v : DWord)
  | xcCtlOpen (r : Req) (rind entry bytes : Nat) (v : DWord)
  | xcCtlDisarm (r : Req) (rind entry bytes : Nat) (v : DWord)
  | routeInval (r : Req) (off bytes : Nat) (v : DWord)
  | recordWrite (w : Win) (off : Nat) (data : List Byte)
  | cueArm (w : Win)
  | cueCancel (w : Win)
  | fwStage (w : Win)
  | fwActivate (w : Win)
  | reset (w : Win)
  | complogRetry (log : Nat) (taken : Bool)
  | complogEnable (r : Req) (log off bytes : Nat) (v : DWord)
  | hdmCommit (base : DWord)
  | svcStart (r : Req) (n off bytes : Nat) (v : DWord)
  | svcStop (r : Req) (n off bytes : Nat) (v : DWord)
  | serviceLoadDone (n : Nat) (ok : Bool)
  | waitPoll (n : Nat)
  | serviceCanvasFaulted (n : Nat)
  | stepRelease (n : Nat)
  | servePoll (n : Nat)
  | loopStepDone (n : Nat)
  | loopCheckpointDone (n : Nat)
  | pmbusPoll (rails : List RailReport)
  | telemetryWindowEnd (domains : List DomainSample) (models : List (SensorId × Int)) (paces : List Nat)
  | powerManagerTick (estimateMw : Nat)
  | sequencerTarget (rail : Rail) (point : Nat)
  | voltageSettled (rail : Rail)
  | clockSwitchDone (rail : Rail)
  | sequencerTimeout (rail : Rail)
  | tileNapEnter (t : Nat)
  | tileNapWake (t : Nat)
  | tileDozeEnter (t : Nat)
  | tileDozeWake (t : Nat)
  | stackRestEnter (s : Nat)
  | stackRestWake (s : Nat)
  | blockEnable (r : Req) (off bytes : Nat) (v : DWord)
  | blockDisable (r : Req) (off bytes : Nat) (v : DWord)
  | blockPoweredUp (k : BlockIx)
  | blockDrainComplete (k : BlockIx)
  | sensorReading (s : SensorId) (reading model : Int)
  | graceExpires (lever : Nat)
  | powerGoodLoss (rail : Nat)
  | coldResetRelease (env : BootEnv)
  | xeostStepEnd (env : BootEnd)
  | computeResetComplete (f : ResetFindings)
  | laneTest (slice port : Nat) (failed : List Nat)
  | bondSwap (slice port : Nat)
  | quiescenceTimeout (slice port : Nat)
  | getCertificate (off len : Nat)
  | challenge (nonce : List Byte)
  | getMeasurements (index : Nat) (nonce : List Byte) (signed : Bool)
  | spdmUnsupportedRequest (code : Nat)
  | fwStageAddrWrite (r : Req) (bytes : Nat) (v : DWord)
  | fwActWrite (r : Req) (bytes : Nat) (v : DWord)
  | fwConfirm (r : Req) (off bytes : Nat) (v : DWord)
  | fwCancel (r : Req) (off bytes : Nat) (v : DWord)
  | keyReload (r : Req) (off bytes : Nat) (v : DWord)
  | receiptRead (w : Win) (bytes : Nat)
  | registerRead (r : Req) (bar2 : Bool) (off bytes : Nat)
  | hostLinkUp (rate width : Nat) (en : LinkEnables) (bar0 bar2 : DWord)
  | managementRequest (k : MgmtKind) (payload : List Byte)
  | powerGoodRise (env : BootEnv)
  | sequencerRetry (rail : Rail)
  | referenceLost
  | ppsOutPulse
  | entropyStartupDone
  | entropyDataDelivered
  | hueWindowStart
  | stampTimeout
  | perst
  | functionLevelReset
  | cxlReset
  | deepEnter
  | deepExit
  | coldReset
  | computeReset
  | getVersion
  | getCapabilities
  | negotiateAlgorithms
  | getDigests
  | stagingComplete
  | coreRestart
  | healthTimeout
  | grapevineOffer
  | receptionTimeout
  | ppsInEdge
  | slewEnd
deriving DecidableEq, Repr

end Sys2Proof
end

