-- ==== Sys2Proof/Decode.lean ====
section
/-! DEFINITION. The command that a word of the opcode table spells. No row of the table gives any bits (the part takes
events and records, not instruction words), so no word spells one. -/
namespace Sys2Proof

/-- The command a word of `nbits` bits spells, over the rows that give bits: none does. -/
def decodeTableWord (nbits w : Nat) : Option Instr :=
  match nbits, w with
  | _, _ => none

end Sys2Proof
end

