-- ==== Sys2Proof/Config.lean ====
section
/-! DEFINITION. What the spec leaves open: free values that no proof can see, as opaque constants. Each is named in
notes/assumptions. A statement that mentions one holds whatever the value is. -/
namespace Sys2Proof.Config

/-- Byte `a` of device-local memory while its contents are undefined, by the event that made them so (R75, R306,
R330). DESIGN CHOICE, safe (log 6). -/
opaque freeByte (epoch a : Nat) : Byte
/-- The `n`-th free yes-or-no of a run: a point on which the spec gives no rule and the outcome is one of two.
DESIGN CHOICE, safe (log 6). -/
opaque freeBool (n : Nat) : Bool
/-- The `n`-th free number of a run. DESIGN CHOICE, safe (log 6). -/
opaque freeNat (n : Nat) : Nat
/-- Whether counter copy `k` is the later of the two values that copies show, by draw (R90). DESIGN CHOICE, safe
(log 15). -/
opaque copyBit (n k : Nat) : Bool
/-- TAKEN of entry `n`-th read from a completion log in host memory, which the host owns (R457).
DESIGN CHOICE, safe (log 71). -/
opaque hostTaken (n : Nat) : Bool
/-- Host directory set of a line index (R285: 1,024 sets; the spec gives no index function). DESIGN CHOICE,
safe (log 21). -/
opaque dirSet (line : Nat) : Nat
/-- Number of the barrier or release line that a lane of an imported context waits on (the image of R145 does not
name it), by canvas, stage and program counter. DESIGN CHOICE, safe (log 18). -/
opaque importedWait (canvas stage pc : Nat) : Nat
/-- Approximations of R229 on normal inputs, whose results the spec bounds but does not fix. DESIGN
CHOICE, safe (log 17). -/
opaque frcp (x : Word) : Word
opaque frsqrt (x : Word) : Word
opaque fexp2 (x : Word) : Word
opaque flog2 (x : Word) : Word
/-- Payload bit pattern choices of a result the spec does not state, by operation and operands. DESIGN CHOICE, safe
(log 6). -/
opaque openValue (op : Nat) (a b : DWord) : DWord
/-- Ed448 (R560, R566): public key of a secret key, signature, verification. PRESUMED, safe
(log 89). -/
opaque ed448Public (secret : List Byte) : List Byte
opaque ed448Sign (secret msg : List Byte) : List Byte
opaque ed448Verify (pub msg sig : List Byte) : Bool
/-- X448 shared secret and AES-256-GCM opening (R566 to R569). PRESUMED, safe (log 89). -/
opaque x448 (secret pub : List Byte) : List Byte
opaque aesGcmOpen (key iv tag aad body : List Byte) : Option (List Byte)
opaque aesGcmSeal (key iv aad body : List Byte) : List Byte × List Byte
/-- Information bits that one outer block of the helper-data code decodes to, from its bits with erasures (`none`);
the spec gives the code's parameters and not its generator (R560). DESIGN CHOICE, safe (log 90). -/
opaque helperDecode (block : List (Option Bool)) : Option (List Bool)
/-- Contents that another specification fixes and this one does not: answers of the MCTP control, PLDM and SPDM
protocols (R18, R565, R588). PRESUMED, safe (log 87). -/
opaque protocolAnswer (code : Nat) (payload : List Byte) : List Byte
/-- The 57-byte public key of the device identity certificate in a DER certificate chain; none where the chain is
absent or does not parse (R564). DESIGN CHOICE, safe (log 90). -/
opaque certKey (chain : List Byte) : Option (List Byte)
/-- The boot ROM image (R565), which no rule gives. DESIGN CHOICE, safe (log 6). -/
opaque romImage : List Byte
/-- ROOT_DIGEST in the boot ROM (R564). DESIGN CHOICE, safe (log 6). -/
opaque rootDigest : List Byte

end Sys2Proof.Config
end

