-- ==== Sys2Proof/Machine/Tab.lean ====
section
/-! DEFINITION. Keyed tables, sorted lists of numbers, bit fields and byte order: the helpers that every operation of
the device uses. -/
namespace Sys2Proof.Machine
open Sys2Proof

/-! ### Tables -/

/-- The entry at `k`, if any. -/
def tfind {α : Type} : Tab α → Nat → Option α
  | [], _ => none
  | (j, v) :: t, k => if j = k then some v else tfind t k

/-- The entry at `k`, or `d`. -/
def tget {α : Type} (d : α) (t : Tab α) (k : Nat) : α := (tfind t k).getD d

/-- Write the entry at `k`, keeping keys in rising order. -/
def tput {α : Type} : Tab α → Nat → α → Tab α
  | [], k, v => [(k, v)]
  | (j, w) :: t, k, v =>
    if k < j then (k, v) :: (j, w) :: t
    else if k = j then (k, v) :: t
    else (j, w) :: tput t k v

/-- Remove the entry at `k`. -/
def tdel {α : Type} : Tab α → Nat → Tab α
  | [], _ => []
  | (j, w) :: t, k => if j = k then t else (j, w) :: tdel t k

/-- Change the entry at `k`, which reads `d` where absent. -/
def tmod {α : Type} (d : α) (t : Tab α) (k : Nat) (f : α → α) : Tab α := tput t k (f (tget d t k))

/-- Keep the entries that satisfy `p`. -/
def tfilter {α : Type} (p : Nat → α → Bool) (t : Tab α) : Tab α := t.filter fun e => p e.1 e.2

/-- Change every entry. -/
def tmap {α β : Type} (f : Nat → α → β) (t : Tab α) : Tab β := t.map fun e => (e.1, f e.1 e.2)

/-! ### Sorted lists of numbers without repeats -/

def nmem (x : Nat) : List Nat → Bool
  | [] => false
  | y :: t => x == y || nmem x t

def nadd (x : Nat) : List Nat → List Nat
  | [] => [x]
  | y :: t => if x < y then x :: y :: t else if x = y then y :: t else y :: nadd x t

def ndel (x : Nat) : List Nat → List Nat
  | [] => []
  | y :: t => if x = y then t else y :: ndel x t

/-! ### Bits of numbers -/

/-- Bits [hi:lo] of a number. -/
def bits (v hi lo : Nat) : Nat := (v >>> lo) % 2 ^ (hi + 1 - lo)

/-- Bit `i` of a number. -/
def bitAt (v i : Nat) : Bool := (v >>> i) % 2 == 1

/-- The number with bits [hi:lo] replaced. -/
def putBits (v hi lo x : Nat) : Nat :=
  v - (bits v hi lo <<< lo) + ((x % 2 ^ (hi + 1 - lo)) <<< lo)

/-- Set or clear bit `i`. -/
def putBit (v i : Nat) (b : Bool) : Nat := putBits v i i b.toNat

/-- Numbers of the bits that are 1, below `n`. -/
def bitList (n v : Nat) : List Nat := (List.range n).filter (bitAt v)

def popcount (n v : Nat) : Nat := (bitList n v).length

/-- The number whose set bits are listed. -/
def ofBitList (l : List Nat) : Nat := l.foldl (fun v i => if bitAt v i then v else v + 2 ^ i) 0

/-- Signed value of the low `n` bits (two's complement). -/
def sext (n v : Nat) : Int :=
  let x := v % 2 ^ n
  if x < 2 ^ (n - 1) then (x : Int) else (x : Int) - (2 ^ n : Nat)

/-- Low `n` bits of an integer in two's complement. -/
def wrapInt (n : Nat) (x : Int) : Nat := (x % ((2 ^ n : Nat) : Int)).toNat

def clampInt (lo hi x : Int) : Int := if x < lo then lo else if hi < x then hi else x

/-- Round up to a multiple. -/
def ceilDiv (a b : Nat) : Nat := if b = 0 then 0 else (a + b - 1) / b

/-! ### Byte order (R17: little-endian) -/

/-- The number that bytes spell, byte 0 lowest. -/
def leNat : List Byte → Nat
  | [] => 0
  | b :: t => b.toNat + 256 * leNat t

/-- `n` bytes of a number, byte 0 lowest. -/
def leBytes : Nat → Nat → List Byte
  | 0, _ => []
  | n + 1, v => BitVec.ofNat 8 v :: leBytes n (v / 256)

/-- `n` bytes at offset `off` of a byte list, as a number. -/
def leAt (l : List Byte) (off n : Nat) : Nat := leNat ((l.drop off).take n)

/-- Bits [hi:lo] of the 64-bit word at offset `off`. -/
def fieldAt (l : List Byte) (off hi lo : Nat) : Nat := bits (leAt l off 8) hi lo

/-- Pad or cut a byte list to `n` bytes. -/
def fitBytes (n : Nat) (l : List Byte) : List Byte := (l ++ List.replicate (n - l.length) 0).take n

/-- A list cut in pieces of `n`, with fuel for its length. -/
def piecesAux {α : Type} (n : Nat) : Nat → List α → List (List α)
  | 0, _ => []
  | _, [] => []
  | f + 1, l => l.take n :: piecesAux n f (l.drop n)

def pieces {α : Type} (n : Nat) (l : List α) : List (List α) := piecesAux n l.length l

/-- `n` iterations of a step. -/
def iter {α : Type} (f : α → α) : Nat → α → α
  | 0, x => x
  | n + 1, x => iter f n (f x)

/-- Repeat a step that says when it has nothing left to do, at most `n` times. -/
def iterOpt {α : Type} (f : α → Option α) : Nat → α → α
  | 0, x => x
  | n + 1, x => match f x with
    | none => x
    | some y => iterOpt f n y

/-- Insert by a key in stable rising order; sort. -/
def insBy {α : Type} (key : α → Nat) (x : α) : List α → List α
  | [] => [x]
  | y :: t => if key x < key y then x :: y :: t else y :: insBy key x t

def sortBy {α : Type} (key : α → Nat) (l : List α) : List α := l.foldl (fun acc x => insBy key x acc) []

/-- Replace the elements that satisfy `p`. -/
def lmod {α : Type} (p : α → Bool) (f : α → α) (l : List α) : List α := l.map fun x => if p x then f x else x

end Sys2Proof.Machine
end

