-- ==== Sys2Proof/Machine/Formats.lean ====
section
/-! DEFINITION. Number formats and arithmetic (R204 to R229): element formats, exact values, rounding, FP32 operations
and INT32 accumulation. Arithmetic is exact on integers and rounds once at the end. -/
namespace Sys2Proof.Machine
open Sys2Proof

/-- The exact value of an element: (−1)^neg × m × 2^e, an infinity, or NaN. -/
inductive FVal where
  | nan
  | inf (neg : Bool)
  | fin (neg : Bool) (m : Nat) (e : Int)
deriving DecidableEq, Repr

/-- A floating-point format (R207). `maxE`, `maxM`: exponent field and mantissa of the largest finite value. -/
structure FloatFmt where
  ebits  : Nat
  mbits  : Nat
  bias   : Nat
  hasInf : Bool
  hasNan : Bool
  flush  : Bool
  maxE   : Nat
  maxM   : Nat
  canon  : Nat
deriving DecidableEq, Repr

def floatFmt (code : Nat) : Option FloatFmt :=
  if code = 0x01 then some ⟨8, 23, 127, true, true, true, 254, 2 ^ 23 - 1, 0x7FC00000⟩
  else if code = 0x02 then some ⟨5, 10, 15, true, true, false, 30, 2 ^ 10 - 1, 0x7E00⟩
  else if code = 0x03 then some ⟨8, 7, 127, true, true, true, 254, 2 ^ 7 - 1, 0x7FC0⟩
  else if code = 0x04 then some ⟨4, 3, 7, false, true, false, 15, 6, 0x7F⟩
  else if code = 0x05 then some ⟨5, 2, 15, true, true, false, 30, 3, 0x7E⟩
  else if code = 0x06 then some ⟨3, 2, 3, false, false, false, 7, 3, 0⟩
  else if code = 0x07 then some ⟨2, 3, 1, false, false, false, 3, 7, 0⟩
  else if code = 0x08 then some ⟨2, 1, 1, false, false, false, 3, 1, 0⟩
  else none

/-- Width in bits of an element format code (R204); 0 where unassigned. -/
def fmtWidth (code : Nat) : Nat :=
  if code = 0x01 || code = 0x09 then 32
  else if code = 0x02 || code = 0x03 then 16
  else if code = 0x04 || code = 0x05 || code = 0x0A || code = 0x10 then 8
  else if code = 0x06 || code = 0x07 then 6
  else if code = 0x08 || code = 0x0B then 4
  else if code = 0x0C || code = 0x0D then 2
  else if code = 0x0E || code = 0x0F then 1
  else if code = 0x00 then 8
  else 0

/-- The value of a floating-point element (R207 to R209); FP32 and BF16 subnormals read as zero of their sign. -/
def floatVal (f : FloatFmt) (x : Nat) : FVal :=
  let m := bits x (f.mbits - 1) 0
  let e := bits x (f.mbits + f.ebits - 1) f.mbits
  let s := bitAt x (f.mbits + f.ebits)
  if f.hasInf && e == 2 ^ f.ebits - 1 then (if m = 0 then .inf s else .nan)
  else if f.hasNan && !f.hasInf && e == 2 ^ f.ebits - 1 && m == 2 ^ f.mbits - 1 then .nan
  else if e = 0 then
    (if f.flush then .fin s 0 0 else .fin s m (1 - (f.bias : Int) - (f.mbits : Int)))
  else .fin s (2 ^ f.mbits + m) ((e : Int) - (f.bias : Int) - (f.mbits : Int))

def intVal (x : Int) : FVal := .fin (decide (x < 0)) x.natAbs 0

/-- The value of an element of any format that holds values (R204, R210); `bad` marks the W2T code 0b10. -/
def elemVal (code x : Nat) : FVal :=
  match floatFmt code with
  | some f => floatVal f x
  | none =>
    if code = 0x09 then intVal (sext 32 x)
    else if code = 0x0A then intVal (sext 8 x)
    else if code = 0x0B then intVal (sext 4 x)
    else if code = 0x0C then intVal (if x % 4 = 0 then 0 else if x % 4 = 1 then 1 else if x % 4 = 2 then -2 else -1)
    else if code = 0x0D then intVal (if x % 4 = 1 then 1 else if x % 4 = 3 then -1 else 0)
    else if code = 0x0E then intVal (if x % 2 = 0 then -1 else 1)
    else if code = 0x0F then intVal (if x % 2 = 0 then 0 else 1)
    else .fin false 0 0

/-- How a conversion rounds: to nearest even, or stochastically with `b` bits whose draw is `r` (R222, R224). -/
inductive Rounding where
  | rne
  | stochastic (b r : Nat)
deriving DecidableEq, Repr

/-- m × 2^e as a multiple of 2^q. -/
def roundAt (rd : Rounding) (m : Nat) (e q : Int) : Nat :=
  if q ≤ e then m <<< (e - q).toNat
  else
    let s := (q - e).toNat
    let k := m >>> s
    let rem := m % 2 ^ s
    if rem = 0 then k
    else match rd with
      | .rne => if 2 * rem > 2 ^ s || (2 * rem == 2 ^ s && k % 2 == 1) then k + 1 else k
      | .stochastic b r => let t := (rem <<< b) >>> s; if r + t ≥ 2 ^ b then k + 1 else k

/-- Exponent of the leading bit of m × 2^e, for m > 0. -/
def topExp (m : Nat) (e : Int) : Int := (Nat.log2 m : Int) + e

/-- A rounded magnitude: the encoded exponent and mantissa field, or overflow. -/
inductive Rounded where
  | zero
  | enc (x : Nat)
  | over
deriving DecidableEq, Repr

def roundMag (f : FloatFmt) (rd : Rounding) (m : Nat) (e : Int) : Rounded :=
  if m = 0 then .zero
  else
    let emin : Int := 1 - (f.bias : Int)
    let t := topExp m e
    let q := (if f.flush then t else max t emin) - (f.mbits : Int)
    let k := roundAt rd m e q
    -- k carries the hidden bit unless the value is subnormal; a carry out moves to the next exponent
    let (k, q) := if k = 2 ^ (f.mbits + 1) then (2 ^ f.mbits, q + 1) else (k, q)
    let ex := q + (f.mbits : Int)
    if k = 0 then .zero
    else if k < 2 ^ f.mbits then .enc k
    else if f.flush && decide (ex < emin) then .zero
    else
      let eb := (ex + (f.bias : Int)).toNat
      if eb > f.maxE || (eb == f.maxE && decide (k - 2 ^ f.mbits > f.maxM)) then .over
      else .enc (eb * 2 ^ f.mbits + (k - 2 ^ f.mbits))

/-- A converted element with what it adds to SAT and NAN_LOST (R223). -/
structure Converted where
  x    : Nat
  sat  : Nat := 0
  lost : Nat := 0
deriving DecidableEq, Repr

def signBit (f : FloatFmt) (neg : Bool) : Nat := neg.toNat * 2 ^ (f.mbits + f.ebits)
def maxFinite (f : FloatFmt) : Nat := f.maxE * 2 ^ f.mbits + f.maxM
def infPattern (f : FloatFmt) : Nat := (2 ^ f.ebits - 1) * 2 ^ f.mbits

/-- Convert to a floating-point target (R221, R223). -/
def toFloat (f : FloatFmt) (rd : Rounding) (sat : Bool) (v : FVal) : Converted :=
  match v with
  | .nan => if f.hasNan then { x := f.canon } else { x := 0, lost := 1 }
  | .inf s =>
    if f.hasInf then
      (if sat then { x := signBit f s + maxFinite f, sat := 1 } else { x := signBit f s + infPattern f })
    else { x := signBit f s + maxFinite f, lost := 1 }
  | .fin s m e =>
    match roundMag f rd m e with
    | .zero => { x := signBit f s }
    | .enc k => { x := signBit f s + k }
    | .over =>
      if f.hasInf && !sat then { x := signBit f s + infPattern f }
      else { x := signBit f s + maxFinite f, sat := 1 }

/-- Convert to a two's complement target of `w` bits (R223). -/
def toInt (w : Nat) (rd : Rounding) (v : FVal) : Converted :=
  let hi : Int := ((2 ^ (w - 1) : Nat) : Int) - 1
  let lo : Int := -((2 ^ (w - 1) : Nat) : Int)
  match v with
  | .nan => { x := 0, lost := 1 }
  | .inf s => { x := wrapInt w (if s then lo else hi), sat := 1 }
  | .fin s m e =>
    let k : Int := (roundAt rd m e 0 : Int)
    let k := if s then -k else k
    let c := clampInt lo hi k
    { x := wrapInt w c, sat := if c = k then 0 else 1 }

/-- Convert a value to an element format that conversions target (R230: codes 0x01 to 0x0B). -/
def toElem (code : Nat) (rd : Rounding) (sat : Bool) (v : FVal) : Converted :=
  match floatFmt code with
  | some f => toFloat f rd sat v
  | none => toInt (fmtWidth code) rd v

/-! ### FP32 arithmetic (R208, R216, R227, R228) -/

def fmtFp32 : FloatFmt := ⟨8, 23, 127, true, true, true, 254, 2 ^ 23 - 1, 0x7FC00000⟩

def fp32Val (x : Word) : FVal := floatVal fmtFp32 x.toNat
/-- Round a value to FP32, to nearest even. -/
def fp32Round (v : FVal) : Word := BitVec.ofNat 32 (toFloat fmtFp32 .rne false v).x

/-- The exact product. -/
def vmul (a b : FVal) : FVal :=
  match a, b with
  | .nan, _ => .nan
  | _, .nan => .nan
  | .inf s, .inf t => .inf (xor s t)
  | .inf s, .fin t m _ => if m = 0 then .nan else .inf (xor s t)
  | .fin t m _, .inf s => if m = 0 then .nan else .inf (xor s t)
  | .fin s m e, .fin t n f => .fin (xor s t) (m * n) (e + f)

/-- m × 2^e as a signed multiple of 2^q, q ≤ e. -/
def signedAt (s : Bool) (m : Nat) (e q : Int) : Int :=
  let k : Int := ((m <<< (e - q).toNat : Nat) : Int)
  if s then -k else k

/-- The exact sum, with the zero signs of R216. -/
def vadd (a b : FVal) : FVal :=
  match a, b with
  | .nan, _ => .nan
  | _, .nan => .nan
  | .inf s, .inf t => if s = t then .inf s else .nan
  | .inf s, .fin _ _ _ => .inf s
  | .fin _ _ _, .inf s => .inf s
  | .fin s m e, .fin t n f =>
    if m = 0 && n = 0 then .fin (s && t) 0 0
    else if m = 0 then .fin t n f
    else if n = 0 then .fin s m e
    else
      let q := min e f
      let k := signedAt s m e q + signedAt t n f q
      if k = 0 then .fin false 0 0 else .fin (decide (k < 0)) k.natAbs q

def vneg (a : FVal) : FVal := match a with
  | .nan => .nan
  | .inf s => .inf (!s)
  | .fin s m e => .fin (!s) m e

def fadd (a b : Word) : Word := fp32Round (vadd (fp32Val a) (fp32Val b))
def fmul (a b : Word) : Word := fp32Round (vmul (fp32Val a) (fp32Val b))
/-- Fused multiply-add, rounded once (R227). -/
def ffma (a b c : Word) : Word := fp32Round (vadd (vmul (fp32Val a) (fp32Val b)) (fp32Val c))

/-- Order of two values; `none` where one is NaN. −0 equals +0. -/
def vcmp (a b : FVal) : Option Ordering :=
  let rank (v : FVal) : Int := match v with
    | .inf true => -1
    | .inf false => 1
    | _ => 0
  match a, b with
  | .nan, _ => none
  | _, .nan => none
  | .fin s m e, .fin t n f =>
    let q := min e f
    some (compare (signedAt s m e q) (signedAt t n f q))
  | x, y => some (compare (rank x) (rank y))

def fcmp (a b : Word) : Option Ordering := vcmp (fp32Val a) (fp32Val b)

def isNan (v : FVal) : Bool := v == .nan
def isNegV (v : FVal) : Bool := match v with
  | .nan => false
  | .inf s => s
  | .fin s _ _ => s
def isZeroV (v : FVal) : Bool := match v with
  | .fin _ m _ => m == 0
  | _ => false

/-- FP32 as the arithmetic delivers it: NaN canonical, subnormals flushed. -/
def fcanon (a : Word) : Word := fp32Round (fp32Val a)

/-- MIN and MAX (R228): the lesser or greater operand, −0 below +0. -/
def fminmax (mx : Bool) (a b : Word) : Word :=
  let va := fp32Val a
  let vb := fp32Val b
  if isNan va && isNan vb then 0x7FC00000
  else if isNan va then fcanon b
  else if isNan vb then fcanon a
  else
    let aLess := match vcmp va vb with
      | some .lt => true
      | some .gt => false
      | _ => isNegV va && !isNegV vb
    if aLess = mx then fcanon b else fcanon a

def fmin32 (a b : Word) : Word := fminmax false a b
def fmax32 (a b : Word) : Word := fminmax true a b

/-- Integer square root by bits from bit `n`. -/
def isqrtAux (x : Nat) : Nat → Nat → Nat
  | 0, r => r
  | n + 1, r => let t := r + 2 ^ n; isqrtAux x n (if t * t ≤ x then t else r)

def isqrt (x : Nat) : Nat := isqrtAux x (Nat.log2 x / 2 + 1) 0

/-- Square root, correctly rounded (R229). -/
def fsqrt32 (a : Word) : Word :=
  match fp32Val a with
  | .nan => 0x7FC00000
  | .inf s => if s then 0x7FC00000 else 0x7F800000
  | .fin s m e =>
    if m = 0 then BitVec.ofNat 32 (s.toNat * 2 ^ 31)
    else if s then 0x7FC00000
    else
      let odd := e % 2 ≠ 0
      let m := if odd then 2 * m else m
      let e := if odd then e - 1 else e
      let x := m <<< 60
      let r := isqrt x
      -- one further bit marks an inexact root
      fp32Round (.fin false (2 * r + (if r * r = x then 0 else 1)) (e / 2 - 31))

/-! ### Functions of bounded error (R229)

A result is any FP32 value within `n` units in the last place of the exact one; which is a free value. Units are those of
the exact result's binade, and candidates are counted in halves of a unit, so that those of the binade below are among
them. -/

/-- The candidates around k halves of a unit, rounded down from the exact value: those at most `n` units away. -/
def ulpCandidates (n k : Nat) (exact : Bool) : List Nat :=
  let lo := if exact then k - 2 * n else k + 1 - 2 * n
  ((List.range (4 * n + 1)).map (lo + ·)).filter fun c => decide (c ≤ k + 2 * n) && (decide (c < 2 ^ 24) || c % 2 == 0)

/-- An FP32 value within `n` units of (−1)^neg × y × 2^e, where `y` is rounded down unless `exact`, and has 25 bits or
more unless exact.
DESIGN CHOICE, safe (log 17). -/
def within (n : Nat) (neg : Bool) (y : Nat) (exact : Bool) (e : Int) (pick : Nat) : Word :=
  let y' := y <<< 25
  let s := Nat.log2 y' - 24
  let cs := ulpCandidates n (y' >>> s) (exact && y' % 2 ^ s == 0)
  fp32Round (.fin neg (cs.getD (pick % cs.length) 0) (e - 25 + (s : Int)))

/-- Reciprocal (R229): zero gives an infinity and infinity a zero of its sign; within 1 unit.
DESIGN CHOICE, safe (log 17). -/
def frcp32 (a : Word) : Word :=
  match fp32Val a with
  | .nan => 0x7FC00000
  | .inf s => BitVec.ofNat 32 (s.toNat * 2 ^ 31)
  | .fin s m e =>
    if m = 0 then BitVec.ofNat 32 (s.toNat * 2 ^ 31 + 0x7F800000)
    else within 1 s (2 ^ 60 / m) (2 ^ 60 % m == 0) (-60 - e) (Config.frcp a).toNat

/-- Reciprocal square root (R229): within 1 unit.
DESIGN CHOICE, safe (log 17). -/
def frsqrt32 (a : Word) : Word :=
  match fp32Val a with
  | .nan => 0x7FC00000
  | .inf s => if s then 0x7FC00000 else 0
  | .fin s m e =>
    if m = 0 then BitVec.ofNat 32 (s.toNat * 2 ^ 31 + 0x7F800000)
    else if s then 0x7FC00000
    else
      let odd := e % 2 ≠ 0
      let m := if odd then 2 * m else m
      let e := if odd then e - 1 else e
      let y := isqrt (2 ^ 120 / m)
      within 1 false y (y * y * m == 2 ^ 120) (-60 - e / 2) (Config.frsqrt a).toNat

/-- The roots 2^(2^−1), 2^(2^−2), … as multiples of 2^−128, from the root before them. -/
def twoRoots : Nat → Nat → List Nat
  | 0, _ => []
  | n + 1, c => let r := isqrt (c <<< 128); r :: twoRoots n r

/-- 2^(f × 2^−96) as a multiple of 2^−128, rounded down, for f below 2^96: the product of the roots that its bits name. -/
def powTwo (f : Nat) : Nat :=
  ((twoRoots 96 (2 ^ 129)).mapIdx fun i r => (i, r)).foldl (fun acc r =>
    if bitAt f (95 - r.1) then (acc * r.2) >>> 128 else acc) (2 ^ 128)

/-- Base-2 exponential (R229): above the range +∞, below 2⁻¹²⁶ +0; within 2 units.
DESIGN CHOICE, safe (log 17). -/
def fexp2_32 (a : Word) : Word :=
  let v := fp32Val a
  match v with
  | .nan => 0x7FC00000
  | .inf s => if s then 0 else 0x7F800000
  | .fin s m e =>
    match vcmp v (intVal 128), vcmp v (intVal (-126)) with
    | some .lt, some .lt => 0
    | some .lt, _ =>
      -- the operand in units of 2^−96, rounded down
      let x : Int := if e + 96 < 0 then (if s then -((m : Int)) else m) / 2 ^ (-(e + 96)).toNat
        else (if s then -((m : Int)) else m) * 2 ^ (e + 96).toNat
      let whole := decide (m = 0) || (x % 2 ^ 96 == 0 && decide (-96 ≤ e))
      within 2 false (powTwo (x % 2 ^ 96).toNat) whole (x / 2 ^ 96 - 128) (Config.fexp2 a).toNat
    | _, _ => 0x7F800000

/-- The binary digits of log2 of a number from 1 to 2, given in units of 2^−200: each squaring yields one. -/
def logDigits : Nat → Nat → Nat → Nat
  | 0, _, acc => acc
  | n + 1, z, acc =>
    let q := (z * z) >>> 200
    if q ≥ 2 ^ 201 then logDigits n (q / 2) (2 * acc + 1) else logDigits n q (2 * acc)

/-- Base-2 logarithm (R229): zero gives −∞, a negative operand NaN; within 2 units, and the logarithm of 1 is +0.
DESIGN CHOICE, safe (log 17). -/
def flog2_32 (a : Word) : Word :=
  match fp32Val a with
  | .nan => 0x7FC00000
  | .inf s => if s then 0x7FC00000 else 0x7F800000
  | .fin s m e =>
    if m = 0 then 0xFF800000
    else if s then 0x7FC00000
    else
      let t := Nat.log2 m
      let pow := m == 2 ^ t
      let l : Int := topExp m e * 2 ^ 96 + (if pow then 0 else (logDigits 96 (m <<< (200 - t)) 0 : Nat))
      if l = 0 && pow then 0
      else if l < 0 then within 2 true (if pow then l.natAbs else l.natAbs - 1) pow (-96) (Config.flog2 a).toNat
      else within 2 false l.toNat pow (-96) (Config.flog2 a).toNat

/-! ### INT32 accumulation (R217) -/

/-- One addition, by INT_ACC: wraps, or saturates and counts a clamp. -/
def intAcc (saturate : Bool) (a b : Word) : Word × Nat :=
  let s := a.toInt + b.toInt
  if saturate then
    let c := clampInt (-2147483648) 2147483647 s
    (BitVec.ofInt 32 c, if c = s then 0 else 1)
  else (BitVec.ofInt 32 s, 0)

/-! ### Packed sequences (R205) -/

/-- Element `i` of a packed sequence of width `w`. -/
def packedElem (seq : Nat) (w i : Nat) : Nat := bits seq (w * i + w - 1) (w * i)

/-- Elements of width `w` packed from element 0. -/
def packElems (w : Nat) (xs : List Nat) : Nat :=
  (xs.foldr (fun x acc => x % 2 ^ w + (acc <<< w)) 0)

end Sys2Proof.Machine
end

