-- ==== Sys2Proof/Machine/State.lean ====
section
/-! DEFINITION. The state of the device: every register, buffer, queue, table and mode the spec gives it, as plain
data, with the queue of waiting commands. `State.reset` is the device as cold reset leaves it, before bring-up.
Sparse tables (`Tab`) hold the entries that differ from the value an absent key reads as; the operations of
`Machine/Tab.lean` and `Machine/Mem.lean` keep them in one form. -/
namespace Sys2Proof.Machine
open Sys2Proof

/-- Why the block stops. No command of this device stops it: every row of the table has an effect, an error
response or no effect at all (an event whose condition does not hold). -/
inductive Fault where
  /-- Raised by nobody: kept so that the outcome type has a closed reason type. Safe. -/
  | none
deriving DecidableEq, Repr

/-- Why a command has no meaning. -/
inductive Refusal where
  /-- Raised by a dispatch arm that has no meaning yet, with the row's mnemonic. Safe. -/
  | notModelled (mnemonic : String)
deriving DecidableEq, Repr

/-- Byte-addressed storage: listed bytes (none of them 0, addresses rising; an unlisted byte reads 0), the words
whose POISON bit is 1 (rising word numbers), and, per word, the bits in which the stored codeword differs from
the fresh codeword of its data and poison (R354; no entry is 0). -/
structure Mem where
  cells  : List Host.Cell := []
  poison : List Nat := []
  errs   : Tab Codeword := []
deriving DecidableEq, Repr

/-! ### Registers of threads and seats -/

/-- A 32-bit general register or vector-unit register of one lane, with its poison bit (R170) and its stored
parity bit (R357). An unwritten register reads 0 with good parity (R117). -/
structure Reg32 where
  val    : Word := 0
  poison : Bool := false
  parity : Bool := false
deriving DecidableEq, Repr

/-- A 64-bit stage register as two halves (R115). -/
structure SReg where
  lo : Reg32 := {}
  hi : Reg32 := {}
deriving DecidableEq, Repr

/-- What a lane waits for (R120). -/
inductive LaneWait where
  | ready
  | barrier (b : Nat)
  | cue (line : Nat)
  | streamWrite
  | streamRead (stream : Nat)
  | easel
  /-- EASEL.WAIT on the matrix instructions of its group with numbers below this (R179). -/
  | easelWait (upTo : Nat)
deriving DecidableEq, Repr

/-- One lane of a group (R117, R118, R145): live, its program counter in 8 B units, yielded, and its wait. -/
structure Lane where
  live    : Bool := true
  pc      : Nat := 0
  yielded : Bool := false
  wait    : LaneWait := .ready
deriving DecidableEq, Repr

/-- One group of a block: its 32 lanes, the written registers (key 32 × register + lane), and its current path
(R121). -/
structure Group where
  lanes   : List Lane
  regs    : Tab Reg32 := []
  pathPc  : Nat := 0
  pathRun : Nat := 0
deriving DecidableEq, Repr

/-- One barrier of a block (R134 to R137, R145). Arrivals are keyed by 32 × group + lane; so is the named set. -/
structure Barrier where
  valid     : Bool := false
  phase     : Bool := false
  groupMask : Nat := 0
  laneMask  : Nat := 0
  named     : List Nat := []
  arrived   : List Nat := []
  elapsed   : Nat := 0
deriving DecidableEq, Repr

/-- A stage context, live or saved (R80, R142 to R145). -/
structure Ctx where
  mid       : Bool := false
  gen       : Nat := 1
  /-- LANES of the writer, and the tile of the save where an import gave it (R144). -/
  lanesW    : Nat := 32
  fromTile  : Option Nat := none
  stepCount : Nat := 0
  savedAt   : Nat := 0
  release   : Tab Nat := []
  sregs     : Tab SReg := []
  /-- Consumed counts, keyed 16 × group + line (R109). -/
  consumed  : Tab Nat := []
  barriers  : Tab Barrier := []
  /-- Vector-unit registers, keyed 128 × register + lane. -/
  vregs     : Tab Reg32 := []
  groups    : Tab Group := []
  /-- The swapped region while it is saved, addressed from its start. -/
  swap      : Mem := {}
deriving DecidableEq, Repr

/-- A hold record (R189). -/
structure HoldRec where
  fmt      : Nat
  rows     : Nat
  src      : Nat
  srcPitch : Nat
  srcScale : Nat
deriving DecidableEq, Repr

/-- Seat states (R86). -/
inductive SeatSt where
  | parked | restoring | seated | saving
deriving DecidableEq, Repr

/-- One seat of a tile: where its canvas image places it (R71), its state, its context and its hold records. -/
structure Seat where
  canvas   : Nat
  order    : Nat
  stage    : Nat
  rank     : Nat
  minSeat  : Nat
  offset   : Nat
  swapSize : Nat
  swapBase : Nat
  keptSize : Nat
  keptBase : Nat
  yieldWin : Nat
  lead     : Nat
  /-- Place of its reserved context: in the seat area, or in the spill area at this offset (R78). -/
  spillAt  : Option Nat
  st       : SeatSt := .parked
  ctx      : Ctx := {}
  /-- While `ctx` is live: the saved context it was restored from (R142). -/
  saved    : Option Ctx := none
  hold0    : Option HoldRec := none
  hold1    : Option HoldRec := none
  /-- The prefetch of R84 for the coming turn has begun. -/
  prefetched : Bool := false
deriving DecidableEq, Repr

/-! ### The easel -/

/-- A matrix instruction in the easel queue, with the operands captured at issue (R180, R183). -/
structure EaselOp where
  id      : Nat
  hold    : Bool
  group   : Nat
  lanes   : Nat
  pc      : Nat
  bank    : Nat
  fmt     : Nat
  /-- ROWS of a HOLD, M of an MMA. -/
  rows    : Nat
  src     : Nat
  pitch   : Nat
  scale   : Nat
  gather  : Bool
  /-- Entries of the outstanding batch at issue, for a gathered feed (R195). -/
  entries : Nat
  stream  : Nat
  first   : Nat
  col     : Nat
  acc     : Nat
  accMode : Bool
  outMode : Bool
  out     : Nat
  outPitch : Nat
  outFmt  : Nat
  round   : Nat
  /-- Rounding registers 28 to 31 read at issue (R250). -/
  seedLo  : DWord
  seedHi  : DWord
  tkey    : DWord
  key31   : DWord
  /-- Dispatched into the queue (true), or waiting in its collector for an entry (R183). -/
  queued  : Bool
  begun   : Bool
  /-- The chain this instruction belongs to. -/
  chain   : Nat
  /-- Source rows read for certain, and the stage buffer before each store that came between rows: with `k` rows read,
  the store is not seen by rows below `k` (R178, R188). -/
  rowsRead : Nat := 0
  snaps   : List (Nat × Mem) := []
deriving DecidableEq, Repr

/-- A chain with its exit buffer (R185): the running sums of M rows of 128 columns as 32-bit patterns, the
instruction whose rows exit last, and where it writes. -/
structure Chain where
  id      : Nat
  /-- Running sums of the rows, from the chain's start on. -/
  sums    : List (List Word) := []
  /-- Set once an instruction of the chain has fed: an exit buffer is in use. -/
  started : Bool := false
  /-- The latest instruction whose rows are in the sums, and the latest that has joined. -/
  last    : EaselOp
  tail    : EaselOp
  /-- Its instructions, as (group, instruction number). -/
  members : List (Nat × Nat) := []
  /-- Batch rows of the last instruction as (packet sequence number, producer rank, packet row), for R250. -/
  keys    : List (Nat × Nat × Nat) := []
deriving DecidableEq, Repr

/-- Current keeper states (R198). -/
inductive KeeperSt where
  | run | keep | rampDown | idle | rampUp
deriving DecidableEq, Repr

/-- The easel of a tile: queue, held elements of the two banks as byte rows (R175), chains, reloads, keeper. -/
structure Easel where
  queue    : List EaselOp := []
  held0    : List (List Byte) := []
  held1    : List (List Byte) := []
  scales0  : List Byte := []
  scales1  : List Byte := []
  chains   : List Chain := []
  /-- The records that reloads after a restore still load, by bank, and banks whose reload met a poisoned word (R191). -/
  reload0  : Option HoldRec := none
  reload1  : Option HoldRec := none
  bad0     : Bool := false
  bad1     : Bool := false
  nextId   : Nat := 0
  keeper   : KeeperSt := .idle
  level    : Nat := 0
  /-- KEEP_GAP and RAMP_STEP in force: a write of EASEL_KEEP acts from the next gap on (R200). -/
  gap      : Nat := 0x40
  step     : Nat := 0x10
deriving DecidableEq, Repr

/-! ### The tile -/

/-- Phases of a sitting switch (R79). -/
inductive SwitchSt where
  | none
  | waitMinSeat
  | waitYield
  | draining
  | saving
  | restoring
deriving DecidableEq, Repr

/-- Tile power states (R505). -/
inductive TilePwr where
  | run | nap | doze
deriving DecidableEq, Repr

/-- A stream generator of a tile: its state and the bit position in its output word (R239, R244). -/
structure Gen where
  s0  : DWord
  s1  : DWord
  pos : Nat := 0
deriving DecidableEq, Repr

/-- One logical tile. -/
structure Tile where
  sb        : Mem := {}
  /-- Index of the seat that is current (by ORDER), if any. -/
  cur       : Option Nat := none
  seats     : Tab Seat := []
  canvas    : Option Nat := none
  sw        : SwitchSt := .none
  /-- MIN_SEAT has elapsed since the current seat was seated. -/
  minDone   : Bool := false
  /-- A rotation cue has fired and waits for its switch: seat to come and its due time (R83). -/
  pendingSw : List (Nat × Nat) := []
  /-- Stop or canvas end asked the seat to leave with none following (R75). -/
  leaving   : Bool := false
  /-- Period count of the rotation and the due time of the rotation cue (R77, R627). -/
  nextOrder : Nat := 0
  nextDue   : Nat := 0
  rotArmed  : Bool := false
  /-- The rotation cue was re-armed with its due time already past (R104). -/
  rotPast   : Bool := false
  /-- In the interval after a step boundary (R119). -/
  atBoundary : Bool := false
  /-- Lines of a spilled context that are still to be read into the slice (R84), and the sectors of the image of a spilled
  context that its save has stored. -/
  fetch     : List Nat := []
  storeAt   : Nat := 0
  /-- When its latest nap began (R504). -/
  napAt     : Nat := 0
  /-- Tick of its latest recorded fault, and the tick at which a fault halted it while it issued (R139). -/
  faultAt   : Option Nat := none
  haltAt    : Option Nat := none
  easel     : Easel := {}
  gens      : Tab Gen := []
  /-- Key cache: seeds and tensor keys whose logical key state is held (R249). -/
  keyCache  : List (DWord × DWord × DWord) := []
  pwr       : TilePwr := .run
  /-- Physical column (R535, R543). -/
  physCol   : Nat := 0x1F
  present   : Bool := false
deriving DecidableEq, Repr

/-! ### Canvases and streams -/

/-- A stage entry (R70). -/
structure StageEnt where
  groups   : Nat
  tiles    : Nat
  hue      : Nat
  progSize : Nat
  progAt   : Nat
  segCount : Nat
  segFirst : Nat
  barTimeout : Nat
  intAcc   : Nat
  fillRows : Nat
  fillHold : Nat
deriving DecidableEq, Repr

/-- A stream entry (R72). -/
structure StreamEnt where
  multicast : Bool
  flits     : Nat
  fmt       : Nat
  hue       : Nat
  producer  : Nat
  landingAt : Nat
  slots     : Nat
  consumer  : Nat
  cols      : Nat
  rows      : Nat
deriving DecidableEq, Repr

/-- A segment entry (R73): PLACE 0 held, 1 cached, 2 cold. -/
structure SegEnt where
  stage : Nat
  addr  : Nat
  place : Nat
  size  : Nat
deriving DecidableEq, Repr

/-- A seat entry (R71), as the image gives it. -/
structure SeatEnt where
  order    : Nat
  stage    : Nat
  y        : Nat
  x        : Nat
  minSeat  : Nat
  offset   : Nat
  swapSize : Nat
  swapBase : Nat
  keptSize : Nat
  keptBase : Nat
  yieldWin : Nat
  lead     : Nat
deriving DecidableEq, Repr

/-- Canvas states (R75). -/
inductive CanvasSt where
  | empty | loading | loaded | armed | running | draining | stopped | faulted
deriving DecidableEq, Repr

/-- A loaded canvas. Handles are operation numbers of the host port. -/
structure Canvas where
  st        : CanvasSt
  id        : DWord
  period    : Nat
  seatHue   : Nat
  seatWays  : Nat
  spillBase : Nat
  spillSize : Nat
  stages    : List StageEnt
  seats     : List SeatEnt
  streams   : List StreamEnt
  segments  : List SegEnt
  programs  : List (List Byte)
  loadOp    : Option Nat := none
  startOp   : Option Nat := none
  stopOp    : Option Nat := none
  unloadOp  : Option Nat := none
  t0        : Nat := 0
  /-- Preserve numbers of its held segments. -/
  pins      : List Nat := []
  /-- Service that owns it (R483). -/
  owner     : Option Nat := none
  /-- Unload waits for the canvas's transfers (R279). -/
  unloading : Bool := false
  /-- Status of the fault that ended it (R75). -/
  faultSt   : Half := 0
deriving DecidableEq, Repr

/-- Landing slot states (R68). -/
inductive SlotSt where
  | free | filled | readSt
deriving DecidableEq, Repr

/-- One landing slot: state, tick at which it filled, and the packet's sequence number (R250). -/
structure Slot where
  st       : SlotSt := .free
  filledAt : Nat := 0
  seq      : Nat := 0
deriving DecidableEq, Repr

/-- A consumer endpoint (R63, R65, R112, R194): its number on its tile, slots keyed 256 × rank + slot, the order in which
each rank's slots filled, the turn, packets received per rank, the gate's pointer and its outstanding batch. -/
structure ConsEp where
  num      : Nat := 0
  /-- Fairness pointer of its ejection channel over the producer ranks (R111). -/
  rankPtr  : Nat := 0
  slots    : Tab Slot := []
  order    : Tab (List Nat) := []
  turn     : Nat := 0
  received : Tab Nat := []
  gatePtr  : Nat := 0
  /-- Outstanding batch: (rank, slot) in list order. -/
  batch    : List (Nat × Nat) := []
deriving DecidableEq, Repr

/-- A STREAM.WRITE held for credit (R67): group, lanes, pc, source address, target rank (ranked streams). -/
structure HeldWrite where
  rank   : Nat
  group  : Nat
  lanes  : Nat
  pc     : Nat
  src    : Nat
  target : Nat
deriving DecidableEq, Repr

/-- A packet on the over-mesh: producer rank, consumer rank, its bytes and the poison bits of its words. -/
structure Packet where
  prod   : Nat
  cons   : Nat
  bytes  : List Byte
  poison : List Bool
deriving DecidableEq, Repr

/-- Run-time state of one stream: spent credits keyed 65536 × producer rank + consumer rank (R64), consumer
endpoints by rank, held writes, packets and credits in transit. -/
structure StreamRt where
  spent   : Tab Nat := []
  cons    : Tab ConsEp := []
  held    : List HeldWrite := []
  packets : List Packet := []
  credits : List (Nat × Nat) := []
deriving DecidableEq, Repr

/-! ### Cues -/

/-- A cue unit (R100): tile `t`, rind die `r`, or the stem. -/
inductive CueUnit where
  | tile (t : Nat)
  | rind (r : Nat)
  | stem
deriving DecidableEq, Repr

/-- An armed or pending cue (R101, R107). `xfer` is the mover transfer that a MOVER_START reserved. -/
structure Cue where
  unit    : CueUnit
  hue     : Nat
  action  : Nat
  due     : Nat
  stage   : Nat
  tag     : Nat
  arg     : DWord
  pending : Bool := false
  xfer    : Option Nat := none
  /-- Entry of its unit: the requester index of the tie rule (R105, R110). -/
  entry   : Nat := 0
  /-- DUE was already past at arming (R104). -/
  past    : Bool := false
deriving DecidableEq, Repr

/-- A pending high half of TB_NOW for one requester (R97). -/
structure TbLatch where
  host  : Option Word := none
  cores : Tab Word := []
deriving DecidableEq, Repr

/-- The time base (R89 to R99): the counter, the slew in progress (ticks still to correct, and the place in the
span of 4,096), whether it has locked since cold reset, holdover offsets averaged from stamps. -/
structure TimeBase where
  now     : Nat := 0
  slew    : Int := 0
  spanPos : Nat := 0
  locked1 : Bool := false
  latch   : TbLatch := {}
  /-- Stamp offsets being averaged (R429). -/
  offsets : List Int := []
  ppsHigh : Bool := false
  /-- The copies of R89 at this tick: whether those that differ from the master are one ahead of it or one behind, which
  of them do (a draw of free yes-or-nos), and whether those of the tick before that were ahead still are (R90). -/
  ahead   : Bool := false
  copyNo  : Nat := 0
  copyKept : Bool := false
deriving DecidableEq, Repr

/-! ### Movers -/

/-- One dimension of a tensor descriptor (R256). -/
structure Dim where
  extent : Nat
  stride : Int
deriving DecidableEq, Repr

/-- A tensor descriptor (R255). -/
structure Desc where
  rank    : Nat
  fmt     : Nat
  panel   : Bool
  combine : Nat
  sb      : Bool
  x       : Nat
  y       : Nat
  base    : Nat
  dims    : List Dim
deriving DecidableEq, Repr

/-- A mover command that passed its checks (R269, R270). -/
structure MoverCmd where
  op        : Nat
  hue       : Nat
  peerSide  : Nat
  spent     : Bool
  peer      : Nat
  complMode : Nat
  complScope : Nat
  complSb   : Bool
  complX    : Nat
  complY    : Nat
  complAddr : Nat
  tag       : Nat
  fill      : DWord
  counts    : List Nat
  srcOrigin : List Int
  dstOrigin : List Int
  src       : Option Desc
  dst       : Option Desc
  /-- What the runtime writes to a reply area, one word an element (R481); a command's own FILL leaves it empty. -/
  words     : List Nat := []
deriving DecidableEq, Repr

/-- Transfer states (R276). -/
inductive XferSt where
  | reserved | queued | active | failing
deriving DecidableEq, Repr

/-- Who started a transfer: a stage of a canvas, host or core operation number, a cue, firmware, a collective, a
or a service (R275). -/
inductive XferOrigin where
  | stage (canvas : Nat)
  | op (n : Nat)
  | cue
  | firmware
  | collective
  | service (n : Nat)
deriving DecidableEq, Repr

/-- One transfer of a mover. -/
structure Transfer where
  id       : Nat
  rind     : Nat
  st       : XferSt
  cmd      : MoverCmd
  origin   : XferOrigin
  /-- Active place 0–15 (R277). -/
  place    : Nat := 0
  status   : Half := 0
  poisoned : Bool := false
  /-- Remote requests of this transfer still without a response. -/
  waiting  : Nat := 0
  /-- Elements already moved. -/
  moved    : Nat := 0
  /-- Accepted while its mover was ON_PENDING: held until ON (R508). -/
  held     : Bool := false
deriving DecidableEq, Repr

/-- A prefetch of lines by the mover of a rind die (R84, R268, R275): every line, those still to be read, the stage's hue,
and whether it holds an internal entry. -/
structure Prefetch where
  rind   : Nat
  lines  : List Nat
  left   : List Nat
  hue    : Nat
  active : Bool := false
deriving DecidableEq, Repr

/-! ### The Kreten die -/

/-- Sector states (R286). -/
inductive Sect where
  | absent | clean | dirty | masked
deriving DecidableEq, Repr

/-- What a line is (R285): homed, tile-local, or a line of a preserve (its table entry and slot). -/
inductive LineKind where
  | homed
  | tileLocal
  | preserved (id slot : Nat)
deriving DecidableEq, Repr

/-- An allocated line: its line index A[47:10], kind, sector states, byte masks of masked sectors (sector,
mask with bit i for byte i), data by offset in the line, and its place in the recency order (R297). -/
structure Line where
  idx    : Nat
  kind   : LineKind
  sects  : List Sect
  masks  : Tab Nat
  data   : Mem
  lru    : Nat
  /-- Hue of the request that allocated it (R387). -/
  hue    : Nat := 0
deriving DecidableEq, Repr

/-- A write held in a fill entry (R296): bytes at line offsets, words that arrive poisoned. -/
structure LineWrite where
  bytes  : LineData
  poison : List Nat
deriving DecidableEq, Repr

/-- An open fill (R296): line index, kind, the way it will fill (by its line key), merged requesters, held writes,
and a spent mark that takes effect after it. -/
structure Fill where
  idx     : Nat
  kind    : LineKind
  key     : Nat
  reqs    : Nat
  writes  : List LineWrite
  spent   : Bool
  /-- Hue of the request that caused it (R387). -/
  hue     : Nat := 0
deriving DecidableEq, Repr

/-- A line in the write-back buffer (R297). -/
structure WbEntry where
  line  : Line
  begun : Bool
deriving DecidableEq, Repr

/-- What an access does (R161, R162, R294, R295, R314). -/
inductive AccessKind where
  | read (bytes : Nat) (spent reserve : Bool)
  | write (data : List Byte) (poison : Bool)
  | amo (bytes : Nat) (op : AtomOp) (signed : Bool) (v : Nat)
  | sc (bytes v : Nat)
  | hostRead (hold : HostHold)
  | hostWrite (data : LineData) (poison : Bool) (failed : Option LinkId) (hold : HostHold)
deriving DecidableEq, Repr

/-- An access that waits at its slice (R296, R314), with what it needs to be performed later. -/
structure Access where
  agent : Agent
  addr  : Nat
  kind  : AccessKind
deriving DecidableEq, Repr

/-- An outstanding back-invalidation snoop (R314): line index and whether it is BISnpInv (else BISnpData). -/
structure Snoop where
  idx : Nat
  inv : Bool
deriving DecidableEq, Repr

/-- A host directory entry (R314): line index and whether the host may hold it in any state. -/
structure DirEnt where
  idx : Nat
  any : Bool
deriving DecidableEq, Repr

/-- One vertical port's bond state (R548 to R550): spares used and failed bonds by bundle, half width, out. -/
structure VPort where
  spares   : Tab Nat := []
  failed   : Tab Nat := []
  half     : Bool := false
  out      : Bool := false
  /-- Bonds that failed and wait for a quiescent point, and whether 1 ms has passed (R549). -/
  waiting  : List Nat := []
  forced   : Bool := false
deriving DecidableEq, Repr

/-- One Kreten slice. Lines are keyed 16 × set + way. -/
structure Slice where
  lines    : Tab Line := []
  fills    : List Fill := []
  wbuf     : List WbEntry := []
  stones   : List Nat := []
  dir      : List DirEnt := []
  snoops   : List Snoop := []
  clock    : Nat := 0
  /-- Thrash monitor counts of the window (R307). -/
  winHits  : Nat := 0
  winAcc   : Nat := 0
  /-- Kreten gleaner's place: next line key and sector (R374). -/
  gleanAt  : Nat := 0
  /-- Spare banks fitted, bad banks found (R546), out of service (R547), map-out pending. -/
  badBanks : List Nat := []
  pendBanks : List Nat := []
  /-- Times of the UNCORRECTABLE words of a bank in the last 24 h (R546). -/
  bankUes  : Tab (List Nat) := []
  out      : Bool := false
  pendOut  : Bool := false
  vports   : Tab VPort := []
  /-- The lines of kind seat (R285): by word of the seat area, the bits in which the stored codeword differs from the fresh
  codeword of the program or saved context that the word is part of (R78, R354). No entry is 0. -/
  seat     : Tab Codeword := []
deriving DecidableEq, Repr

/-- An entry of the preserve table (R300, R301): range, start set, held segment of a canvas, what it waits for. -/
structure Preserve where
  base    : Nat
  size    : Nat
  s0      : Nat
  canvas  : Option Nat
  load    : Bool
  createOp : Option Nat
  releaseOp : Option Nat
  mode1   : Bool
deriving DecidableEq, Repr

/-! ### HBM and pip -/

/-- Session states (R344). -/
inductive SessSt where
  | queued | opening | running | closing
deriving DecidableEq, Repr

/-- One pip instruction (R334). -/
structure PipInstr where
  op  : Nat
  vd  : Nat
  va  : Nat
  vb  : Nat
  vc  : Nat
  sc  : Nat
  fmt : Nat
  row : Nat
deriving DecidableEq, Repr

/-- A checked session descriptor (R340). -/
structure PipDesc where
  region    : Nat
  stackMask : Nat
  pcs       : Nat
  banks     : Nat
  firstRow  : Nat
  rows      : Nat
  chunks    : Nat
  tag       : Nat
  complAddr : Nat
  scalars   : List Word
  prog      : List PipInstr
deriving DecidableEq, Repr

/-- Progress of one pseudo-channel in a session: chunk, next instruction, done with the wave, paused (R332). -/
structure PcRun where
  chunk  : Nat := 0
  ip     : Nat := 0
  done   : Bool := false
  paused : Bool := false
  /-- When the pause began. -/
  since  : Nat := 0
deriving DecidableEq, Repr

/-- One pip session. Pip registers are keyed (bank unit × 4 + register) × 256 + lane, the bank unit being
(stack × 32 + pc) × 48 + bank. -/
structure Session where
  st      : SessSt
  desc    : PipDesc
  seq     : Nat
  op      : Option Nat
  wave    : Nat := 0
  pcs     : Tab PcRun := []
  regs    : Tab (Word × Bool) := []
  status  : Half := 0
  poisoned : Nat := 0
  aborted : Bool := false
  /-- The R313 actions on its range are done. -/
  flushed : Bool := false
  /-- Accepted while a pip sequencer of its stacks was ON_PENDING: held until ON (R508). -/
  held    : Bool := false
deriving DecidableEq, Repr

/-- Refresh state of one pseudo-channel (R332). -/
structure Refresh where
  owed : Nat := 0
deriving DecidableEq, Repr

/-- One stack: what bring-up found (R323, R551), rest, gleaner place, repairs. -/
structure Stack where
  /-- The tick of its latest access (R504). -/
  accessAt  : Nat := 0
  populated : Bool := false
  inService : Bool := false
  /-- Addressable capacity in GiB as read from the base die. -/
  capGib    : Nat := 0
  /-- Mapped-out banks, and holes, as pc × 48 + bank; DRAM dies mapped out whole. -/
  mappedOut : List Nat := []
  holes     : List Nat := []
  layersOut : List Nat := []
  band      : Nat := 0
  resting   : Bool := false
  gleanAt   : Nat := 0
  /-- Times of the UNCORRECTABLE words of a bank in the last 24 h, and banks appended to the log for them (R551). -/
  bankUes   : Tab (List Nat) := []
  noted     : List Nat := []
  loggedHole : Bool := false
deriving DecidableEq, Repr

/-- A running sweep (R381). -/
structure Sweep where
  base    : Nat
  size    : Nat
  mode    : Nat
  summary : Nat
  hue     : Nat
  started : Nat
  op      : Option Nat
  /-- Accepted in ON_PENDING: held until ON (R508). -/
  held    : Bool := false
deriving DecidableEq, Repr

/-! ### Data integrity -/

/-- Corrections a unit has counted since its last record, and the first of them (R369). -/
structure Merge where
  count  : Nat
  addr   : Nat
  detail : DWord
  time   : Nat
  armed  : Bool
deriving DecidableEq, Repr

/-- An error log record's variable fields (R367). -/
structure ErrRec where
  status : Half
  kind   : Nat
  unit   : Nat
  cls    : Nat
  canvas : Nat
  count  : Nat
  time   : Nat
  addr   : DWord
  detail : DWord
deriving DecidableEq, Repr

/-- Link attempts of a sector that has not passed its CRC (R360, R361). -/
structure LinkSt where
  attempts : Nat := 0
  testing  : Bool := false
deriving DecidableEq, Repr

/-- Who reads a sector that has come to harm on a link: an agent, a slice for a fill, a tile for a restore, a sweep. -/
inductive LostBy where
  | agent (a : Agent)
  | fill (slice : Nat)
  | restore (tile : Nat)
  | sweep
deriving DecidableEq, Repr

/-- A sector whose words of `mask` arrive poisoned at its reader; `at_` is its device-local address, or its number in a
context image. -/
structure Lost where
  who  : LostBy
  at_  : Nat
  mask : Nat
deriving DecidableEq, Repr

/-! ### Xeost -/

/-- Port states (R405, R432). -/
inductive PortSt where
  | disabled | bypassed | detect | equalize | measure | negotiate | active | retrain | failed
deriving DecidableEq, Repr

/-- One message descriptor with its data (R415, R416): fields, data bytes from the start of its first data sector, and
poison bits per word. `hold` is the port that still counts the slots it came in, their channel and their number, while
the message waits to be forwarded (R414). -/
structure XMsg where
  dst     : Nat
  src     : Nat
  hue     : Nat
  hops    : Nat
  channel : Nat
  op      : Nat
  rsv     : Bool
  release : Bool
  fmt     : Nat
  addr    : Nat
  combine : Nat
  coll    : Nat
  tag     : Nat
  status  : Nat
  len     : Nat
  data    : List Byte
  poison  : List Bool
  hold    : Option (Nat × Nat × Nat) := none
deriving DecidableEq, Repr

/-- A training record as it arrives (R406); `rsv` says that a reserved field of it is not zero. -/
structure TrainRec where
  device   : Nat
  port     : Nat
  gen      : Nat
  versions : Nat
  maxRate  : Nat
  proposed : Nat
  step     : Nat
  flags    : Nat
  tTx      : Nat
  tEcho    : Nat
  tHold    : Nat
  credits  : List Nat
  skew     : List Nat
  rsv      : Bool
deriving DecidableEq, Repr

/-- One slot of a frame to send (R409, R410): 0 empty, 1 a descriptor sector, 2 a data sector; its bytes, bit i of
`poison` for word i, and the hue that sending it counts for. -/
structure FrameSlot where
  code   : Nat := 0
  bytes  : List Byte := List.replicate 128 0
  poison : Nat := 0
  hue    : Nat := 0
deriving DecidableEq, Repr

/-- A sequenced frame kept for resending (R412): its SEQ, its slots with their poison bits, how often sent. -/
structure TxFrame where
  seq   : Nat
  slots : List FrameSlot
  sent  : Nat
deriving DecidableEq, Repr

/-- One Xeost port. -/
structure Port where
  st        : PortSt := .bypassed
  triedRate : Nat := 0
  rate      : Nat := 0
  preset    : Nat := 0
  /-- Round trips of the record exchanges so far, and the latest sums of the lane skews and loss (R407). -/
  exchanges : List Nat := []
  skewIn    : Nat := 0
  skewOut   : Nat := 0
  loss      : Nat := 0
  /-- Of the last record received: its T_TX, its arrival at the pins, and the lane skews this port measured (R406). -/
  echo      : Option (Nat × Nat) := none
  rxSkew    : List Nat := []
  /-- The last stamp: the T_TX received, and the stamp of its arrival (R428). -/
  stamp     : Option (Nat × Nat) := none
  expectSeq : Nat := 0
  lastOk    : Nat := 1023
  nak       : Bool := false
  txSeq     : Nat := 0
  txFrames  : List TxFrame := []
  ackSeen   : Nat := 1023
  /-- Credits the partner advertised, slots sent and slots freed per channel (R414). -/
  credits   : Tab Nat := []
  sentSlots : Tab Nat := []
  freedTx   : Tab Nat := []
  freedRx   : Tab Nat := []
  /-- Slots of a message being assembled (R415): descriptors and data still to come. -/
  asm       : List XMsg := []
  asmNeed   : Nat := 0
  asmData   : List Byte := []
  asmPoison : List Bool := []
  /-- Messages delivered by frames and not yet performed. -/
  inbox     : List XMsg := []
  /-- Messages waiting to be sent, oldest first. -/
  outbox    : List XMsg := []
  /-- Fairness pointer of the transmitter over its channels (R110). -/
  txPtr     : Nat := 0
  retrains  : List Nat := []
  expectDev : Option (Nat × Nat) := none
  grapevine : Bool := false
deriving DecidableEq, Repr

/-- A request sent to a peer and not yet answered (R422): the transfer it belongs to, its port, when it was sent,
where a READ's data goes. -/
structure XReq where
  tag      : Nat
  rind     : Nat
  xfer     : Nat
  port     : Nat
  dst      : Nat
  addr     : Nat
  len      : Nat
  sent     : Nat
  isRead   : Bool
  /-- Flat index of the first transfer element it moves, and how many. -/
  first    : Nat
  count    : Nat
deriving DecidableEq, Repr

/-- A collective entry's state (R425, R427). -/
inductive CollSt where
  | idle | armed | openSt | done
deriving DecidableEq, Repr

/-- An ARM or OPEN accepted while the unit was ON_PENDING, which acts when it is ON (R508, R509): the state to come and
what ARM checked. -/
structure CollHeld where
  st   : CollSt
  arm  : Bool
  next : Option MoverCmd
deriving DecidableEq, Repr

/-- A collective entry: its registers XC_BASE, XC_SIZE, XC_EXPECT, XC_NEXT, XC_COMPL stand in the register table;
here are its state, the bytes performed and the mover command NEXT checked at ARM. -/
structure Coll where
  st       : CollSt := .idle
  received : Nat := 0
  /-- The mover command of NEXT, read and checked at ARM. -/
  next     : Option MoverCmd := none
  held     : Option CollHeld := none
deriving DecidableEq, Repr

/-! ### Host port and commands -/

/-- A command slot or a core's command window (R444, R484). -/
structure CmdWin where
  /-- The 64 bytes of RECORD as one value, byte 0 lowest. -/
  record   : BitVec 512 := 0
  last     : DWord := 0
  ctl      : DWord := 0
  /-- SEQ of the window's last handle; 0 before the first (R33). -/
  lastSeq  : Nat := 0
deriving DecidableEq, Repr

/-- A long operation accepted and not yet completed (R32, R449), or completed and held (R457). -/
structure Op where
  id       : Nat
  win      : Win
  handle   : Word
  opcode   : Nat
  user     : DWord
  quiet    : Bool
  tAccept  : Nat
  /-- Accepted before the latest host port reset: its completion is discarded (R463). -/
  orphan   : Bool := false
  /-- Hue of the operation (R387). -/
  hue      : Nat := 0
deriving DecidableEq, Repr

/-- A completion that waits for its log (R457). -/
structure Held where
  op      : Op
  status  : Half
  poisoned : Bool
  result0 : DWord
  result1 : DWord
  tDone   : Nat
  /-- Its entry was found filled, so it is retried each µs. -/
  waited  : Bool := false
deriving DecidableEq, Repr

/-- What the device reports of its protocols and options in its CXL capability structures (R436). No command changes it. -/
structure CxlCaps where
  io            : Bool := true
  cache         : Bool := true
  mem           : Bool := true
  hdmDb         : Bool := true
  decoders      : Nat := 1
  ways          : Nat := 1
  multiLogical  : Bool := false
  virtualFns    : Bool := false
  functionReset : Bool := true
  cxlReset      : Bool := true
  resetMemClear : Bool := false
  poison        : Bool := true
  ras           : Bool := true
  laneReversal  : Bool := true
  polarity      : Bool := true
  bifurcation   : Bool := false
deriving DecidableEq, Repr

/-- Host link state (R436, R437, R439, R462): rate code, width code, the function's capability structures and BARs, its
enables, committed decoder base. -/
structure HostLink where
  up        : Bool := false
  rate      : Nat := 3
  width     : Nat := 0
  caps      : CxlCaps := {}
  bar0      : DWord := 0
  bar2      : DWord := 0
  memEn     : Bool := false
  cacheEn   : Bool := false
  biEn      : Bool := false
  committed : Bool := false
  hdmBase   : DWord := 0
  /-- Error Not Committed (R440). -/
  notCommitted : Bool := false
deriving DecidableEq, Repr

/-! ### Services -/

/-- Service states (R478, R485). -/
inductive SvcSt where
  | disabled | waiting | loading | starting | running | stopping | stopped | failed
deriving DecidableEq, Repr

/-- A load entry (R477). -/
structure LoadEnt where
  src  : Nat
  peer : Nat
  srcAddr : Nat
  dstAddr : Nat
  size : Nat
deriving DecidableEq, Repr

/-- A delivery of the SERVE runtime (R481): the entry, the result bytes delivered once it ends, the progress word it
read, and whether the progress word is on its way. -/
structure Delivery where
  entry    : Nat
  upTo     : Nat
  word     : DWord
  reqNo    : Nat
  progress : Bool
deriving DecidableEq, Repr

/-- A service: its manifest entry (R476) and its state. -/
structure Svc where
  kind     : Nat
  core     : Nat
  restarts : Nat
  depends  : Option Nat
  loads    : List LoadEnt
  image    : Nat
  imageSize : Nat
  t0Delay  : Nat
  params   : List DWord
  st       : SvcSt := .disabled
  used     : Nat := 0
  /-- The canvas that it loaded last, while that is loaded. -/
  canvas   : Option Nat := none
  /-- Load in progress; the transfer of a PEER load or of a delivery, and the latest transfer that ended (R477). -/
  loadIx   : Nat := 0
  xfer     : Nat := 0
  xferEnd  : Option (Nat × Half) := none
  lastStatus : Half := 0
  done     : Nat := 0
  /-- A STOP lets a load or a LOOP step finish first (R478). -/
  stopWait : Bool := false
  /-- SERVE: rotating pointer, admitted entries with the bytes already delivered, the delivery in progress; LOOP: the
  step released last, and a checkpoint in progress. -/
  ptr      : Nat := 0
  admitted : List (Nat × Nat) := []
  deliver  : Option Delivery := none
  /-- SERVE: entries that the runtime itself ends, with the status and the bytes that their last progress word tells. -/
  ending   : List (Nat × Half × Nat) := []
  step     : Nat := 0
  ckptOn   : Bool := false
deriving DecidableEq, Repr

/-! ### Power, thermal -/

/-- Sequencer states (R502). -/
inductive SeqSt where
  | stable | raiseV | raiseF | lowerF | lowerV
deriving DecidableEq, Repr

/-- The sequencer of one clocked rail (R502): state, point in force, the setpoint last written in mV, target, pending
target, the target of a retry that is owed. -/
structure Sequencer where
  st      : SeqSt := .stable
  point   : Nat := 0
  mv      : Nat := 0
  /-- The voltage it is to reach, and when it was last written (R490). -/
  goal    : Nat := 0
  avsAt   : Option Nat := none
  target  : Nat := 0
  pending : Option Nat := none
  retry   : Option Nat := none
deriving DecidableEq, Repr

/-- Gated block states (R508). -/
inductive BlkSt where
  | off | waking | on | draining | onPending
deriving DecidableEq, Repr

/-- One temperature sensor (R520): reading, model value, used temperature (units of 0.25 °C), suspect count, flag. -/
structure Sensor where
  reading : Int := 0
  model   : Int := 0
  used    : Int := 0
  suspect : Nat := 0
  flagged : Bool := false
deriving DecidableEq, Repr

/-- Calibration and model records taken from repair maps (R541 types 0x08 to 0x0A). -/
structure CalRec where
  kind : Nat
  a    : Nat
  b    : Nat
  v0   : Word
  v1   : Word
deriving DecidableEq, Repr

/-- One thermal lever (R521 to R524): REQUEST, ENFORCE, TRIP, and when its grace timer started. -/
structure Lever where
  request : Bool := false
  enforce : Bool := false
  trip    : Bool := false
  grace   : Option Nat := none
deriving DecidableEq, Repr

/-! ### Identity and firmware -/

/-- Firmware slot states (R577). -/
inductive FwSt where
  | empty | staging | staged | pendingSt | trial | good
deriving DecidableEq, Repr

/-- A firmware slot's record fields (R575) and the digest of its image (R566). -/
structure FwSlot where
  st     : FwSt := .empty
  svn    : Nat := 0
  iv     : List Byte := []
  keySlot : Nat := 0
  tag    : List Byte := []
  digest : List Byte := []
  healthS : Nat := 600
  size   : Nat := 0
deriving DecidableEq, Repr

/-- A staging in progress (R570): its source, its operation or Grapevine port. -/
structure Staging where
  /-- The prelude, and for a Grapevine reception the bytes received so far. -/
  image  : List Byte
  /-- Device-local address of the image, for the other sources. -/
  src    : Option Nat
  op     : Option Nat
  port   : Option Nat
  tag    : Nat
  size   : Nat
  /-- Tick of the last processed chunk (R579). -/
  heard  : Nat := 0
deriving DecidableEq, Repr

/-- The firmware unit (R560 to R587). -/
structure Firmware where
  seed      : Option (List Byte) := none
  digest    : List Byte := []
  idPub     : List Byte := []
  flips     : Nat := 0
  helperOk  : Bool := false
  certOk    : Bool := false
  slots     : Tab FwSlot := []
  active    : Nat := 0
  svnFloor  : Nat := 0
  storeCnt  : Nat := 0
  recSeq    : Nat := 0
  /-- Copy of the slot record in force: 0 A, 1 B (R575). -/
  recCopy   : Nat := 1
  ttime     : Nat := 0
  actT      : Nat := 0
  actOp     : Option Nat := none
  staging   : Option Staging := none
  fleetKeys : Tab (List Byte) := []
  lastStatus : Half := 0
  offersLeft : Nat := 0
  /-- Tick of the next offer (R578). -/
  offerAt    : Nat := 0
  fromPort   : Option Nat := none
  dups      : Nat := 0
  abandoned : Nat := 0
  dropped   : Nat := 0
  running   : Bool := false
  /-- Core memory: the plaintext body of the image that runs (R572). -/
  coreMem   : List Byte := []
  /-- SPDM measurements by index (R565), and the requests of the exchange so far. -/
  measures  : Tab (List Byte) := []
  transcript : List Byte := []
deriving DecidableEq, Repr

/-! ### Entropy -/

/-- The entropy source (R234 to R238): pooled bytes, start-up test running, failures, waiting reads, and the run of
identical raw bits that the repetition count stands at. -/
structure Entropy where
  pool    : List Byte := []
  startup : Bool := true
  restart : Bool := false
  failed  : Bool := false
  latched : Bool := false
  fails   : Nat := 0
  waiting : List Req := []
  runBit  : Bool := false
  runLen  : Nat := 0
deriving DecidableEq, Repr

/-! ### Reset and bring-up -/

/-- A compute reset in progress (R555, R556). -/
structure CompReset where
  active    : Bool := false
  phase     : Nat := 0
  writeback : Bool := false
  ops       : List Nat := []
  /-- A host port reset follows (CXL Reset, R463). -/
  thenPort  : Bool := false
deriving DecidableEq, Repr

/-- Where the device stands: cold reset asserted, bring-up running (through step 6, then to step 10), running, or
shut down by temperature (R525). -/
inductive Phase where
  | coldHold | bringUp6 | running | shutdown
deriving DecidableEq, Repr

/-- What the effective limits are (R614). -/
structure Limits where
  ordering : Nat := 0xFF
  powerW   : Nat := 0
  vcoreMv  : Nat := 0
  hbmRate  : Nat := 0
  maxRate  : Nat := 0
  rindMhz  : Nat := 0
  stemMhz  : Nat := 0
  hbmBytes : Nat := 0
  stackMask : Nat := 0
  safe     : Bool := false
deriving DecidableEq, Repr

/-- Board settings from Gesso (R471) and the port delays of the VENDOR section (R470). -/
structure Board where
  resetPolicy : Nat := 0
  testEn      : Bool := false
  servicesEn  : Bool := false
  pairJoined  : Nat := 0
  portDelays  : List (Nat × Nat) := []
deriving DecidableEq, Repr

/-! ### What the device sends out -/

/-- One thing the device presents to the outside, in the order it does so. -/
inductive Output where
  | regRead (r : Req) (off : Nat) (v : DWord)
  /-- An error response (R30, R509), and an Unsupported Request for an offset that nothing occupies (R442). -/
  | regError (r : Req) (off : Nat)
  | regUnsupported (r : Req) (off : Nat)
  | slotRead (off : Nat) (v : DWord)
  | slotError (off : Nat)
  | slotUnsupported (off : Nat)
  | receipt (w : Win) (v : DWord)
  | msix (vec : Nat)
  | pldmEvent (status : Half)
  | coreIrq
  | memData (a : Agent) (addr : Nat) (bytes : List Byte) (poison : List Bool)
  | memDone (a : Agent) (addr : Nat) (status : Half)
  | coreFault (c : Nat) (addr : Nat) (store : Bool)
  | hostSnoopResp (addr : Nat)
  | hostNotDecoded (addr : Nat)
  | bisnp (slice line : Nat) (inv : Bool)
  | hostRecord (addr : DWord) (bytes : List Byte)
  | train (port : Nat) (rate preset : Nat)
  | frame (port : Nat) (bytes : List Byte)
  | linkResend (l : LinkId)
  | pin (name : String) (high : Bool)
  | avsWrite (rail mv : Nat)
  | spdm (code : Nat) (payload : List Byte)
  | mgmt (payload : List Byte)
deriving DecidableEq, Repr

/-! ### The device -/

/-- Everything of the device but the queue of waiting commands. -/
structure Dev where
  phase    : Phase := .coldHold
  /-- Registers of BAR0 whose value differs from their reset value, by BAR0 offset (R24, R609); registers whose
  value the state below fixes are computed and not held here. -/
  regs     : Tab DWord := []
  tb       : TimeBase := {}
  cues     : List Cue := []
  /-- Fairness pointers of the cue units (R110): tile t, 256 + r for rind die r, 264 for the stem. -/
  cuePtr   : Tab Nat := []
  /-- Tick at which each cue unit last fired a cue, keyed alike (R105, R106). -/
  cueFired : Tab Nat := []
  /-- Fairness pointers of the ejection channels over endpoint numbers, keyed 4 × tile + channel (R110, R112). -/
  ejectPtr : Tab Nat := []
  tiles    : Tab Tile := []
  canvases : Tab Canvas := []
  /-- Streams by 65536 × canvas + stream number. -/
  streams  : Tab StreamRt := []
  hbm      : Mem := {}
  /-- Device-local ranges whose contents are undefined, with the number of the event that made them so (R75).
  The count of events is the model's own field; DESIGN CHOICE, safe (log 6). -/
  undef    : List (Nat × Nat × Nat) := []
  undefCnt : Nat := 0
  slices   : Tab Slice := []
  /-- Accesses that wait at their slices, oldest first. -/
  accesses : List Access := []
  preserves : Tab Preserve := []
  stks     : Tab Stack := []
  refresh  : Tab Refresh := []
  sessions : Tab Session := []
  sessSeq  : Nat := 0
  sweeps   : Tab Sweep := []
  xfers    : List Transfer := []
  nextXfer : Nat := 0
  merges   : Tab Merge := []
  links    : Tab LinkSt := []
  ports    : Tab Port := []
  /-- Open bypass switches by pair (R403). -/
  switches : List Nat := []
  requests : List XReq := []
  nextTag  : Nat := 0
  colls    : Tab Coll := []
  /-- Route entries cached (R419), by rind die × 65536 + device. -/
  routes   : Tab DWord := []
  wins     : Tab CmdWin := []
  coreWins : Tab CmdWin := []
  ops      : List Op := []
  nextOp   : Nat := 0
  /-- Held completions, in the order the operations completed (R457). -/
  held     : List Held := []
  /-- Internal-error bit of the CXL RAS capability's Uncorrectable Error Status (R442). -/
  rasInternal : Bool := false
  link     : HostLink := {}
  msixPend : List Nat := []
  svcs     : Tab Svc := []
  blocks   : Tab BlkSt := []
  seqs     : Tab Sequencer := []
  /-- Latest PMBus readings of the rails as (mV, 0.1 A), and telemetry windows in a row that each disagreed (R491,
  R493). -/
  railReads : Tab (Nat × Nat) := []
  senseRun : Tab Nat := []
  senseLogged : Bool := false
  overCurrent : Bool := false
  deep     : Bool := false
  /-- When the power manager last acted (R498), and the telemetry window last published (R492). -/
  managedAt : Option Nat := none
  windowNo  : Nat := 0
  /-- THERM_TRIP_N is held low (R596). -/
  thermTrip : Bool := false
  sensors  : Tab Sensor := []
  levers   : Tab Lever := []
  hbmLevel : Tab Nat := []
  cals     : List CalRec := []
  creset   : CompReset := {}
  /-- No service may start (R536), tiles stay off, HDM commits refused. -/
  noServices : Bool := false
  noTiles  : Bool := false
  noHdm    : Bool := false
  /-- Entries used in the field repair log, and repair records in force (R539). -/
  repairCnt : Nat := 0
  /-- D(y) by row: defective columns, as a mask (R543). -/
  defects  : Tab Nat := []
  /-- Physical tiles (17 × row + column) of stress class 1 (R527, R541). -/
  class1   : List Nat := []
  limits   : Limits := {}
  board    : Board := {}
  /-- The attached flash: stored bytes are held inverted, so that an erased byte 0xFF is unlisted. -/
  nvm      : Mem := {}
  flashOk  : Bool := false
  fw       : Firmware := {}
  entropy  : Entropy := {}
  /-- Commands whose read of a record, descriptor or image waits for the host, oldest first (R314). -/
  waits    : List Instr := []
  /-- What a write that clears VALID leaves in HBM_PIPRn once the change has drained (R330). -/
  piprNext : Tab Nat := []
  /-- Cold-segment prefetches of the device, those in an internal entry and those that wait for one (R84, R268). -/
  prefetches : List Prefetch := []
  /-- Reservation of each control core (R162): address and size. -/
  resv     : Tab (Nat × Nat) := []
  /-- Power-good signals that are low (R594), COLD_RST_N high. -/
  pgLow    : List Nat := []
  rstHigh  : Bool := false
  /-- Bytes granted in the current window by regulator and hue, keyed 16 × regulator + hue (R393). -/
  hueWin   : Tab Nat := []
  /-- Number of the window that these counts belong to (R392). -/
  hueWinNo : Nat := 0
  /-- HUE_An (key 2n), HUE_Bn (key 2n + 1) and HUE_SOURCES (key 32) as the current window applies them; absent is the
  reset value. -/
  hueForce : Tab DWord := []
  /-- Hue of the request being performed (R387). -/
  hue      : Nat := 0
  /-- Draws of free values so far: which value the next one is. The model's own field; DESIGN CHOICE,
  safe (log 6). -/
  freeCnt  : Nat := 0
  /-- Error log records made and not yet written to the ring, oldest first (R366). -/
  errq     : List ErrRec := []
  /-- Sectors on their way to a reader some of whose words will arrive poisoned (R359, R361). -/
  lost     : List Lost := []
  /-- Field repair records made and not yet appended to the field repair log, oldest first (R542). -/
  repairq  : List (List Byte) := []
  /-- Levels of the edge-triggered signals at the end of the latest command (R366, R460). -/
  lvlErr   : Bool := false
  lvlPorts : List Nat := []
  out      : List Output := []
deriving DecidableEq, Repr

/-- The device and the commands that wait, first in, first out. -/
structure State where
  dev     : Dev
  pending : List Instr
deriving DecidableEq, Repr

/-- The device as cold reset leaves it before bring-up (R553, R536, R31): every register at its reset value, every
unit empty, the bypass switches closed, `COLD_RST_N` low. Values the spec does not state for reset are named in
notes/assumptions. DESIGN CHOICE, unsafe (log 8). -/
def State.reset : State := { dev := {}, pending := [] }

end Sys2Proof.Machine
end

