-- ==== Sys2Proof/Machine/WordCode.lean ====
section
/-! DEFINITION. The word code (R354 to R356) and the cyclic checks (R358, R74). -/
namespace Sys2Proof.Machine
open Sys2Proof

/-! ### GF(2^7) with α a root of x^7 + x^3 + 1 (R355) -/

/-- Multiplication by α. -/
def gfStep (x : Nat) : Nat := let y := 2 * x; if y < 128 then y else Nat.xor y 0x89

/-- α^0 to α^126. -/
def gfPowsAux : Nat → Nat → List Nat
  | 0, _ => []
  | n + 1, x => x :: gfPowsAux n (gfStep x)

def gfPows : List Nat := gfPowsAux 127 1

/-- α to the power `i`. -/
def gfPow (i : Nat) : Nat := gfPows.getD (i % 127) 0

/-- The generator of the 14 check bits: the product of the minimal polynomials of α and α³,
(x^7 + x^3 + 1)(x^7 + x^3 + x^2 + x + 1). -/
def bchGen : Nat := 0x4377

/-- Remainder modulo the generator, of a polynomial of degree below 14 + `n`. -/
def bchRem : Nat → Nat → Nat
  | 0, p => p
  | n + 1, p => bchRem n (if bitAt p (14 + n) then Nat.xor p (bchGen <<< n) else p)

/-- The 14 check bits of data and poison (R355). -/
def checkBits (data : Nat) (poison : Bool) : Nat :=
  bchRem 65 ((data <<< 14) + (poison.toNat <<< 78))

/-- XOR of the bits of a number below 2^n. -/
def parityOf : Nat → Nat → Bool
  | 0, _ => false
  | n + 1, v => xor (v % 2 == 1) (parityOf n (v / 2))

/-- Positions 0 to 78 of R355 of a stored codeword: CHECK, DATA, POISON. A codeword holds DATA in bits [63:0] and
META in bits [79:64] (R354). -/
def positions (c : Codeword) : Nat :=
  let v := c.toNat
  bits v 77 64 + (bits v 63 0 <<< 14) + (bits v 78 78 <<< 78)

/-- The codeword whose positions 0 to 78 are `p` and whose PARITY is `q`. -/
def ofPositions (p : Nat) (q : Bool) : Codeword :=
  BitVec.ofNat 80 (bits p 77 14 + (bits p 13 0 <<< 64) + (bits p 78 78 <<< 78) + (q.toNat <<< 79))

/-- The codeword of data and poison (R354, R355). -/
def encodeWord (data : DWord) (poison : Bool) : Codeword :=
  let p := checkBits data.toNat poison + (data.toNat <<< 14) + (poison.toNat <<< 78)
  ofPositions p (parityOf 79 p)

def codeData (c : Codeword) : DWord := BitVec.ofNat 64 (bits c.toNat 63 0)
def codePoison (c : Codeword) : Bool := bitAt c.toNat 78

/-- XOR of α^(k·i) over the positions `i` of `p` that are 1, for positions below `n`. -/
def syndrome (k p : Nat) : Nat → Nat
  | 0 => 0
  | n + 1 => let s := syndrome k p n; if bitAt p n then Nat.xor s (gfPow (k * n)) else s

/-- S1, S3 and the parity syndrome of a stored codeword. -/
structure Syndromes where
  s1 : Nat
  s3 : Nat
  par : Bool
deriving DecidableEq, Repr

def syndromes (c : Codeword) : Syndromes :=
  let p := positions c
  { s1 := syndrome 1 p 79, s3 := syndrome 3 p 79, par := parityOf 80 c.toNat }

/-- The position 0 to 126 whose power of α is `x`. -/
def gfLog (x : Nat) : Option Nat := (List.range 127).find? fun i => gfPow i == x

/-- The first pair of positions i < j ≤ 126 with the given syndromes, searching from `i` = `126 − n`. -/
def findPair (s1 s3 : Nat) : Nat → Option (Nat × Nat)
  | 0 => none
  | n + 1 =>
    let i := 126 - n
    match gfLog (Nat.xor s1 (gfPow i)) with
    | some j => if Nat.xor (gfPow (3 * i)) (gfPow (3 * j)) == s3 && i < j then some (i, j) else findPair s1 s3 n
    | none => findPair s1 s3 n

/-- The flipped bits, by position (79 is PARITY), that the syndromes name; `none` where no pattern of at most two
of the 80 bits matches (R356). -/
def flipsOf (s : Syndromes) : Option (List Nat) :=
  if s.s1 = 0 ∧ s.s3 = 0 then some (if s.par then [79] else [])
  else
    let one := match gfLog s.s1 with
      | some i => if gfPow (3 * i) == s.s3 && i ≤ 78 then some i else none
      | none => none
    match one with
    | some i => some (if s.par then [i] else [i, 79])
    | none =>
      if s.par then none
      else match findPair s.s1 s.s3 127 with
        | some (i, j) => if j ≤ 78 then some [i, j] else none
        | none => none

/-- Flip one position of a codeword. -/
def flipAt (c : Codeword) (i : Nat) : Codeword :=
  if i = 79 then c ^^^ BitVec.ofNat 80 (2 ^ 79)
  else ofPositions (Nat.xor (positions c) (2 ^ i)) (bitAt c.toNat 79)

/-- Outcomes of a decode (R356). -/
inductive Decoded where
  | clean (data : DWord) (poison : Bool)
  | corrected (data : DWord) (poison : Bool)
  | uncorrectable (data : DWord)
deriving DecidableEq, Repr

/-- Decode a stored codeword (R356).
DESIGN CHOICE, safe (log 57). -/
def decodeWord (c : Codeword) : Decoded :=
  match flipsOf (syndromes c) with
  | some [] => .clean (codeData c) (codePoison c)
  | some l => let f := l.foldl flipAt c; .corrected (codeData f) (codePoison f)
  | none => .uncorrectable (codeData c)

/-! ### CRC-32C (R358) and CRC-32 -/

/-- One bit of a reflected CRC. -/
def crcBit (poly c : Nat) : Nat := if c % 2 = 1 then Nat.xor (c / 2) poly else c / 2

def crcByte (poly c : Nat) (b : Byte) : Nat := iter (crcBit poly) 8 (Nat.xor c b.toNat)

/-- A reflected 32-bit CRC with initial value and final XOR 0xFFFF_FFFF. -/
def crc32With (poly : Nat) (l : List Byte) : Word :=
  BitVec.ofNat 32 (Nat.xor (l.foldl (crcByte poly) 0xFFFFFFFF) 0xFFFFFFFF)

/-- CRC-32C, polynomial 0x1EDC_6F41 reflected. -/
def crc32c (l : List Byte) : Word := crc32With 0x82F63B78 l

/-- CRC-32, polynomial 0x04C1_1DB7 reflected (R74). -/
def crc32 (l : List Byte) : Word := crc32With 0xEDB88320 l

end Sys2Proof.Machine
end

