-- ==== Sys2Proof/Machine/Mem.lean ====
section
/-! DEFINITION. Byte-addressed storage that keeps a codeword per 64-bit word (R354, R356): reads, writes, poison,
flipped bits, and the canonical form of `Mem`. An unlisted byte reads 0. -/
namespace Sys2Proof.Machine
open Sys2Proof

/-! ### Bytes -/

def cellsGet : List Host.Cell → Nat → Byte
  | [], _ => 0
  | (j, b) :: t, a => if j = a then b else cellsGet t a

/-- Write one byte; 0 removes the entry. -/
def cellsPut : List Host.Cell → Nat → Byte → List Host.Cell
  | [], a, b => if b = 0 then [] else [(a, b)]
  | (j, c) :: t, a, b =>
    if a < j then (if b = 0 then (j, c) :: t else (a, b) :: (j, c) :: t)
    else if a = j then (if b = 0 then t else (a, b) :: t)
    else (j, c) :: cellsPut t a b

/-- Addresses strictly rising above `lo` (where given), no byte 0. -/
def cellsWf : Option Nat → List Host.Cell → Bool
  | _, [] => true
  | lo, (j, b) :: t => (match lo with | none => true | some l => decide (l < j)) && b != 0 && cellsWf (some j) t

def risingFrom : Option Nat → List Nat → Bool
  | _, [] => true
  | lo, j :: t => (match lo with | none => true | some l => decide (l < j)) && risingFrom (some j) t

def errsWf : Option Nat → Tab Codeword → Bool
  | _, [] => true
  | lo, (j, c) :: t => (match lo with | none => true | some l => decide (l < j)) && c != 0 && errsWf (some j) t

/-- The canonical form of a memory: one list for one content. -/
def Memory.wf (m : Mem) : Bool := cellsWf none m.cells && risingFrom none m.poison && errsWf none m.errs

/-- One byte of an array; 0 where nothing has been written.
DESIGN CHOICE, unsafe (log 7). -/
def memByte (m : Mem) (a : Nat) : Byte := cellsGet m.cells a

def memPutByte (m : Mem) (a : Nat) (b : Byte) : Mem := { m with cells := cellsPut m.cells a b }

def memBytes (m : Mem) (a n : Nat) : List Byte := (List.range n).map fun i => memByte m (a + i)

/-! ### Words: word `w` holds bytes 8w to 8w + 7 -/

def memPoison (m : Mem) (w : Nat) : Bool := nmem w m.poison

def memSetPoison (m : Mem) (w : Nat) (p : Bool) : Mem :=
  { m with poison := if p then nadd w m.poison else ndel w m.poison }

def memData (m : Mem) (w : Nat) : DWord := BitVec.ofNat 64 (leNat (memBytes m (8 * w) 8))

/-- The flipped bits stored with word `w`. -/
def memErr (m : Mem) (w : Nat) : Codeword := tget 0 m.errs w

def memSetErr (m : Mem) (w : Nat) (e : Codeword) : Mem :=
  { m with errs := if e = 0 then tdel m.errs w else tput m.errs w e }

/-- Store the fresh codeword of data and poison (R354). -/
def memPutWord (m : Mem) (w : Nat) (data : DWord) (poison : Bool) : Mem :=
  let m := (List.range 8).foldl (fun m i => memPutByte m (8 * w + i) (BitVec.ofNat 8 (data.toNat >>> (8 * i)))) m
  memSetErr (memSetPoison m w poison) w 0

/-- Flip bits of the stored codeword. -/
def memFlip (m : Mem) (w : Nat) (e : Codeword) : Mem := memSetErr m w (memErr m w ^^^ e)

/-- The codeword as it stands in the array. -/
def memStored (m : Mem) (w : Nat) : Codeword := encodeWord (memData m w) (memPoison m w) ^^^ memErr m w

/-- What the word decodes to (R356); a word with no flipped bit decodes CLEAN. -/
def memDecode (m : Mem) (w : Nat) : Decoded :=
  if memErr m w = 0 then .clean (memData m w) (memPoison m w) else decodeWord (memStored m w)

/-- The value a decode delivers, with its poison mark (R356). -/
def decodedVal : Decoded → DWord × Bool
  | .clean d p => (d, p)
  | .corrected d p => (d, p)
  | .uncorrectable d => (d, true)

/-- The array after the read of word `w`: a corrected or newly poisoned codeword is written back (R356). -/
def memScrub (m : Mem) (w : Nat) : Mem :=
  match memDecode m w with
  | .clean _ _ => m
  | .corrected d p => memPutWord m w d p
  | .uncorrectable d => memPutWord m w d true

/-- The value of word `w` with its poison mark. -/
def memVal (m : Mem) (w : Nat) : DWord × Bool := decodedVal (memDecode m w)

/-- Bytes of a 64-bit value replaced where the mask has a 1. -/
def mergeBytes (old new : DWord) (mask : Nat) : DWord :=
  BitVec.ofNat 64 ((List.range 8).foldl (fun acc i =>
    acc + (bits (if bitAt mask i then new.toNat else old.toNat) (8 * i + 7) (8 * i) <<< (8 * i))) 0)

/-- Write the bytes of word `w` that `mask` names. A whole word replaces the word; a part leaves an old poison mark
in force, and poisons a word whose old value is uncorrectable (R173, R298, R363). -/
def memWriteWord (m : Mem) (w : Nat) (data : DWord) (mask : Nat) (poison : Bool) : Mem :=
  if mask % 256 = 255 then memPutWord m w data poison
  else if mask % 256 = 0 then m
  else
    let (old, p) := memVal m w
    memPutWord m w (mergeBytes old data mask) (p || poison)

/-- The words that bytes `a` to `a + n − 1` touch, each with the mask of its bytes: (word, mask). -/
def wordsOf (a n : Nat) : List (Nat × Nat) :=
  if n = 0 then [] else
    (List.range ((a + n - 1) / 8 - a / 8 + 1)).map fun i =>
      let w := a / 8 + i
      (w, ofBitList ((List.range 8).filter fun k => decide (a ≤ 8 * w + k ∧ 8 * w + k < a + n)))

/-- The 64-bit value that bytes starting at address `a` put in word `w`. -/
def spreadWord (a : Nat) (bs : List Byte) (w : Nat) : DWord :=
  BitVec.ofNat 64 (leNat ((List.range 8).map fun k =>
    if a ≤ 8 * w + k then bs.getD (8 * w + k - a) 0 else 0))

/-- Write bytes at an address. -/
def memWrite (m : Mem) (a : Nat) (bs : List Byte) (poison : Bool) : Mem :=
  (wordsOf a bs.length).foldl (fun m e => memWriteWord m e.1 (spreadWord a bs e.1) e.2 poison) m

/-- Read bytes at an address after correction, and whether any word of them is poisoned. -/
def memRead (m : Mem) (a n : Nat) : List Byte × Bool :=
  let vs := (wordsOf a n).map fun e => (e.1, memVal m e.1)
  ((List.range n).map fun i =>
    let w := (a + i) / 8
    match vs.find? fun v => v.1 == w with
    | some v => BitVec.ofNat 8 (v.2.1.toNat >>> (8 * ((a + i) % 8)))
    | none => 0,
   vs.any fun v => v.2.2)

/-- The memory after a read of bytes: every touched word is scrubbed. -/
def memScrubRange (m : Mem) (a n : Nat) : Mem := (wordsOf a n).foldl (fun m e => memScrub m e.1) m

/-- Forget everything stored in a range of whole words (they read 0). -/
def memClear (m : Mem) (a n : Nat) : Mem :=
  { cells := m.cells.filter fun c => !(decide (a ≤ c.1 ∧ c.1 < a + n)),
    poison := m.poison.filter fun w => !(decide (a ≤ 8 * w ∧ 8 * w < a + n)),
    errs := m.errs.filter fun e => !(decide (a ≤ 8 * e.1 ∧ 8 * e.1 < a + n)) }

/-- A piece of a memory, addressed from 0; `a` and `n` are multiples of 8. -/
def memSlice (m : Mem) (a n : Nat) : Mem :=
  { cells := (m.cells.filter fun c => decide (a ≤ c.1 ∧ c.1 < a + n)).map fun c => (c.1 - a, c.2),
    poison := (m.poison.filter fun w => decide (a ≤ 8 * w ∧ 8 * w < a + n)).map fun w => w - a / 8,
    errs := (m.errs.filter fun e => decide (a ≤ 8 * e.1 ∧ 8 * e.1 < a + n)).map fun e => (e.1 - a / 8, e.2) }

/-- Lay a piece of memory addressed from 0 over a range, codewords as they stand. -/
def memPaste (m : Mem) (a n : Nat) (p : Mem) : Mem :=
  let m := memClear m a n
  let lo (x : Nat) : Bool := decide (x < n)
  { cells := (p.cells.filter fun c => lo c.1).foldl (fun cs c => cellsPut cs (a + c.1) c.2) m.cells,
    poison := (p.poison.filter fun w => lo (8 * w)).foldl (fun ps w => nadd (a / 8 + w) ps) m.poison,
    errs := (p.errs.filter fun e => lo (8 * e.1)).foldl (fun es e => tput es (a / 8 + e.1) e.2) m.errs }

end Sys2Proof.Machine
end

