-- ==== Sys2Proof/Machine/Regs.lean ====
section
/-! DEFINITION. The registers of BAR0 (R24 to R31, R609): for each register of the spec's tables its place, its
fields by access type, its reset value and whether it acts on write or on read; and the reads and writes of the
stored registers. A register block that repeats per unit is one entry with its strides. -/
namespace Sys2Proof.Machine
open Sys2Proof

/-- The registers, by the names of their tables. -/
inductive RegId where
  | capDevice | capCounts | capLimits | capClocks | capMemory | capVersion | blkEnable | blkState0
  | blkState1 | tbNow | tbStatus | tbConfig | cueRec | cueGo | cueResult | cueLate | entropyStatus
  | entropyData | errlogBase | errlogPtr | errlogStatus | gleanCfg | gleanStatus | integCe | integUe
  | integLink | hueA | hueB | hueSources | hostVersel | hostStatus | complogBase | complogCtl | pipSubmit
  | pipReceipt | pipAbort | pipStatus | hbmPipr | hbmStack | xrCfg | xrRoute | xrTimeout | xrCounts
  | xrWindow | pwrCtl | pwrPkg | pwrState | gateCount | obsCtl | pwrDom | bootStatus | repairStatus
  | resetStatus | tileMap | idStatus | fwStatus | fwCtl | fwAct | fwReceipt | gvStatus | gvOffers
  | fwStageAddr | svcCtl | svcStatus | svcCount | gessoStatus | thermCtl | thermStatus | thermShut
  | thermStack | thermRind | thermTile | tgFault | tgFaultPc | easelKeep | easelRows | easelIdle | gateOpens
  | arithEvents | randEvents | tileEvents | krThrashCfg | krThrashFlag | krStatus | krTlr | krSliceAcc
  | krSliceSpent | moverSubmit | moverReceipt | moverStatus | moverCounts | moverErr | xcCtl | xcBase
  | xcSize | xcExpect | xcRecv | xcNext | xcCompl | xpCtl | xpStatus | xpMeasure | xpPartner | xpErrs | xpFec
  | smudgeDataHbm | smudgeCtlHbm | smudgeDataKr | smudgeCtlKr | hueBytesTile | hueDemotedTile | hueBytesSlice
  | hueDemotedSlice | hueBytesHbm | hueDemotedHbm | hueBytesMover | hueDemotedMover | hueBytesXtx
  | hueDemotedXtx | hueBytesXrx | hueDemotedXrx | hueBytesHost | hueDemotedHost | pwrSnap | thermStackSnap
  | thermRindSnap | thermTileSnap | telemSeq | telemDue | msixAddr | msixCtl | msixPba | cwLogBase | cwLogCtl
  | cwReceipt | cwRecord
deriving DecidableEq, Repr

/-- One register table: first offset in BAR0, repetition (stride, count) from the widest, bits by access type (R25),
reset value (R31), and whether a 64-bit access is required (R29). -/
structure RegDef where
  id    : RegId
  base  : Nat
  dims  : List (Nat × Nat)
  rw    : Nat
  w1c   : Nat
  w1s   : Nat
  wo    : Nat
  rsv   : Nat
  reset : Nat
  actsW : Bool := false
  actsR : Bool := false
deriving DecidableEq, Repr

/-- Register tables, part 0. -/
def regDefs0 : List RegDef := [
  { id := .capDevice, base := 0x0, dims := [], rw := 0x0, w1c := 0x0, w1s := 0x0,
    wo := 0x0, rsv := 0xFF000000FE000000, reset := 0x1FF2000000000 },
  { id := .capCounts, base := 0x8, dims := [], rw := 0x0, w1c := 0x0, w1s := 0x0,
    wo := 0x0, rsv := 0x0, reset := 0x4010400810081010 },
  { id := .capLimits, base := 0x10, dims := [], rw := 0x0, w1c := 0x0, w1s := 0x0,
    wo := 0x0, rsv := 0xFFFF, reset := 0x0 },
  { id := .capClocks, base := 0x18, dims := [], rw := 0x0, w1c := 0x0, w1s := 0x0,
    wo := 0x0, rsv := 0xFFFFFFFF00000000, reset := 0x0 },
  { id := .capMemory, base := 0x20, dims := [], rw := 0x0, w1c := 0x0, w1s := 0x0,
    wo := 0x0, rsv := 0xFE00000000000000, reset := 0x0 },
  { id := .capVersion, base := 0x100, dims := [(0x8, 32)], rw := 0x0, w1c := 0x0, w1s := 0x0,
    wo := 0x0, rsv := 0xFFFFFFFF00000000, reset := 0x0 },
  { id := .blkEnable, base := 0x1000, dims := [], rw := 0x7FFFFFFF, w1c := 0x0, w1s := 0x0,
    wo := 0x0, rsv := 0xFFFFFFFF80000000, reset := 0x0 },
  { id := .blkState0, base := 0x1008, dims := [], rw := 0x0, w1c := 0x0, w1s := 0x0,
    wo := 0x0, rsv := 0xF000000000000000, reset := 0x0 },
  { id := .blkState1, base := 0x1010, dims := [], rw := 0x0, w1c := 0x0, w1s := 0x0,
    wo := 0x0, rsv := 0xFFFFFFFE00000000, reset := 0x0 },
  { id := .tbNow, base := 0x2000, dims := [], rw := 0x0, w1c := 0x0, w1s := 0x0,
    wo := 0x0, rsv := 0x0, reset := 0x0 },
  { id := .tbStatus, base := 0x2008, dims := [], rw := 0x0, w1c := 0x10, w1s := 0x0,
    wo := 0x0, rsv := 0xFFFF00000000FF08, reset := 0x0 },
  { id := .tbConfig, base := 0x2010, dims := [], rw := 0xFF0F, w1c := 0x0, w1s := 0x0,
    wo := 0x0, rsv := 0xFFFFFFFFFFFF00F0, reset := 0x0 },
  { id := .cueRec, base := 0x2040, dims := [(0x8, 4)], rw := 0xFFFFFFFFFFFFFFFF, w1c := 0x0, w1s := 0x0,
    wo := 0x0, rsv := 0x0, reset := 0x0 },
  { id := .cueGo, base := 0x2060, dims := [], rw := 0x0, w1c := 0x0, w1s := 0x0,
    wo := 0x3, rsv := 0xFFFFFFFFFFFFFFFC, reset := 0x0, actsW := true },
  { id := .cueResult, base := 0x2068, dims := [], rw := 0x0, w1c := 0x0, w1s := 0x0,
    wo := 0x0, rsv := 0xFFFFFFFF00000000, reset := 0x0 },
  { id := .cueLate, base := 0x2080, dims := [(0x8, 9)], rw := 0x0, w1c := 0x0, w1s := 0x0,
    wo := 0x0, rsv := 0xFFFFFFFF00000000, reset := 0x0 }]

/-- Register tables, part 1. -/
def regDefs1 : List RegDef := [
  { id := .entropyStatus, base := 0x3000, dims := [], rw := 0x0, w1c := 0x0, w1s := 0x8,
    wo := 0x0, rsv := 0xFFF0, reset := 0x0 },
  { id := .entropyData, base := 0x3008, dims := [], rw := 0x0, w1c := 0x0, w1s := 0x0,
    wo := 0x0, rsv := 0x0, reset := 0x0, actsR := true },
  { id := .errlogBase, base := 0x4000, dims := [], rw := 0xFFFFFFFFF00F, w1c := 0x0, w1s := 0x0,
    wo := 0x0, rsv := 0xFFFF000000000FF0, reset := 0x0 },
  { id := .errlogPtr, base := 0x4008, dims := [], rw := 0xFFFFFFFF00000000, w1c := 0x0, w1s := 0x0,
    wo := 0x0, rsv := 0x0, reset := 0x0 },
  { id := .errlogStatus, base := 0x4010, dims := [], rw := 0x0, w1c := 0x2, w1s := 0x0,
    wo := 0x0, rsv := 0xFFFFFFFC, reset := 0x0 },
  { id := .gleanCfg, base := 0x4018, dims := [], rw := 0xFFFFFF0000FFFF, w1c := 0x0, w1s := 0x0,
    wo := 0x0, rsv := 0xFF000000FFFF0000, reset := 0x1E000000258 },
  { id := .gleanStatus, base := 0x4020, dims := [], rw := 0x0, w1c := 0x0, w1s := 0x0,
    wo := 0x0, rsv := 0x0, reset := 0x0 },
  { id := .integCe, base := 0x4028, dims := [], rw := 0x0, w1c := 0x0, w1s := 0x0,
    wo := 0x0, rsv := 0x0, reset := 0x0 },
  { id := .integUe, base := 0x4030, dims := [], rw := 0x0, w1c := 0x0, w1s := 0x0,
    wo := 0x0, rsv := 0x0, reset := 0x0 },
  { id := .integLink, base := 0x4038, dims := [], rw := 0x0, w1c := 0x0, w1s := 0x0,
    wo := 0x0, rsv := 0x0, reset := 0x0 },
  { id := .hueA, base := 0x5000, dims := [(0x10, 16)], rw := 0xFFFFFFFFFFFFFFFF, w1c := 0x0, w1s := 0x0,
    wo := 0x0, rsv := 0x0, reset := 0xFFFFFFFFFFFFFFFF },
  { id := .hueB, base := 0x5008, dims := [(0x10, 16)], rw := 0xFFFFFFFFFFFF8700, w1c := 0x0, w1s := 0x0,
    wo := 0x0, rsv := 0x78FF, reset := 0xFFFFFFFFFFFF0100 },
  { id := .hueSources, base := 0x5100, dims := [], rw := 0xFFFFFF, w1c := 0x0, w1s := 0x0,
    wo := 0x0, rsv := 0xFFFFFFFFFF000000, reset := 0x0 },
  { id := .hostVersel, base := 0x6000, dims := [], rw := 0xFFFFFF, w1c := 0x0, w1s := 0x0,
    wo := 0x0, rsv := 0xFFFFFFFFFF000000, reset := 0x10101 },
  { id := .hostStatus, base := 0x6008, dims := [], rw := 0x0, w1c := 0x0, w1s := 0x0,
    wo := 0x0, rsv := 0xFFFFF8C0, reset := 0x300 },
  { id := .complogBase, base := 0x6100, dims := [(0x10, 8)], rw := 0xFFFFFFFFFFFFF000, w1c := 0x0, w1s := 0x0,
    wo := 0x0, rsv := 0xFFF, reset := 0x0 }]

/-- Register tables, part 2. -/
def regDefs2 : List RegDef := [
  { id := .complogCtl, base := 0x6108, dims := [(0x10, 8)], rw := 0xC00F, w1c := 0x0, w1s := 0x0,
    wo := 0x0, rsv := 0xFFFF3FF0, reset := 0x0 },
  { id := .pipSubmit, base := 0x7000, dims := [], rw := 0x0, w1c := 0x0, w1s := 0x0,
    wo := 0xFFFFFFFFFFFF, rsv := 0xFFFF000000000000, reset := 0x0, actsW := true },
  { id := .pipReceipt, base := 0x7008, dims := [], rw := 0x0, w1c := 0x0, w1s := 0x0,
    wo := 0x0, rsv := 0xFFFFFF0000000000, reset := 0xFF00000000 },
  { id := .pipAbort, base := 0x7010, dims := [], rw := 0x0, w1c := 0x0, w1s := 0x0,
    wo := 0xFF, rsv := 0xFFFFFFFFFFFFFF00, reset := 0x0, actsW := true },
  { id := .pipStatus, base := 0x7018, dims := [], rw := 0x0, w1c := 0x0, w1s := 0x0,
    wo := 0x0, rsv := 0x0, reset := 0x0 },
  { id := .hbmPipr, base := 0x7100, dims := [(0x8, 16)], rw := 0x80F0FFFF0000FFFF, w1c := 0x0, w1s := 0x0,
    wo := 0x0, rsv := 0x3F0F0000FFFF0000, reset := 0x0 },
  { id := .hbmStack, base := 0x7200, dims := [(0x8, 16)], rw := 0x0, w1c := 0x0, w1s := 0x0,
    wo := 0x0, rsv := 0x7F0000F0FFFCFFF0, reset := 0x0 },
  { id := .xrCfg, base := 0x8000, dims := [], rw := 0x1FFFF, w1c := 0x0, w1s := 0x0,
    wo := 0x0, rsv := 0xFFFFFFFFFFFE0000, reset := 0x0 },
  { id := .xrRoute, base := 0x8008, dims := [], rw := 0x8000FFFFFFF80000, w1c := 0x0, w1s := 0x1,
    wo := 0x0, rsv := 0x7FFF00000007FFFE, reset := 0x0 },
  { id := .xrTimeout, base := 0x8010, dims := [], rw := 0xFFFFF, w1c := 0x0, w1s := 0x0,
    wo := 0x0, rsv := 0xFFFFFFFFFFF00000, reset := 0x3E8 },
  { id := .xrCounts, base := 0x8020, dims := [], rw := 0x0, w1c := 0x0, w1s := 0x0,
    wo := 0x0, rsv := 0x0, reset := 0x0 },
  { id := .xrWindow, base := 0x8100, dims := [(0x8, 8)], rw := 0xFFFFFFFFFFF00000, w1c := 0x0, w1s := 0x0,
    wo := 0x0, rsv := 0xFFFFF, reset := 0x0 },
  { id := .pwrCtl, base := 0x9000, dims := [], rw := 0xFFFFFFFF00FFFF0E, w1c := 0x0, w1s := 0x0,
    wo := 0x0, rsv := 0xFF0000F1, reset := 0xA0A06 },
  { id := .pwrPkg, base := 0x9008, dims := [], rw := 0x0, w1c := 0x0, w1s := 0x0,
    wo := 0x0, rsv := 0xF8F0, reset := 0x2BC0000 },
  { id := .pwrState, base := 0x9010, dims := [], rw := 0x0, w1c := 0x0, w1s := 0x0,
    wo := 0x0, rsv := 0x7FFF0000FE00FE00, reset := 0x0 },
  { id := .gateCount, base := 0x9028, dims := [], rw := 0x0, w1c := 0x0, w1s := 0x0,
    wo := 0x0, rsv := 0xFFFFFFFF00000000, reset := 0x0 }]

/-- Register tables, part 3. -/
def regDefs3 : List RegDef := [
  { id := .obsCtl, base := 0x9030, dims := [], rw := 0x8000FFFFFFFFFFFF, w1c := 0x4000000000000000, w1s := 0x0,
    wo := 0x0, rsv := 0x3FFF000000000000, reset := 0x0 },
  { id := .pwrDom, base := 0x9100, dims := [(0x8, 24)], rw := 0x0, w1c := 0x0, w1s := 0x0,
    wo := 0x0, rsv := 0xFF, reset := 0x0 },
  { id := .bootStatus, base := 0xA000, dims := [], rw := 0x0, w1c := 0x0, w1s := 0x0,
    wo := 0x0, rsv := 0xFC00000000E0, reset := 0x0 },
  { id := .repairStatus, base := 0xA008, dims := [], rw := 0x0, w1c := 0x8000000000000000, w1s := 0x0,
    wo := 0x0, rsv := 0x7F00, reset := 0x0 },
  { id := .resetStatus, base := 0xA010, dims := [], rw := 0x0, w1c := 0x0, w1s := 0x0,
    wo := 0x0, rsv := 0xFF8C, reset := 0x0 },
  { id := .tileMap, base := 0xA100, dims := [(0x8, 16)], rw := 0x0, w1c := 0x0, w1s := 0x0,
    wo := 0x0, rsv := 0xFFFFFF00FFFE0000, reset := 0x1000000000 },
  { id := .idStatus, base := 0xB000, dims := [], rw := 0x0, w1c := 0x0, w1s := 0x0,
    wo := 0x0, rsv := 0xFFF8, reset := 0x0 },
  { id := .fwStatus, base := 0xB008, dims := [], rw := 0x0, w1c := 0x0, w1s := 0x0,
    wo := 0x0, rsv := 0xFE0000, reset := 0x0 },
  { id := .fwCtl, base := 0xB010, dims := [], rw := 0x0, w1c := 0x0, w1s := 0x7,
    wo := 0x0, rsv := 0xFFFFFFFFFFFFFFF8, reset := 0x0 },
  { id := .fwAct, base := 0xB018, dims := [], rw := 0x0, w1c := 0x0, w1s := 0x0,
    wo := 0xFFFFFFFFFFFFFFFF, rsv := 0x0, reset := 0x0, actsW := true },
  { id := .fwReceipt, base := 0xB020, dims := [], rw := 0x0, w1c := 0x0, w1s := 0x0,
    wo := 0x0, rsv := 0xFFFFFFFF00000000, reset := 0x0 },
  { id := .gvStatus, base := 0xB028, dims := [], rw := 0x0, w1c := 0x0, w1s := 0x0,
    wo := 0x0, rsv := 0x0, reset := 0xFF000000 },
  { id := .gvOffers, base := 0xB030, dims := [], rw := 0x0, w1c := 0x0, w1s := 0x0,
    wo := 0x0, rsv := 0xFFFFFFFFFFFFFF00, reset := 0x0 },
  { id := .fwStageAddr, base := 0xB038, dims := [], rw := 0x0, w1c := 0x0, w1s := 0x0,
    wo := 0xFFFFFFFFFFFF, rsv := 0xFFFF000000000000, reset := 0x0, actsW := true },
  { id := .svcCtl, base := 0xC000, dims := [(0x20, 16)], rw := 0x0, w1c := 0x0, w1s := 0x7,
    wo := 0x0, rsv := 0xFFFFFFFFFFFFFFF8, reset := 0x0 },
  { id := .svcStatus, base := 0xC008, dims := [(0x20, 16)], rw := 0x0, w1c := 0x0, w1s := 0x0,
    wo := 0x0, rsv := 0xFE0000F0, reset := 0xFF00000000 }]

/-- Register tables, part 4. -/
def regDefs4 : List RegDef := [
  { id := .svcCount, base := 0xC010, dims := [(0x20, 16)], rw := 0x0, w1c := 0x0, w1s := 0x0,
    wo := 0x0, rsv := 0x0, reset := 0x0 },
  { id := .gessoStatus, base := 0xC200, dims := [], rw := 0x0, w1c := 0x0, w1s := 0x0,
    wo := 0x0, rsv := 0xFFF0, reset := 0x0 },
  { id := .thermCtl, base := 0x10000, dims := [], rw := 0xFFFF0000000F, w1c := 0x0, w1s := 0x0,
    wo := 0x0, rsv := 0xFFFF0000FFFFFFF0, reset := 0xC800000000 },
  { id := .thermStatus, base := 0x10008, dims := [], rw := 0x0, w1c := 0x0, w1s := 0x0,
    wo := 0x0, rsv := 0xFFFF0000F8F07F00, reset := 0x384000A0000 },
  { id := .thermShut, base := 0x10010, dims := [], rw := 0x0, w1c := 0x8000000000000000, w1s := 0x0,
    wo := 0x0, rsv := 0x7F000000000FFFFF, reset := 0x0 },
  { id := .thermStack, base := 0x10200, dims := [(0x8, 16)], rw := 0x0, w1c := 0xFFF8000, w1s := 0x0,
    wo := 0x0, rsv := 0x70F8, reset := 0x0 },
  { id := .thermRind, base := 0x10300, dims := [(0x8, 8)], rw := 0x0, w1c := 0xF000, w1s := 0x0,
    wo := 0x0, rsv := 0xFF, reset := 0x0 },
  { id := .thermTile, base := 0x11000, dims := [(0x8, 256)], rw := 0x0, w1c := 0xFF8000, w1s := 0x0,
    wo := 0x0, rsv := 0x700F, reset := 0x0 },
  { id := .tgFault, base := 0x100200, dims := [(0x1000, 256)], rw := 0x0, w1c := 0xC000000000000000, w1s := 0x0,
    wo := 0x0, rsv := 0x3F000000FFFF0000, reset := 0x0 },
  { id := .tgFaultPc, base := 0x100208, dims := [(0x1000, 256)], rw := 0x0, w1c := 0x0, w1s := 0x0,
    wo := 0x0, rsv := 0xFFFF8000, reset := 0x0 },
  { id := .easelKeep, base := 0x100300, dims := [(0x1000, 256)], rw := 0xFF0003FF, w1c := 0x0, w1s := 0x0,
    wo := 0x0, rsv := 0xFFFFFFFF00FFFC00, reset := 0x10000040 },
  { id := .easelRows, base := 0x100308, dims := [(0x1000, 256)], rw := 0x0, w1c := 0x0, w1s := 0x0,
    wo := 0x0, rsv := 0x0, reset := 0x0 },
  { id := .easelIdle, base := 0x100310, dims := [(0x1000, 256)], rw := 0x0, w1c := 0x0, w1s := 0x0,
    wo := 0x0, rsv := 0x0, reset := 0x0 },
  { id := .gateOpens, base := 0x100318, dims := [(0x1000, 256)], rw := 0x0, w1c := 0x0, w1s := 0x0,
    wo := 0x0, rsv := 0x0, reset := 0x0 },
  { id := .arithEvents, base := 0x100320, dims := [(0x1000, 256)], rw := 0x0, w1c := 0x0, w1s := 0x0,
    wo := 0x0, rsv := 0x0, reset := 0x0 },
  { id := .randEvents, base := 0x100328, dims := [(0x1000, 256)], rw := 0x0, w1c := 0x0, w1s := 0x0,
    wo := 0x0, rsv := 0xFFFF000000000000, reset := 0x0 }]

/-- Register tables, part 5. -/
def regDefs5 : List RegDef := [
  { id := .tileEvents, base := 0x100330, dims := [(0x1000, 256)], rw := 0x0, w1c := 0x0, w1s := 0x0,
    wo := 0x0, rsv := 0x0, reset := 0x0 },
  { id := .krThrashCfg, base := 0x200000, dims := [], rw := 0xFF0F0001, w1c := 0x0, w1s := 0x0,
    wo := 0x0, rsv := 0xFFFFFFFF00F0FFFE, reset := 0x40060001 },
  { id := .krThrashFlag, base := 0x200008, dims := [(0x8, 4)], rw := 0x0, w1c := 0xFFFFFFFFFFFFFFFF, w1s := 0x0,
    wo := 0x0, rsv := 0x0, reset := 0x0 },
  { id := .krStatus, base := 0x200028, dims := [], rw := 0x0, w1c := 0x0, w1s := 0x0,
    wo := 0x0, rsv := 0xFFFF0000FF0FFE00, reset := 0x0 },
  { id := .krTlr, base := 0x200100, dims := [(0x8, 16)], rw := 0x9FFFFFFFFFF00000, w1c := 0x0, w1s := 0x0,
    wo := 0x0, rsv := 0x20000000000FFFFF, reset := 0x0 },
  { id := .krSliceAcc, base := 0x210000, dims := [(0x10, 256)], rw := 0x0, w1c := 0x0, w1s := 0x0,
    wo := 0x0, rsv := 0x0, reset := 0x0 },
  { id := .krSliceSpent, base := 0x210008, dims := [(0x10, 256)], rw := 0x0, w1c := 0x0, w1s := 0x0,
    wo := 0x0, rsv := 0x0, reset := 0x0 },
  { id := .moverSubmit, base := 0x301000, dims := [(0x10000, 8)], rw := 0x0, w1c := 0x0, w1s := 0x0,
    wo := 0xFFFFFFFFFFFF, rsv := 0xFFFF000000000000, reset := 0x0, actsW := true },
  { id := .moverReceipt, base := 0x301008, dims := [(0x10000, 8)], rw := 0x0, w1c := 0x0, w1s := 0x0,
    wo := 0x0, rsv := 0xFFFFFFFF00000000, reset := 0x0 },
  { id := .moverStatus, base := 0x301010, dims := [(0x10000, 8)], rw := 0x0, w1c := 0x0, w1s := 0x0,
    wo := 0x0, rsv := 0xFF00FE00FFE0FFF8, reset := 0x0 },
  { id := .moverCounts, base := 0x301018, dims := [(0x10000, 8)], rw := 0x0, w1c := 0x0, w1s := 0x0,
    wo := 0x0, rsv := 0x0, reset := 0x0 },
  { id := .moverErr, base := 0x301020, dims := [(0x10000, 8)], rw := 0x0, w1c := 0xC000000000000000, w1s := 0x0,
    wo := 0x0, rsv := 0x3FFF000000000000, reset := 0x0 },
  { id := .xcCtl, base := 0x303000, dims := [(0x10000, 8), (0x40, 16)], rw := 0x0, w1c := 0x0, w1s := 0x7,
    wo := 0x0, rsv := 0xFFFFFFFFFFFFFF38, reset := 0x0 },
  { id := .xcBase, base := 0x303008, dims := [(0x10000, 8), (0x40, 16)], rw := 0xFFFFFFFFFFFF, w1c := 0x0, w1s := 0x0,
    wo := 0x0, rsv := 0xFFFF000000000000, reset := 0x0 },
  { id := .xcSize, base := 0x303010, dims := [(0x10000, 8), (0x40, 16)], rw := 0x1FFFFFFFFFF, w1c := 0x0, w1s := 0x0,
    wo := 0x0, rsv := 0xFFFFFE0000000000, reset := 0x0 },
  { id := .xcExpect, base := 0x303018, dims := [(0x10000, 8), (0x40, 16)], rw := 0x1FFFFFFFFFF, w1c := 0x0, w1s := 0x0,
    wo := 0x0, rsv := 0xFFFFFE0000000000, reset := 0x0 }]

/-- Register tables, part 6. -/
def regDefs6 : List RegDef := [
  { id := .xcRecv, base := 0x303020, dims := [(0x10000, 8), (0x40, 16)], rw := 0x0, w1c := 0x0, w1s := 0x0,
    wo := 0x0, rsv := 0xFFFFFE0000000000, reset := 0x0 },
  { id := .xcNext, base := 0x303028, dims := [(0x10000, 8), (0x40, 16)], rw := 0x8000FFFFFFFFFFFF, w1c := 0x0, w1s := 0x0,
    wo := 0x0, rsv := 0x7FFF000000000000, reset := 0x0 },
  { id := .xcCompl, base := 0x303030, dims := [(0x10000, 8), (0x40, 16)], rw := 0xFFFFFFFFFFFF, w1c := 0x0, w1s := 0x0,
    wo := 0x0, rsv := 0xFFFF000000000000, reset := 0x0 },
  { id := .xpCtl, base := 0x308000, dims := [(0x10000, 8), (0x1000, 8)], rw := 0x703, w1c := 0x0, w1s := 0x4,
    wo := 0x0, rsv := 0xFFFFFFFFFFFFF8F8, reset := 0x0 },
  { id := .xpStatus, base := 0x308008, dims := [(0x10000, 8), (0x1000, 8)], rw := 0x0, w1c := 0x0, w1s := 0x0,
    wo := 0x0, rsv := 0xF8F0, reset := 0x1 },
  { id := .xpMeasure, base := 0x308010, dims := [(0x10000, 8), (0x1000, 8)], rw := 0x0, w1c := 0x0, w1s := 0x0,
    wo := 0x0, rsv := 0x0, reset := 0x0 },
  { id := .xpPartner, base := 0x308018, dims := [(0x10000, 8), (0x1000, 8)], rw := 0x0, w1c := 0x0, w1s := 0x0,
    wo := 0x0, rsv := 0xFFFFFF, reset := 0x0 },
  { id := .xpErrs, base := 0x308020, dims := [(0x10000, 8), (0x1000, 8)], rw := 0x0, w1c := 0x0, w1s := 0x0,
    wo := 0x0, rsv := 0x0, reset := 0x0 },
  { id := .xpFec, base := 0x308028, dims := [(0x10000, 8), (0x1000, 8)], rw := 0x0, w1c := 0x0, w1s := 0x0,
    wo := 0x0, rsv := 0x0, reset := 0x0 },
  { id := .smudgeDataHbm, base := 0x300400, dims := [(0x10000, 8), (0x10, 2)], rw := 0xFFFFFFFFFFFFFFFF, w1c := 0x0, w1s := 0x0,
    wo := 0x0, rsv := 0x0, reset := 0x0 },
  { id := .smudgeCtlHbm, base := 0x300408, dims := [(0x10000, 8), (0x10, 2)], rw := 0xFFFFFFFF0000FFFF, w1c := 0x0, w1s := 0x30000,
    wo := 0x0, rsv := 0xFFFC0000, reset := 0x0 },
  { id := .smudgeDataKr, base := 0x220000, dims := [(0x10, 256)], rw := 0xFFFFFFFFFFFFFFFF, w1c := 0x0, w1s := 0x0,
    wo := 0x0, rsv := 0x0, reset := 0x0 },
  { id := .smudgeCtlKr, base := 0x220008, dims := [(0x10, 256)], rw := 0xFFFFFFFF0000FFFF, w1c := 0x0, w1s := 0x30000,
    wo := 0x0, rsv := 0xFFFC0000, reset := 0x0 },
  { id := .hueBytesTile, base := 0x100400, dims := [(0x1000, 256), (0x8, 16)], rw := 0x0, w1c := 0x0, w1s := 0x0,
    wo := 0x0, rsv := 0x0, reset := 0x0 },
  { id := .hueDemotedTile, base := 0x100480, dims := [(0x1000, 256)], rw := 0x0, w1c := 0xFFFF, w1s := 0x0,
    wo := 0x0, rsv := 0xFFFFFFFFFFFF0000, reset := 0x0 },
  { id := .hueBytesSlice, base := 0x240000, dims := [(0x100, 256), (0x8, 16)], rw := 0x0, w1c := 0x0, w1s := 0x0,
    wo := 0x0, rsv := 0x0, reset := 0x0 }]

/-- Register tables, part 7. -/
def regDefs7 : List RegDef := [
  { id := .hueDemotedSlice, base := 0x240080, dims := [(0x100, 256)], rw := 0x0, w1c := 0xFFFF, w1s := 0x0,
    wo := 0x0, rsv := 0xFFFFFFFFFFFF0000, reset := 0x0 },
  { id := .hueBytesHbm, base := 0x300800, dims := [(0x10000, 8), (0x100, 2), (0x8, 16)], rw := 0x0, w1c := 0x0, w1s := 0x0,
    wo := 0x0, rsv := 0x0, reset := 0x0 },
  { id := .hueDemotedHbm, base := 0x300880, dims := [(0x10000, 8), (0x100, 2)], rw := 0x0, w1c := 0xFFFF, w1s := 0x0,
    wo := 0x0, rsv := 0xFFFFFFFFFFFF0000, reset := 0x0 },
  { id := .hueBytesMover, base := 0x301100, dims := [(0x10000, 8), (0x8, 16)], rw := 0x0, w1c := 0x0, w1s := 0x0,
    wo := 0x0, rsv := 0x0, reset := 0x0 },
  { id := .hueDemotedMover, base := 0x301180, dims := [(0x10000, 8)], rw := 0x0, w1c := 0xFFFF, w1s := 0x0,
    wo := 0x0, rsv := 0xFFFFFFFFFFFF0000, reset := 0x0 },
  { id := .hueBytesXtx, base := 0x308400, dims := [(0x10000, 8), (0x1000, 8), (0x8, 16)], rw := 0x0, w1c := 0x0, w1s := 0x0,
    wo := 0x0, rsv := 0x0, reset := 0x0 },
  { id := .hueDemotedXtx, base := 0x308480, dims := [(0x10000, 8), (0x1000, 8)], rw := 0x0, w1c := 0xFFFF, w1s := 0x0,
    wo := 0x0, rsv := 0xFFFFFFFFFFFF0000, reset := 0x0 },
  { id := .hueBytesXrx, base := 0x308500, dims := [(0x10000, 8), (0x1000, 8), (0x8, 16)], rw := 0x0, w1c := 0x0, w1s := 0x0,
    wo := 0x0, rsv := 0x0, reset := 0x0 },
  { id := .hueDemotedXrx, base := 0x308580, dims := [(0x10000, 8), (0x1000, 8)], rw := 0x0, w1c := 0xFFFF, w1s := 0x0,
    wo := 0x0, rsv := 0xFFFFFFFFFFFF0000, reset := 0x0 },
  { id := .hueBytesHost, base := 0x5200, dims := [(0x8, 16)], rw := 0x0, w1c := 0x0, w1s := 0x0,
    wo := 0x0, rsv := 0x0, reset := 0x0 },
  { id := .hueDemotedHost, base := 0x5280, dims := [], rw := 0x0, w1c := 0xFFFF, w1s := 0x0,
    wo := 0x0, rsv := 0xFFFFFFFFFFFF0000, reset := 0x0 },
  { id := .pwrSnap, base := 0x9200, dims := [(0x8, 24)], rw := 0x0, w1c := 0x0, w1s := 0x0,
    wo := 0x0, rsv := 0xFF, reset := 0x0 },
  { id := .thermStackSnap, base := 0x18200, dims := [(0x8, 16)], rw := 0x0, w1c := 0xFFF8000, w1s := 0x0,
    wo := 0x0, rsv := 0x70F8, reset := 0x0 },
  { id := .thermRindSnap, base := 0x18300, dims := [(0x8, 8)], rw := 0x0, w1c := 0xF000, w1s := 0x0,
    wo := 0x0, rsv := 0xFF, reset := 0x0 },
  { id := .thermTileSnap, base := 0x19000, dims := [(0x8, 256)], rw := 0x0, w1c := 0xFF8000, w1s := 0x0,
    wo := 0x0, rsv := 0x700F, reset := 0x0 },
  { id := .telemSeq, base := 0x9018, dims := [], rw := 0x0, w1c := 0x0, w1s := 0x0,
    wo := 0x0, rsv := 0x0, reset := 0x0 }]

/-- Register tables, part 8. -/
def regDefs8 : List RegDef := [
  { id := .telemDue, base := 0x9020, dims := [], rw := 0x0, w1c := 0x0, w1s := 0x0,
    wo := 0x0, rsv := 0x0, reset := 0x0 },
  { id := .msixAddr, base := 0xE000, dims := [(0x10, 68)], rw := 0xFFFFFFFFFFFFFFFC, w1c := 0x0, w1s := 0x0,
    wo := 0x0, rsv := 0x3, reset := 0x0 },
  { id := .msixCtl, base := 0xE008, dims := [(0x10, 68)], rw := 0x1FFFFFFFF, w1c := 0x0, w1s := 0x0,
    wo := 0x0, rsv := 0xFFFFFFFE00000000, reset := 0x100000000 },
  { id := .msixPba, base := 0xF000, dims := [(0x8, 2)], rw := 0x0, w1c := 0x0, w1s := 0x0,
    wo := 0x0, rsv := 0x0, reset := 0x0 },
  { id := .cwLogBase, base := 0xD048, dims := [(0x100, 8)], rw := 0xFFFFFFFFFFFFF000, w1c := 0x0, w1s := 0x0,
    wo := 0x0, rsv := 0xFFF, reset := 0x0 },
  { id := .cwLogCtl, base := 0xD050, dims := [(0x100, 8)], rw := 0x800F, w1c := 0x0, w1s := 0x0,
    wo := 0x0, rsv := 0xFFFF3FF0, reset := 0x4000 },
  { id := .cwReceipt, base := 0xD040, dims := [(0x100, 8)], rw := 0x0, w1c := 0x0, w1s := 0x0,
    wo := 0x0, rsv := 0x0, reset := 0x0, actsR := true },
  { id := .cwRecord, base := 0xD000, dims := [(0x100, 8), (0x8, 8)], rw := 0xFFFFFFFFFFFFFFFF, w1c := 0x0, w1s := 0x0,
    wo := 0x0, rsv := 0x0, reset := 0x0 }]

def regDefs : List RegDef :=
  regDefs0 ++ regDefs1 ++ regDefs2 ++ regDefs3 ++ regDefs4 ++ regDefs5 ++ regDefs6 ++ regDefs7 ++ regDefs8

/-- Indices of an offset within the repetition of a table, if it is one of its places. -/
def dimIndex : List (Nat × Nat) → Nat → Option (List Nat)
  | [], r => if r = 0 then some [] else none
  | (stride, count) :: t, r =>
    let i := r / stride
    if i < count then (dimIndex t (r % stride)).map (i :: ·) else none

/-- The register at an 8-byte offset, with its unit indices. -/
def regFind : List RegDef → Nat → Option (RegDef × List Nat)
  | [], _ => none
  | d :: t, off =>
    if d.base ≤ off then
      match dimIndex d.dims (off - d.base) with
      | some ix => some (d, ix)
      | none => regFind t off
    else regFind t off

def regAt (off : Nat) : Option (RegDef × List Nat) := regFind regDefs off

/-- The table of a register. -/
def regDef (r : RegId) : RegDef :=
  (regDefs.find? fun d => d.id == r).getD
    { id := r, base := 0, dims := [], rw := 0, w1c := 0, w1s := 0, wo := 0, rsv := 0, reset := 0 }

/-- Offset from the first place for unit indices. -/
def dimOffset : List (Nat × Nat) → List Nat → Nat
  | (stride, _) :: t, i :: ix => stride * i + dimOffset t ix
  | _, _ => 0

/-- The BAR0 offset of a register of a unit. -/
def regOff (r : RegId) (ix : List Nat) : Nat := let d := regDef r; d.base + dimOffset d.dims ix

/-- The stored value of a register of a unit. -/
def regGet (d : Dev) (r : RegId) (ix : List Nat := []) : Nat :=
  match tfind d.regs (regOff r ix) with
  | some v => v.toNat
  | none => (regDef r).reset

def regPut (d : Dev) (r : RegId) (ix : List Nat) (v : Nat) : Dev :=
  { d with regs := tput d.regs (regOff r ix) (BitVec.ofNat 64 v) }

/-- A field of a stored register. -/
def regField (d : Dev) (r : RegId) (ix : List Nat) (hi lo : Nat) : Nat := bits (regGet d r ix) hi lo

def regSetField (d : Dev) (r : RegId) (ix : List Nat) (hi lo x : Nat) : Dev :=
  regPut d r ix (putBits (regGet d r ix) hi lo x)

def regSetBit (d : Dev) (r : RegId) (ix : List Nat) (i : Nat) : Dev := regSetField d r ix i i 1

def regClearBit (d : Dev) (r : RegId) (ix : List Nat) (i : Nat) : Dev := regSetField d r ix i i 0

def regBit (d : Dev) (r : RegId) (ix : List Nat) (i : Nat) : Bool := regField d r ix i i == 1

/-- Add to a counter field that wraps. -/
def regBump (d : Dev) (r : RegId) (ix : List Nat) (hi lo n : Nat) : Dev :=
  regSetField d r ix hi lo (regField d r ix hi lo + n)

/-- Add to a counter field that stops at its largest value. -/
def regBumpSat (d : Dev) (r : RegId) (ix : List Nat) (hi lo n : Nat) : Dev :=
  regSetField d r ix hi lo (min (regField d r ix hi lo + n) (2 ^ (hi + 1 - lo) - 1))

/-- Return a register to its reset value. -/
def regReset (d : Dev) (r : RegId) (ix : List Nat) : Dev := { d with regs := tdel d.regs (regOff r ix) }

/-- Return every place of a register to its reset value. -/
def regResetAll (d : Dev) (r : RegId) : Dev :=
  let t := regDef r
  { d with regs := d.regs.filter fun e =>
      !(decide (t.base ≤ e.1) && (dimIndex t.dims (e.1 - t.base)).isSome) }

/-- What a write of `v` to the bits of `mask` leaves in the stored fields of a register (R25, R28): RW takes the
written bits, W1C clears, W1S sets, RO, WO and reserved bits keep. -/
def storedAfterWrite (t : RegDef) (old mask v : Nat) : Nat :=
  let w := Nat.land v mask
  let keep := Nat.land old (Nat.xor (2 ^ 64 - 1) (Nat.lor (Nat.land t.rw mask) (Nat.land t.w1c w)))
  Nat.lor keep (Nat.lor (Nat.land w t.rw) (Nat.land w t.w1s))

end Sys2Proof.Machine
end

