-- ==== Sys2Proof/Machine/Status.lean ====
section
/-! DEFINITION. The status codes of R620 and the codes of the error log's reporting units (R368). -/
namespace Sys2Proof.Machine
open Sys2Proof

/-- `ST_OK`: Accepted or completed (Proceeds). -/
abbrev stOk : Half := 0x0000
/-- `ST_ACCESS_SIZE`: Bad register access size (R29, R30). -/
abbrev stAccessSize : Half := 0x1001
/-- `ST_UNBACKED`: Unbacked address (R608, R420). -/
abbrev stUnbacked : Half := 0x1002
/-- `ST_CANVAS_CRC`: Canvas image CRC (R74). -/
abbrev stCanvasCrc : Half := 0x1003
/-- `ST_CANVAS_FIELD`: Canvas field out of range (R74). -/
abbrev stCanvasField : Half := 0x1004
/-- `ST_CANVAS_SCHEDULE`: Bad rotation or start time (R74, R76). -/
abbrev stCanvasSchedule : Half := 0x1005
/-- `ST_CANVAS_OVERLAP`: Regions overlap (R74). -/
abbrev stCanvasOverlap : Half := 0x1006
/-- `ST_TB_ROLE`: Bad time base role (R92, R99). -/
abbrev stTbRole : Half := 0x1007
/-- `ST_CUE_TARGET`: Bad cue target, cue unit or release line (R103, R106; faults under R109). -/
abbrev stCueTarget : Half := 0x1008
/-- `ST_CUE_ACTION`: Bad cue action or hue (R102, R103). -/
abbrev stCueAction : Half := 0x1009
/-- `ST_PC_RANGE`: Program counter out of range (Faults; R132). -/
abbrev stPcRange : Half := 0x100A
/-- `ST_ILLEGAL_INSTR`: Undefined instruction (Faults; R132). -/
abbrev stIllegalInstr : Half := 0x100B
/-- `ST_CONTEXT_CRC`: Context CRC (R146). -/
abbrev stContextCrc : Half := 0x100C
/-- `ST_CONTEXT_FIELD`: Context field mismatch (R146, R448). -/
abbrev stContextField : Half := 0x100D
/-- `ST_SB_RANGE`: Stage-buffer offset out of range, or outside the seat's regions (Faults; R149). -/
abbrev stSbRange : Half := 0x100E
/-- `ST_MEM_ALIGN`: Misaligned access (Faults; R152, R624). -/
abbrev stMemAlign : Half := 0x100F
/-- `ST_EASEL_OPERAND`: Bad matrix operand (Faults; R182). -/
abbrev stEaselOperand : Half := 0x1010
/-- `ST_EASEL_RAMP`: RAMP_STEP below 16 (R200). -/
abbrev stEaselRamp : Half := 0x1011
/-- `ST_CVT_FORMAT`: Bad conversion format (Faults; R232). -/
abbrev stCvtFormat : Half := 0x1012
/-- `ST_RAND_OPERAND`: Bad draw operand (Faults; R248). -/
abbrev stRandOperand : Half := 0x1013
/-- `ST_DESC_FIELD`: Descriptor field (R260). -/
abbrev stDescField : Half := 0x1014
/-- `ST_DESC_ALIGN`: Descriptor alignment (R260). -/
abbrev stDescAlign : Half := 0x1015
/-- `ST_DESC_ALIAS`: Zero-stride write without combine (R260, R263). -/
abbrev stDescAlias : Half := 0x1016
/-- `ST_DESC_RANGE`: Descriptor outside its space (R260). -/
abbrev stDescRange : Half := 0x1017
/-- `ST_MOVER_FIELD`: Mover command field, command alignment or mover number (R274, R275). -/
abbrev stMoverField : Half := 0x1018
/-- `ST_MOVER_TILE`: Tile outside the canvas (R274). -/
abbrev stMoverTile : Half := 0x1019
/-- `ST_KR_REGION`: Bad tile-local region (R290). -/
abbrev stKrRegion : Half := 0x101A
/-- `ST_PRESERVE_FIELD`: Bad preserve argument (R304). -/
abbrev stPreserveField : Half := 0x101B
/-- `ST_PRESERVE_ID`: Bad preserve number (R304). -/
abbrev stPreserveId : Half := 0x101C
/-- `ST_PIP_REGION`: Bad pip-aligned region (R330). -/
abbrev stPipRegion : Half := 0x101D
/-- `ST_PIP_FIELD`: Bad session descriptor (R341). -/
abbrev stPipField : Half := 0x101E
/-- `ST_PIP_ID`: Bad session (R348, R351). -/
abbrev stPipId : Half := 0x101F
/-- `ST_ERRLOG_FIELD`: Bad error ring (R370). -/
abbrev stErrlogField : Half := 0x1020
/-- `ST_GLEAN_FIELD`: Bad gleaner setting (R376). -/
abbrev stGleanField : Half := 0x1021
/-- `ST_SWEEP_FIELD`: Bad sweep argument (R381). -/
abbrev stSweepField : Half := 0x1022
/-- `ST_HUE_FIELD`: Bad hue setting (R398, R399). -/
abbrev stHueField : Half := 0x1023
/-- `ST_XP_FIELD`: Bad Xeost setting (R402, R421, R431, R435). -/
abbrev stXpField : Half := 0x1024
/-- `ST_XO_FIELD`: Bad Xeost message (R417, R420). -/
abbrev stXoField : Half := 0x1025
/-- `ST_CMD_OPCODE`: Bad command opcode (R449). -/
abbrev stCmdOpcode : Half := 0x1026
/-- `ST_HOST_FIELD`: Bad command argument (R449, R452, R459). -/
abbrev stHostField : Half := 0x1027
/-- `ST_GESSO_FIELD`: Malformed Gesso (R468, R540, R541). -/
abbrev stGessoField : Half := 0x1028
/-- `ST_GESSO_LIMIT`: Board limit clamped (R472). -/
abbrev stGessoLimit : Half := 0x1029
/-- `ST_SVC_FIELD`: Bad service setting (R476, R485). -/
abbrev stSvcField : Half := 0x102A
/-- `ST_PWR_FIELD`: Bad power setting (R511, R515). -/
abbrev stPwrField : Half := 0x102B
/-- `ST_THERM_FIELD`: Bad thermal setting (R530). -/
abbrev stThermField : Half := 0x102C
/-- `ST_FW_FIELD`: Bad image field (R567). -/
abbrev stFwField : Half := 0x102D
/-- `ST_FW_TIME`: Activation too soon (R574). -/
abbrev stFwTime : Half := 0x102E
/-- `ST_CANVAS_STATE`: Wrong canvas state (R76). -/
abbrev stCanvasState : Half := 0x2001
/-- `ST_TILE_BUSY`: Tile taken or absent (R74, R544). -/
abbrev stTileBusy : Half := 0x2002
/-- `ST_CUE_TAG_BUSY`: Cue tag in use (R103). -/
abbrev stCueTagBusy : Half := 0x2003
/-- `ST_CUE_NOT_FOUND`: No cue to cancel (R106). -/
abbrev stCueNotFound : Half := 0x2004
/-- `ST_BARRIER_TIMEOUT`: Barrier timed out (Faults; R137). -/
abbrev stBarrierTimeout : Half := 0x2005
/-- `ST_BARRIER_MEMBER`: Not a barrier member (Faults; R134, R135). -/
abbrev stBarrierMember : Half := 0x2006
/-- `ST_BARRIER_REARRIVE`: Second arrival (Faults; R135). -/
abbrev stBarrierRearrive : Half := 0x2007
/-- `ST_BARRIER_BUSY`: Barrier phase in progress (Faults; R134). -/
abbrev stBarrierBusy : Half := 0x2008
/-- `ST_STREAM_SLOT`: Bad slot, stream or rank (Faults; R130). -/
abbrev stStreamSlot : Half := 0x2009
/-- `ST_DIVERGENT_COLLECTIVE`: Mask differs (Faults; R182). -/
abbrev stDivergentCollective : Half := 0x200A
/-- `ST_EASEL_HOLD`: No valid hold (Faults; R182). -/
abbrev stEaselHold : Half := 0x200B
/-- `ST_GATE_MODE`: Gate misuse (Faults; R182, R197). -/
abbrev stGateMode : Half := 0x200C
/-- `ST_GATE_BUSY`: Batch outstanding (Faults; R197). -/
abbrev stGateBusy : Half := 0x200D
/-- `ST_MOVER_ABORTED`: Ended by reset (R279). -/
abbrev stMoverAborted : Half := 0x200E
/-- `ST_PRESERVE_OVERLAP`: Preserve overlaps (R304). -/
abbrev stPreserveOverlap : Half := 0x200F
/-- `ST_PIP_NOT_FLUSHED`: Host holds lines (R330, R343). -/
abbrev stPipNotFlushed : Half := 0x2010
/-- `ST_PIP_ABORTED`: Session aborted (R344). -/
abbrev stPipAborted : Half := 0x2011
/-- `ST_COLL_STATE`: Wrong collective state (R425). -/
abbrev stCollState : Half := 0x2012
/-- `ST_COLL_CLOSED`: Collective not open (R426). -/
abbrev stCollClosed : Half := 0x2013
/-- `ST_NOT_READY`: Bring-up or restart in progress (R449, R576). -/
abbrev stNotReady : Half := 0x2014
/-- `ST_SVC_OWNED`: Canvas owned by a service (R483). -/
abbrev stSvcOwned : Half := 0x2015
/-- `ST_SVC_STATE`: Wrong service state (R485). -/
abbrev stSvcState : Half := 0x2016
/-- `ST_SVC_RESET`: Request ended by reset (R478). -/
abbrev stSvcReset : Half := 0x2017
/-- `ST_BLOCK_IN_USE`: Quadrant in use (R507, R617). -/
abbrev stBlockInUse : Half := 0x2018
/-- `ST_BLOCK_GATED`: Block not ON (R509). -/
abbrev stBlockGated : Half := 0x2019
/-- `ST_RESET_STATE`: Reset before step 10 (R537). -/
abbrev stResetState : Half := 0x201A
/-- `ST_RESET_BUSY`: Compute reset running (R556). -/
abbrev stResetBusy : Half := 0x201B
/-- `ST_RESET_ABORTED`: Ended by compute reset (R557). -/
abbrev stResetAborted : Half := 0x201C
/-- `ST_FW_STATE`: Wrong slot state (R573, R574, R582). -/
abbrev stFwState : Half := 0x201D
/-- `ST_FW_CANCELLED`: Activation cancelled (R574). -/
abbrev stFwCancelled : Half := 0x201E
/-- `ST_FW_FALLBACK`: Trial image fell back (R577). -/
abbrev stFwFallback : Half := 0x201F
/-- `ST_FW_NONE`: No image can start (R577). -/
abbrev stFwNone : Half := 0x2020
/-- `ST_CANVAS_LIMIT`: Canvas exceeds a tile limit (R74). -/
abbrev stCanvasLimit : Half := 0x3001
/-- `ST_CANVAS_SLOTS`: 16 canvases loaded (R74). -/
abbrev stCanvasSlots : Half := 0x3002
/-- `ST_CANVAS_SPILL`: Spill area too small or misplaced (R74). -/
abbrev stCanvasSpill : Half := 0x3003
/-- `ST_PRESERVE_LIMIT`: Pin limit or table full (R74, R302). -/
abbrev stPreserveLimit : Half := 0x3004
/-- `ST_CUE_FULL`: Cue unit full (R103). -/
abbrev stCueFull : Half := 0x3005
/-- `ST_MOVER_FULL`: Mover queue full (R274). -/
abbrev stMoverFull : Half := 0x3006
/-- `ST_KR_THRASH`: Low unpinned hit rate (Logs; R307). -/
abbrev stKrThrash : Half := 0x3007
/-- `ST_PIP_FULL`: Session queue full (R341). -/
abbrev stPipFull : Half := 0x3008
/-- `ST_SWEEP_BUSY`: 4 sweeps running (R381). -/
abbrev stSweepBusy : Half := 0x3009
/-- `ST_COLL_OVER`: Beyond EXPECTED (R426). -/
abbrev stCollOver : Half := 0x300A
/-- `ST_SLOT_FULL`: 64 operations in flight (R449, R484). -/
abbrev stSlotFull : Half := 0x300B
/-- `ST_NVM`: NVM unusable (R536). -/
abbrev stNvm : Half := 0x300C
/-- `ST_REPAIR_LOG_FULL`: Repair log full (R542). -/
abbrev stRepairLogFull : Half := 0x300D
/-- `ST_HBM_MISSING`: Required stack missing (R552). -/
abbrev stHbmMissing : Half := 0x300E
/-- `ST_FW_BUSY`: Staging in progress (R573). -/
abbrev stFwBusy : Half := 0x300F
/-- `ST_SEAT_OVERRUN`: Switch began more than one PERIOD late (Logs; R83). -/
abbrev stSeatOverrun : Half := 0x3010
/-- `ST_SMUDGE_LOCKED`: Testing not enabled (R384). -/
abbrev stSmudgeLocked : Half := 0x4001
/-- `ST_XO_WINDOW`: Outside a permitting window (R420, R426). -/
abbrev stXoWindow : Half := 0x4002
/-- `ST_GESSO_SIGNATURE`: Signature fails (R468, R539). -/
abbrev stGessoSignature : Half := 0x4003
/-- `ST_GESSO_BINDING`: Other device's section (R468, R539). -/
abbrev stGessoBinding : Half := 0x4004
/-- `ST_REPAIR_LOG`: Repair log entry fails (R542). -/
abbrev stRepairLog : Half := 0x4005
/-- `ST_ID_FAIL`: No identity (R561). -/
abbrev stIdFail : Half := 0x4006
/-- `ST_ID_CERT`: Certificate mismatch (R564). -/
abbrev stIdCert : Half := 0x4007
/-- `ST_FW_SIGNATURE`: Image signature fails (R567). -/
abbrev stFwSignature : Half := 0x4008
/-- `ST_FW_ROLLBACK`: SVN below floor (R567). -/
abbrev stFwRollback : Half := 0x4009
/-- `ST_FW_KEY`: Fleet key invalid (R567, R569). -/
abbrev stFwKey : Half := 0x400A
/-- `ST_FW_AUTH`: Body tag or digest fails (R567). -/
abbrev stFwAuth : Half := 0x400B
/-- `ST_FW_ACCESS`: FW_CTL write not from core 0 (R582). -/
abbrev stFwAccess : Half := 0x400C
/-- `ST_CORRECTED`: Word corrected (Logs; R356, R369). -/
abbrev stCorrected : Half := 0x5001
/-- `ST_UNCORRECTABLE`: Word uncorrectable (Poisons; R356). -/
abbrev stUncorrectable : Half := 0x5002
/-- `ST_POISON`: Poison to an outside requester (R364). -/
abbrev stPoison : Half := 0x5003
/-- `ST_POISON_CONSUMED`: Poison consumed (Faults; R171). -/
abbrev stPoisonConsumed : Half := 0x5004
/-- `ST_REG_PARITY`: Register parity (Faults; R357). -/
abbrev stRegParity : Half := 0x5005
/-- `ST_CRC_FINAL`: Sector lost (R361). -/
abbrev stCrcFinal : Half := 0x5006
/-- `ST_SPENT_REREAD`: Read met a stone (R311). -/
abbrev stSpentReread : Half := 0x5007
/-- `ST_ENTROPY_FAIL`: Health test failed (R236, R245). -/
abbrev stEntropyFail : Half := 0x5008
/-- `ST_GESSO_CRC`: Gesso CRC (R468). -/
abbrev stGessoCrc : Half := 0x5009
/-- `ST_SELFTEST`: Self-test failed (R536). -/
abbrev stSelftest : Half := 0x500A
/-- `ST_MESH_FAULT`: Router failed (R543). -/
abbrev stMeshFault : Half := 0x500B
/-- `ST_BOND_SPARED`: Bond swapped (R549). -/
abbrev stBondSpared : Half := 0x500C
/-- `ST_BOND_HALF`: Bundle at half width (R550). -/
abbrev stBondHalf : Half := 0x500D
/-- `ST_KR_SLICE_OUT`: Vertical port out (R550). -/
abbrev stKrSliceOut : Half := 0x500E
/-- `ST_KR_UNMAPPABLE`: No substitute slice (R547). -/
abbrev stKrUnmappable : Half := 0x500F
/-- `ST_HBM_HOLE`: Bank beyond reserve (R551). -/
abbrev stHbmHole : Half := 0x5010
/-- `ST_FW_RECORD`: No valid slot record (R575). -/
abbrev stFwRecord : Half := 0x5011
/-- `ST_FORMAT`: Wrong format identifier (R53). -/
abbrev stFormat : Half := 0x6001
/-- `ST_VERSION`: Unsupported version (R53, R56, R58). -/
abbrev stVersion : Half := 0x6002
/-- `ST_RESERVED`: Non-zero reserved field or unused offset (R20, R26, R442). -/
abbrev stReserved : Half := 0x6003
/-- `ST_LANE_MISMATCH`: Mid-step lane count differs (R146). -/
abbrev stLaneMismatch : Half := 0x6004
/-- `ST_LINK_TRAIN`: Training failed (R405). -/
abbrev stLinkTrain : Half := 0x7001
/-- `ST_LINK_DOWN`: Port went down (R423). -/
abbrev stLinkDown : Half := 0x7002
/-- `ST_LINK_TIMEOUT`: No response (R422). -/
abbrev stLinkTimeout : Half := 0x7003
/-- `ST_LINK_ROUTE`: No route (R418). -/
abbrev stLinkRoute : Half := 0x7004
/-- `ST_XP_PARTNER`: Unexpected partner (R474). -/
abbrev stXpPartner : Half := 0x7005
/-- `ST_TB_HOLDOVER`: Time reference lost (R94). -/
abbrev stTbHoldover : Half := 0x7006
/-- `ST_POWER_LIMIT`: Throttle engaged (R499). -/
abbrev stPowerLimit : Half := 0x8001
/-- `ST_VPM_FAULT`: Module or rail fault (R491, R502). -/
abbrev stVpmFault : Half := 0x8002
/-- `ST_PWR_SENSE`: Module and device disagree (R493). -/
abbrev stPwrSense : Half := 0x8003
/-- `ST_THERMAL_REQUEST`: Request limit reached (R522). -/
abbrev stThermalRequest : Half := 0x8004
/-- `ST_THERMAL_ENFORCE`: Grace time expired (R523). -/
abbrev stThermalEnforce : Half := 0x8005
/-- `ST_THERMAL_TRIP`: Trip limit reached (R524). -/
abbrev stThermalTrip : Half := 0x8006
/-- `ST_THERM_SENSOR`: Sensor flagged (R520). -/
abbrev stThermSensor : Half := 0x8007
/-- `ST_PIP_THERMAL`: Stack in band 3 (R341). -/
abbrev stPipThermal : Half := 0x8008

/-! ### Reporting units (R368) -/
abbrev ukTile : Nat := 0
abbrev ukSlice : Nat := 1
abbrev ukStack : Nat := 2
abbrev ukRind : Nat := 3
abbrev ukPip : Nat := 4
abbrev ukXeost : Nat := 5
abbrev ukHost : Nat := 6
abbrev ukCore : Nat := 7
abbrev ukStem : Nat := 8

end Sys2Proof.Machine
end

