-- ==== Sys2Proof/Machine/Ops.lean ====
section
/-! DEFINITION. The shared operations of the device: outputs, error log records, free draws, unit numbering, the map
of device-local addresses onto the stacks (R324, R328), and reads and writes of HBM words at their controller. -/
namespace Sys2Proof.Machine
open Sys2Proof

/-! ### Outputs, time, free draws -/

/-- What the device answers or sends joins its outputs.
DESIGN CHOICE, safe (log 20). -/
def emit (d : Dev) (o : Output) : Dev := { d with out := d.out ++ [o] }

/-- A free yes-or-no, a new one at each draw.
DESIGN CHOICE, safe (log 6). -/
def drawBool (d : Dev) : Bool × Dev := (Config.freeBool d.freeCnt, { d with freeCnt := d.freeCnt + 1 })

/-- A free number, a new one at each draw.
DESIGN CHOICE, safe (log 6). -/
def drawNat (d : Dev) : Nat × Dev := (Config.freeNat d.freeCnt, { d with freeCnt := d.freeCnt + 1 })

/-- Ticks per microsecond (R12). -/
abbrev usTicks : Nat := 2000
abbrev msTicks : Nat := 2000000

/-! ### Counter copies (R89, R90) -/

/-- Whether copy `k` is the later of the two values that copies show at this tick: tile `t`, 256 + r for rind die `r`.
DESIGN CHOICE, safe (log 15). -/
def copyLater (tb : TimeBase) (k : Nat) : Bool :=
  Config.copyBit tb.copyNo k || tb.copyKept && Config.copyBit (tb.copyNo - 1) k

/-- The value of a copy: no two of them, nor one and the master, are more than one tick apart.
DESIGN CHOICE, safe (log 15). -/
def copyAt (tb : TimeBase) (k : Nat) : Nat := (tb.now + tb.ahead.toNat + (copyLater tb k).toNat - 1) % 2 ^ 64

/-- The copies as the master has advanced by one or two ticks: which of them differ is free, none runs backwards. -/
def turnCopies (d : Dev) : Dev :=
  let (a, d) := drawBool d
  { d with tb := { d.tb with ahead := a, copyKept := d.tb.ahead && !a, copyNo := d.tb.copyNo + 1 } }

/-! ### Error log records (R366, R367) -/

/-- Queue one record of its own (R369).
DESIGN CHOICE, unsafe (log 61). -/
def logErr (d : Dev) (st : Half) (kind unit cls : Nat) (addr : Nat := 0) (detail : Nat := 0) (canvas : Nat := 0xFF) :
    Dev :=
  let r : ErrRec := { status := st, kind := kind, unit := unit, cls := cls, canvas := canvas, count := 1,
                      time := d.tb.now, addr := BitVec.ofNat 64 addr, detail := BitVec.ofNat 64 detail }
  { d with errq := d.errq ++ [r] }

/-- Count a corrected word of a unit: a record for the first, at most one per millisecond after it (R369). -/
def logCorrected (d : Dev) (kind unit addr detail : Nat) : Dev :=
  let k := kind * 65536 + unit
  match tfind d.merges k with
  | none =>
    logErr { d with merges := tput d.merges k { count := 0, addr := 0, detail := 0, time := 0, armed := true } }
      stCorrected kind unit 0 addr detail
  | some m =>
    let m' := if m.count = 0 then
        { m with count := 1, addr := addr, detail := BitVec.ofNat 64 detail, time := d.tb.now }
      else { m with count := m.count + 1 }
    { d with merges := tput d.merges k m' }

/-- The register access detail of R622. -/
def accessDetail (off : Nat) (bar2 write : Bool) (bytes : Nat) : Nat :=
  bits off 31 0 + (bar2.toNat <<< 32) + (write.toNat <<< 33) + (bits bytes 6 0 <<< 34)

/-- Log a discarded or refused register access (R622). -/
def logAccess (d : Dev) (r : Req) (st : Half) (off : Nat) (bar2 write : Bool) (bytes : Nat) : Dev :=
  match r with
  | .host => logErr d st ukHost 0 2 0 (accessDetail off bar2 write bytes)
  | .core c => logErr d st ukCore c 2 0 (accessDetail off false write bytes)

/-- DETAIL of a word event (R367). -/
def wordDetail (s : Syndromes) (wordInSector : Nat) : Nat :=
  s.s1 + (s.s3 <<< 7) + (s.par.toNat <<< 14) + (wordInSector <<< 15)

/-! ### Units (R9, R489) -/

/-- Rind die of a stack or of a port. -/
abbrev rindOfStack (s : Nat) : Nat := s / 2
abbrev rindOfPort (p : Nat) : Nat := p / 8

/-- Power quadrant of a logical tile (R489). -/
def quadOf (t : Nat) : Nat := (t / 16 / 8) * 2 + (t % 16) / 8

/-- Block indices of R617. -/
abbrev blkMover (r : Nat) : Nat := 4 + r
abbrev blkPip (r : Nat) : Nat := 12 + r
abbrev blkColl (r : Nat) : Nat := 20 + r
abbrev blkEntropy : Nat := 28
abbrev blkSweep : Nat := 29
abbrev blkTelem : Nat := 30

def blkState (d : Dev) (k : Nat) : BlkSt := tget .off d.blocks k

/-- Whether a block answers commands: ON (R509). -/
def blkOn (d : Dev) (k : Nat) : Bool := blkState d k == .on

/-- A command to the block is accepted: ON, or ON_PENDING where it is held until ON (R509). -/
def blkAccepts (d : Dev) (k : Nat) : Bool := blkState d k == .on || blkState d k == .onPending

/-- The block answers register and data-path accesses (R509). -/
def blkServes (d : Dev) (k : Nat) : Bool :=
  match blkState d k with
  | .off => false
  | .waking => false
  | _ => true

def tileOf (d : Dev) (t : Nat) : Tile := tget {} d.tiles t
def putTile (d : Dev) (t : Nat) (x : Tile) : Dev := { d with tiles := tput d.tiles t x }
/-- A command whose read of memory waits for the host is taken up again later (R314).
DESIGN CHOICE, unsafe (log 130). -/
def waitFor (d : Dev) (c : Instr) : Dev := { d with waits := d.waits ++ [c] }

def modEntropy (d : Dev) (f : Entropy → Entropy) : Dev := { d with entropy := f d.entropy }
def modTile (d : Dev) (t : Nat) (f : Tile → Tile) : Dev := putTile d t (f (tileOf d t))
def sliceOf (d : Dev) (s : Nat) : Slice := tget {} d.slices s
def putSlice (d : Dev) (s : Nat) (x : Slice) : Dev := { d with slices := tput d.slices s x }
def modSlice (d : Dev) (s : Nat) (f : Slice → Slice) : Dev := putSlice d s (f (sliceOf d s))
def stackOf (d : Dev) (s : Nat) : Stack := tget {} d.stks s
def portOf (d : Dev) (p : Nat) : Port := tget {} d.ports p
def putPort (d : Dev) (p : Nat) (x : Port) : Dev := { d with ports := tput d.ports p x }
def modPort (d : Dev) (p : Nat) (f : Port → Port) : Dev := putPort d p (f (portOf d p))

/-! ### Device-local addresses (R8, R21, R607) -/

/-- Backed bytes of HBM; addresses below it are backed. -/
def backedTop (d : Dev) : Nat := d.limits.hbmBytes

def backed (d : Dev) (a n : Nat) : Bool := decide (a + n ≤ backedTop d)

/-- N of R324: populated stacks that the ordering code calls for. -/
def nStacks (d : Dev) : Nat := if d.limits.hbmBytes = 0xC000000000 then 12 else 16

/-- XOR of the 4-bit groups of x[25:0]. -/
def fold4 (x : Nat) : Nat :=
  let g (i : Nat) := bits (x % 2 ^ 26) (4 * i + 3) (4 * i)
  (List.range 7).foldl (fun acc i => Nat.xor acc (g i)) 0

/-- XOR of the 5-bit groups of y[20:0]. -/
def fold5 (y : Nat) : Nat :=
  let g (i : Nat) := bits (y % 2 ^ 21) (5 * i + 4) (5 * i)
  (List.range 5).foldl (fun acc i => Nat.xor acc (g i)) 0

/-- A place in HBM. -/
structure Loc where
  stack : Nat
  pc    : Nat
  bank  : Nat
  row   : Nat
  byte  : Nat
deriving DecidableEq, Repr

/-- The address interleave (R324). -/
def interleave (n a : Nat) : Loc :=
  let l := bits a 39 10
  let x := l / n
  let y := x / 32
  let r := y / 48
  { stack := (l % n + fold4 x) % n, pc := (x % 32 + fold5 y) % 32, bank := (y % 48 + r % 48) % 48, row := r,
    byte := a % 1024 }

/-- Bytes of a band (R325). -/
def bandBytes (d : Dev) : Nat := 1536 * nStacks d * 1024

/-- A pip-aligned region as HBM_PIPRn sets it (R329): first band, bands, span log. -/
structure PipRegion where
  first : Nat
  bands : Nat
  spanLog : Nat
deriving DecidableEq, Repr

/-- Region `n` while it is valid. -/
def pipRegion (d : Dev) (n : Nat) : Option PipRegion :=
  let v := regGet d .hbmPipr [n]
  if bitAt v 63 then some { first := bits v 15 0, bands := bits v 47 32, spanLog := bits v 55 52 } else none

def pipRange (d : Dev) (r : PipRegion) : Nat × Nat := (r.first * bandBytes d, r.bands * bandBytes d)

/-- The mapping of a region (R328), for an offset in it. -/
def pipMap (n : Nat) (r : PipRegion) (o : Nat) : Loc :=
  let m := 2 ^ r.spanLog
  let t := o / (m * 1024)
  let k := t % (1536 * n)
  let u := t / (1536 * n)
  let local_ := u * (m * 1024) + o % (m * 1024)
  { stack := k % n, pc := (k / n) % 32, bank := k / (32 * n), row := r.first + local_ / 1024, byte := o % 1024 }

/-- The valid region that holds an address. -/
def pipRegionOf (d : Dev) (a : Nat) : Option (Nat × PipRegion) :=
  (List.range 16).findSome? fun n => match pipRegion d n with
    | some r => let (b, s) := pipRange d r; if b ≤ a ∧ a < b + s then some (n, r) else none
    | none => none

/-- Where a device-local address lies. -/
def hbmLoc (d : Dev) (a : Nat) : Loc :=
  match pipRegionOf d a with
  | some (_, r) => pipMap (nStacks d) r (a - (pipRange d r).1)
  | none => interleave (nStacks d) a

/-- The number of a bank of the device. -/
def bankNo (l : Loc) : Nat := (l.stack * 32 + l.pc) * 48 + l.bank

/-- The byte number of a place in the array of every stack. -/
def locByte (l : Loc) : Nat := (bankNo l * 49152 + l.row) * 1024 + l.byte

/-- A bank beyond the reserve stores nothing (R551). -/
def isHole (d : Dev) (l : Loc) : Bool := nmem (l.pc * 48 + l.bank) (stackOf d l.stack).holes

/-- Log a hole once (R551). -/
def logHole (d : Dev) (l : Loc) : Dev :=
  let s := stackOf d l.stack
  if s.loggedHole then d
  else logErr { d with stks := tput d.stks l.stack { s with loggedHole := true } } stHbmHole ukStack l.stack 3

/-! ### Undefined contents -/

/-- The undefined range that holds address `a`, by its event number.
DESIGN CHOICE, unsafe (log 7). -/
def undefAt (d : Dev) (a : Nat) : Option Nat :=
  (d.undef.find? fun r => decide (r.1 ≤ a ∧ a < r.2.1)).map fun r => r.2.2

/-- Make a range of device-local memory undefined.
DESIGN CHOICE, safe (log 6).
DESIGN CHOICE, unsafe (log 7).
DEDUCED, unsafe (log 28). -/
def makeUndef (d : Dev) (lo n : Nat) : Dev :=
  if n = 0 then d else
  { d with undef := (lo, lo + n, d.undefCnt) :: d.undef, undefCnt := d.undefCnt + 1 }

/-- Take one 64-bit word out of the undefined ranges. -/
def clearUndef (d : Dev) (a : Nat) : Dev :=
  { d with undef := d.undef.flatMap fun r =>
      if r.1 ≤ a ∧ a < r.2.1 then
        (if r.1 < a then [(r.1, a, r.2.2)] else []) ++ (if a + 8 < r.2.1 then [(a + 8, r.2.1, r.2.2)] else [])
      else [r] }

/-- Free bytes of a word of undefined content.
DESIGN CHOICE, safe (log 6). -/
def freeWord (epoch a : Nat) : DWord :=
  BitVec.ofNat 64 (leNat ((List.range 8).map fun i => Config.freeByte epoch (a + i)))

/-- Twenty-four hours in ticks. -/
abbrev dayTicks : Nat := 172800000000000

/-- A field repair record to append (R541, R542). -/
def repairRecord (d : Dev) (l : List Nat) : Dev :=
  { d with repairq := d.repairq ++ [fitBytes 16 (l.map (BitVec.ofNat 8 ·))] }

/-- An UNCORRECTABLE word of an HBM bank: the fourth in 24 h appends the bank to the field repair log (R551). -/
def hbmUe (d : Dev) (l : Loc) : Dev :=
  let st := stackOf d l.stack
  let b := l.pc * 48 + l.bank
  let ts := (d.tb.now :: (tget [] st.bankUes b).filter fun t => decide (d.tb.now ≤ t + dayTicks)).take 4
  let st' := { st with bankUes := tput st.bankUes b ts }
  if ts.length < 4 || nmem b st.noted then { d with stks := tput d.stks l.stack st' }
  else repairRecord { d with stks := tput d.stks l.stack { st' with noted := nadd b st.noted } }
    [6, 0, l.stack, l.pc, l.bank]

/-! ### Words at an HBM controller (R326, R356) -/

/-- XOR the word smudge of a controller into the codeword just written at `w` (R384). -/
def smudgeHbm (d : Dev) (stack w : Nat) : Dev :=
  let ix := [stack / 2, stack % 2]
  let ctl := regGet d .smudgeCtlHbm ix
  if bitAt ctl 16 then
    let mask : Codeword := BitVec.ofNat 80 (regGet d .smudgeDataHbm ix + (bits ctl 15 0 <<< 64))
    regClearBit { d with hbm := memFlip d.hbm w mask } .smudgeCtlHbm ix 16
  else d

/-- Read the word at 8-byte aligned device-local address `a` at its controller: decode, correct, count and log. -/
def hbmRead (d : Dev) (a : Nat) : Dev × DWord × Bool :=
  let l := hbmLoc d a
  if isHole d l then (logHole d l, 0, true)
  else match undefAt d a with
  | some e => (d, freeWord e a, false)
  | none =>
    let w := locByte l / 8
    let dec := memDecode d.hbm w
    let det := wordDetail (syndromes (memStored d.hbm w)) ((a / 8) % 16)
    match dec with
    | .clean v p => (d, v, p)
    | .corrected v p =>
      let d := { d with hbm := memPutWord d.hbm w v p }
      (logCorrected (regBump (smudgeHbm d l.stack w) .integCe [] 63 32 1) ukStack l.stack a det, v, p)
    | .uncorrectable v =>
      let d := { d with hbm := memPutWord d.hbm w v true }
      (hbmUe (logErr (regBump (smudgeHbm d l.stack w) .integUe [] 63 48 1) stUncorrectable ukStack l.stack 1 a det) l,
       v, true)

/-- Write a whole word past the controller, as a pip unit does: no smudge acts (R384). -/
def hbmPut (d : Dev) (a : Nat) (v : DWord) (poison : Bool) : Dev :=
  let l := hbmLoc d a
  if isHole d l then logHole d l
  else
    let d := clearUndef d a
    { d with hbm := memPutWord d.hbm (locByte l / 8) v poison }

/-- Write the bytes of `mask` of the word at `a` at its controller; a part needs the old word (R298). -/
def hbmWrite (d : Dev) (a : Nat) (v : DWord) (mask : Nat) (poison : Bool) : Dev :=
  let l := hbmLoc d a
  if isHole d l then logHole d l
  else if mask % 256 = 0 then d
  else
    let w := locByte l / 8
    let (d, v, p) :=
      if mask % 256 = 255 then (d, v, poison)
      else let (d, old, q) := hbmRead d a; (d, mergeBytes old v mask, q || poison)
    let d := clearUndef d a
    smudgeHbm { d with hbm := memPutWord d.hbm w v p } l.stack w

/-- The value at `a` as a read would deliver it, without its effects. -/
def hbmPeek (d : Dev) (a : Nat) : DWord × Bool :=
  let l := hbmLoc d a
  if isHole d l then (0, true)
  else match undefAt d a with
  | some e => (freeWord e a, false)
  | none => memVal d.hbm (locByte l / 8)

/-- Bytes at HBM from address `a`, ignoring any cached copy. -/
def hbmWriteBytes (d : Dev) (a : Nat) (bs : List Byte) (poison : Bool) : Dev :=
  (wordsOf a bs.length).foldl (fun d e => hbmWrite d (8 * e.1) (spreadWord a bs e.1) e.2 poison) d

/-- Byte `i` of a word. -/
def byteOf (v : DWord) (i : Nat) : Byte := BitVec.ofNat 8 (v.toNat >>> (8 * i))

/-! ### The stage buffer as a storage unit (R356) -/

/-- Scrub a range of a tile's stage buffer as a read does, counting and logging what it finds: a stage buffer has no
device-local address for the record (R367). -/
def sbScrub (d : Dev) (t a n : Nat) : Dev :=
  (wordsOf a n).foldl (fun d e =>
    let tl := tileOf d t
    match memDecode tl.sb e.1 with
    | .clean _ _ => d
    | .corrected _ _ =>
      let det := wordDetail (syndromes (memStored tl.sb e.1)) (e.1 % 16)
      logCorrected (regBump (putTile d t { tl with sb := memScrub tl.sb e.1 }) .integCe [] 31 0 1) ukTile t 0 det
    | .uncorrectable _ =>
      let det := wordDetail (syndromes (memStored tl.sb e.1)) (e.1 % 16)
      logErr (regBump (putTile d t { tl with sb := memScrub tl.sb e.1 }) .integUe [] 47 32 1) stUncorrectable
        ukTile t 1 0 det) d

/-- Read bytes of a stage buffer: the device after it, the bytes, and whether a word of them is poisoned. -/
def sbRead (d : Dev) (t a n : Nat) : Dev × List Byte × Bool :=
  let r := memRead (tileOf d t).sb a n
  (sbScrub d t a n, r.1, r.2)

/-- An instruction that has begun: a HOLD that loads, or an MMA whose first row has entered (R198). -/
def feeding (e : Easel) (q : EaselOp) : Bool := q.begun && (q.hold || !(e.keeper == .rampUp))

/-- An instruction of the easel that has rows left to read. -/
def readsOn (e : Easel) (q : EaselOp) : Bool := feeding e q && decide (q.rowsRead < q.rows)

/-- How many rows an instruction has read as a store comes between them: its first row at the least, the rest free.
DESIGN CHOICE, safe (log 36). -/
def rowsBy (q : EaselOp) (n : Nat) : Nat := max 1 q.rowsRead + n % (q.rows + 1 - max 1 q.rowsRead)

/-- The easel's reads of rows as a store to the stage buffer comes between them (R178, R188). -/
def passRows (d : Dev) (t : Nat) : Dev :=
  let tl := tileOf d t
  (tl.easel.queue.filter (readsOn tl.easel)).foldl (fun d q =>
    let (n, d) := drawNat d
    modTile d t fun tl => { tl with easel := { tl.easel with
      queue := lmod (fun x => x.id == q.id)
        (fun x => { x with rowsRead := rowsBy x n, snaps := x.snaps ++ [(rowsBy x n, tl.sb)] }) tl.easel.queue } }) d

/-- The stage buffer as row `i` of an instruction finds it. -/
def seenBy (sb : Mem) (q : EaselOp) (i : Nat) : Mem :=
  match q.snaps.find? fun x => decide (i < x.1) with
  | some x => x.2
  | none => sb

/-- Read bytes of a stage buffer as row `i` of an easel instruction. -/
def sbReadRow (d : Dev) (t : Nat) (q : EaselOp) (i a n : Nat) : Dev × List Byte × Bool :=
  let r := memRead (seenBy (tileOf d t).sb q i) a n
  (sbScrub d t a n, r.1, r.2)

/-- Write bytes of a stage buffer. -/
def sbWrite (d : Dev) (t a : Nat) (bs : List Byte) (poison : Bool) : Dev :=
  let d := (wordsOf a bs.length).foldl (fun d e => if e.2 % 256 = 255 then d else sbScrub d t (8 * e.1) 8) d
  let d := passRows d t
  modTile d t fun tl => { tl with sb := memWrite tl.sb a bs poison }

/-- Read `n` bytes of a stage buffer as words with poison marks, for packets and contexts. -/
def sbWords (d : Dev) (t a n : Nat) : Dev × List Byte × List Bool :=
  let m := (tileOf d t).sb
  (sbScrub d t a n, (memRead m a n).1, (wordsOf a n).map fun e => (memVal m e.1).2)

/-- Write words with their poison marks; `a` is a multiple of 8. -/
def sbPutWords (d : Dev) (t a : Nat) (bs : List Byte) (ps : List Bool) : Dev :=
  (List.range (ceilDiv bs.length 8)).foldl (fun d i =>
    sbWrite d t (a + 8 * i) ((bs.drop (8 * i)).take 8) (ps.getD i false)) d

/-! ### Sectors that come to harm on links (R359, R361) -/

/-- The CRC detail of an error log record: link and attempts (R367). -/
def linkDetail (l : LinkId) (attempts : Nat) : Nat :=
  l.kind % 256 + ((l.no % 65536) <<< 8) + ((attempts % 256) <<< 24)

/-- The unit that reports a link.
DESIGN CHOICE, unsafe (log 58). -/
def linkUnit (l : LinkId) : Nat × Nat :=
  if l.kind = 0 then (ukSlice, l.no / 2 % 256)
  else if l.kind = 1 then (ukTile, l.no % 256)
  else if l.kind = 2 then (ukSlice, l.no % 256)
  else if l.kind = 3 then (ukRind, l.no % 8)
  else (ukStem, 0)

/-- Count and log a lost sector or a final failure (R361), naming the link. -/
def logCrcFinal (d : Dev) (l : LinkId) (cls attempts addr : Nat) : Dev :=
  let (k, n) := linkUnit l
  logErr (regBump d .integUe [] 31 16 1) stCrcFinal k n cls addr
    (linkDetail l attempts)

/-- Both vertical ports of the slice below a tile are out of use and its map-out is still to come: every sector between the
tile and the Kreten die is lost (R550).
DESIGN CHOICE, unsafe (log 134). -/
def cutOff (d : Dev) (t : Nat) : Bool :=
  let sl := sliceOf d t
  !sl.out && (tget {} sl.vports 0).out && (tget {} sl.vports 1).out

/-- A sector that a tile without a vertical port loses, and the end of its recovery (R361); the record names port 1.
DESIGN CHOICE, unsafe (log 134). -/
def loseCut (d : Dev) (t cls addr : Nat) : Dev :=
  let l : LinkId := { kind := 0, no := 2 * t + 1 }
  logCrcFinal (logCrcFinal d l 0 4 0) l cls 4 addr

/-- Words of a sector that arrive poisoned at a reader. -/
def lostMask (d : Dev) (who : LostBy) (at_ : Nat) : Nat :=
  (d.lost.filter fun x => x.who == who && x.at_ == at_).foldl (fun m x => Nat.lor m x.mask) 0

/-- The reader has the sector. -/
def takeLost (d : Dev) (who : LostBy) (at_ : Nat) : Dev :=
  { d with lost := d.lost.filter fun x => !(x.who == who && x.at_ == at_) }

/-! ### Format prefixes (R51, R53) -/

/-- The check of a format prefix: format, version; the reserved byte is checked with the other reserved fields. -/
def checkPrefix (fmt : Nat) (p : Nat) : Option Half :=
  if bits p 15 0 ≠ fmt then some stFormat
  else if bits p 23 16 ≠ 1 then some stVersion
  else none

end Sys2Proof.Machine
end

