-- ==== Sys2Proof/Machine/Hue.lean ====
section
/-! DEFINITION. Hues (R387 to R401): regulators, windows, counters and demotion. The hue of the request in hand is
`Dev.hue`, set by whoever makes the request. -/
namespace Sys2Proof.Machine
open Sys2Proof

/-- A regulator (R395). -/
inductive Regulator where
  | tile (t : Nat)
  | slice (s : Nat)
  | hbm (c : Nat)
  | mover (r : Nat)
  | xtx (p : Nat)
  | xrx (p : Nat)
  | host
deriving DecidableEq, Repr

def Regulator.no : Regulator → Nat
  | .tile t => t
  | .slice s => 256 + s
  | .hbm c => 512 + c
  | .mover r => 528 + r
  | .xtx p => 536 + p
  | .xrx p => 600 + p
  | .host => 664

/-- Its HUE_BYTES register for a hue, and its HUE_DEMOTED register (R400, R401). -/
def Regulator.bytesReg (h : Nat) : Regulator → RegId × List Nat
  | .tile t => (.hueBytesTile, [t, h])
  | .slice s => (.hueBytesSlice, [s, h])
  | .hbm c => (.hueBytesHbm, [c / 2, c % 2, h])
  | .mover r => (.hueBytesMover, [r, h])
  | .xtx p => (.hueBytesXtx, [p / 8, p % 8, h])
  | .xrx p => (.hueBytesXrx, [p / 8, p % 8, h])
  | .host => (.hueBytesHost, [h])

def Regulator.demotedReg : Regulator → RegId × List Nat
  | .tile t => (.hueDemotedTile, [t])
  | .slice s => (.hueDemotedSlice, [s])
  | .hbm c => (.hueDemotedHbm, [c / 2, c % 2])
  | .mover r => (.hueDemotedMover, [r])
  | .xtx p => (.hueDemotedXtx, [p / 8, p % 8])
  | .xrx p => (.hueDemotedXrx, [p / 8, p % 8])
  | .host => (.hueDemotedHost, [])

/-- Budget field of a regulator kind in HUE_A (false) or HUE_B (true), by its low bit (R396, R397). -/
def Regulator.field : Regulator → Bool × Nat
  | .tile _ => (false, 48)
  | .slice _ => (false, 32)
  | .hbm _ => (false, 16)
  | .mover _ => (false, 0)
  | .xtx _ => (true, 48)
  | .xrx _ => (true, 32)
  | .host => (true, 16)

/-- HUE_A or HUE_B of a hue as the current window applies it. -/
def hueInForce (d : Dev) (h : Nat) (b : Bool) : Nat :=
  match tfind d.hueForce (2 * h + b.toNat) with
  | some v => v.toNat
  | none => (regDef (if b then .hueB else .hueA)).reset

/-- The budget in bytes of a hue at a regulator; `none` where it has none. -/
def hueBudget (d : Dev) (r : Regulator) (h : Nat) : Option Nat :=
  let (b, lo) := r.field
  let v := bits (hueInForce d h b) (lo + 15) lo
  if v = 0xFFFF then none else some (64 * v)

/-- A new window starts when the time base has passed a multiple of 2,000: counts reset, written budgets apply.
DESIGN CHOICE, unsafe (log 64). -/
def rollWindow (d : Dev) : Dev :=
  let w := d.tb.now / 2000
  if w = d.hueWinNo then d
  else { d with hueWin := [], hueWinNo := w, hueForce := (List.range 16).flatMap fun h =>
      [(2 * h, BitVec.ofNat 64 (regGet d .hueA [h])), (2 * h + 1, BitVec.ofNat 64 (regGet d .hueB [h]))]
      ++ (if h = 15 then [(32, BitVec.ofNat 64 (regGet d .hueSources))] else []) }

def hueCount (d : Dev) (r : Regulator) (h : Nat) : Nat := tget 0 d.hueWin (16 * r.no + h)

/-- A hue is at effective priority 0 at a regulator: its count has reached its budget (R389, R393). -/
def demoted (d : Dev) (r : Regulator) (h : Nat) : Bool := match hueBudget d r h with
  | none => false
  | some b => decide (hueCount d r h ≥ b)

/-- Priority of a hue where no regulator demotes it (R389, R391). -/
def huePriority (d : Dev) (h : Nat) : Nat :=
  let b := hueInForce d h true
  if bitAt b 15 then 8 else bits b 10 8

/-- Effective priority of a hue at a regulator (R389). -/
def effectivePriority (d : Dev) (r : Regulator) (h : Nat) : Nat :=
  if demoted d r h then 0 else huePriority d h

/-- The tie rule (R110): among requesters, each as its index below `n` and its priority, the first of the highest priority
at or after the pointer. -/
def arbitrate (ptr n : Nat) (l : List (Nat × Nat)) : Option Nat :=
  let top := (l.map (·.2)).foldl max 0
  ((sortBy (fun e => (e.1 + n - ptr) % n) (l.filter fun e => e.2 == top)).head?).map (·.1)

/-- Grant `n` bytes to a hue at a regulator (R393, R400): the hues at priority 0 at this decision are noted, then the
counts rise. -/
def hueGrant (d : Dev) (r : Regulator) (hue n : Nat) : Dev :=
  let d := rollWindow d
  let low := (List.range 16).filter (demoted d r)
  let (dr, dx) := r.demotedReg
  let (br, bx) := r.bytesReg hue
  let d := if low.isEmpty then d else low.foldl (fun d h => regSetBit d dr dx h) d
  regBump { d with hueWin := tmod 0 d.hueWin (16 * r.no + hue) (· + n) } br bx 63 0 n

/-- Grant `n` bytes in grants of at most `size` bytes (R393, R395). Between the first and the last of them only the hue's
own count rises, so the hues noted as demoted are those of these two decisions. -/
def hueGrants (d : Dev) (r : Regulator) (hue n size : Nat) : Dev :=
  let k := (n - 1) / size
  if k = 0 then hueGrant d r hue n else hueGrant (hueGrant d r hue (size * k)) r hue (n - size * k)

/-- An access wakes its stack (R504, R505). -/
def touchStack (d : Dev) (s : Nat) : Dev :=
  let x := stackOf d s
  { d with stks := tput d.stks s { x with resting := false, accessAt := d.tb.now } }

/-- A sector access at the HBM controller of an address (R326). -/
def grantHbm (d : Dev) (a n : Nat) : Dev :=
  let s := (hbmLoc d a).stack
  hueGrant (touchStack d s) (.hbm s) d.hue n

/-- A slice-port grant (R292). -/
def grantSlice (d : Dev) (s n : Nat) : Dev := hueGrant d (.slice s) d.hue n

/-- HUE_SOURCES as the current window applies it: a change takes effect at the next window start.
DESIGN CHOICE, unsafe (log 64). -/
def sourcesInForce (d : Dev) : Nat := match tfind d.hueForce 32 with
  | some v => v.toNat
  | none => (regDef .hueSources).reset

/-- The fields of HUE_SOURCES in force (R399). -/
def hostHue (d : Dev) : Nat := bits (sourcesInForce d) 7 0
def coreHue (d : Dev) : Nat := bits (sourcesInForce d) 15 8
def pipHue (d : Dev) : Nat := bits (sourcesInForce d) 23 16

def withHue (d : Dev) (h : Nat) : Dev := { d with hue := h }

end Sys2Proof.Machine
end

