-- ==== Sys2Proof/Machine/Kreten.lean ====
section
/-! DEFINITION. The Kreten cache: homing (R287, R288, R301, R547), the slice's reads, writes, atomics, fills, victims,
write-backs, spent marks and stones (R294 to R313), and the host directory (R314). An access answers `none` while it
waits; it then changes nothing but the snoop it starts. -/
namespace Sys2Proof.Machine
open Sys2Proof

/-! ### Homing -/

/-- f of R287 for a block number. -/
def homeFold (b : Nat) : Nat :=
  Nat.xor (Nat.xor (bits b 7 0) (bits b 15 8)) (Nat.xor (bits b 23 16) (bits b 29 24))

/-- Home slice and home set of a homed address (R287). -/
def homeSlice (a : Nat) : Nat := Nat.xor (bits a 17 10) (homeFold (bits a 47 18))
def homeSet (a : Nat) : Nat := (bits a 47 18 + 128 * homeFold (bits a 47 18)) % 640

/-- The slice that serves slice `s`: itself, or its substitute when it is mapped out (R547). -/
def servingSlice (d : Dev) (s : Nat) : Option Nat :=
  if !(sliceOf d s).out then some s
  else [Nat.xor s 1, Nat.xor s 16, Nat.xor s 17].find? fun x => !(sliceOf d x).out

def inSpan (a lo n : Nat) : Bool := decide (lo ≤ a ∧ a < lo + n)

/-- Two ranges share a byte. -/
def overlaps (a n b m : Nat) : Bool := decide (n ≠ 0 ∧ m ≠ 0 ∧ a < b + m ∧ b < a + n)

/-- Range of a KR_TLR value (R289). -/
def tlrSpan (v : Nat) : Nat × Nat := (bits v 39 20 <<< 20, bits v 60 40 <<< 20)

/-- Valid entries, clearing ones among them (R290). -/
def tlrValid (d : Dev) (n : Nat) : Bool := bitAt (regGet d .krTlr [n]) 63
def tlrSetting (d : Dev) (n : Nat) : Bool := let v := regGet d .krTlr [n]; bitAt v 62 && !bitAt v 63

def tlrHas (d : Dev) (n a : Nat) : Bool := let (b, s) := tlrSpan (regGet d .krTlr [n]); inSpan a b s

/-- A loaded canvas's spill area holds `a` (R78, R288). -/
def inSpill (d : Dev) (a : Nat) : Bool :=
  d.canvases.any fun c => !(c.2.st == .empty || c.2.st == .loading) && inSpan a c.2.spillBase c.2.spillSize

/-- A loading canvas's spill area holds `a`: accesses wait (R441). -/
def inLoadingSpill (d : Dev) (a : Nat) : Bool :=
  d.canvases.any fun c => c.2.st == .loading && inSpan a c.2.spillBase c.2.spillSize

/-- `a` lies in a tile-local region (R288). -/
def isTileLocal (d : Dev) (a : Nat) : Bool :=
  inSpill d a || (List.range 16).any fun n => tlrValid d n && tlrHas d n a

/-- The range of HBM_PIPRn as its fields stand. -/
def piprSpan (d : Dev) (n : Nat) : Nat × Nat :=
  let v := regGet d .hbmPipr [n]
  (bits v 15 0 * bandBytes d, bits v 47 32 * bandBytes d)

/-- `a` lies in a range whose mapping is changing (R330). -/
def inChangingPip (d : Dev) (a : Nat) : Bool :=
  (List.range 16).any fun n =>
    bitAt (regGet d .hbmPipr [n]) 62 && (let (b, s) := piprSpan d n; inSpan a b s)

/-- `a` lies in the range of session `x` (R340). -/
def sessHas (d : Dev) (x : Session) (a : Nat) : Bool :=
  match pipRegion d x.desc.region with
  | none => false
  | some r =>
    let (b, s) := pipRange d r
    inSpan a b s &&
      (let l := pipMap (nStacks d) r (a - b)
       bitAt x.desc.stackMask l.stack && bitAt x.desc.pcs l.pc && bitAt x.desc.banks l.bank &&
         inSpan (l.row - r.first) x.desc.firstRow x.desc.rows)

/-- A session is open over `a`: its R313 actions are done and its completion is not written (R313, R345). -/
def inOpenSession (d : Dev) (a : Nat) : Bool :=
  d.sessions.any fun e => e.2.flushed && !(e.2.st == .queued) && sessHas d e.2 a

/-- Where an access to `a` is performed. -/
inductive Route where
  | wait
  | unserved
  | hbm (slice : Nat)
  | line (slice : Nat) (tileLocal : Bool)
deriving DecidableEq, Repr

def routeTo (d : Dev) (s : Nat) (f : Nat → Route) : Route :=
  match servingSlice d s with
  | some x => f x
  | none => .unserved

/-- Homing of an access by an agent (R287, R288, R290, R313, R330). -/
def route (d : Dev) (ag : Agent) (a : Nat) : Route :=
  if inChangingPip d a || inLoadingSpill d a || (List.range 16).any (fun n => tlrSetting d n && tlrHas d n a) then .wait
  else if isTileLocal d a then
    match ag with
    | .tile t => routeTo d t fun s => .line s true
    | _ => routeTo d (homeSlice a) .hbm
  else if inOpenSession d a then routeTo d (homeSlice a) .hbm
  else routeTo d (homeSlice a) fun s => .line s false

/-! ### Pins (R300 to R302) -/

/-- Slots of `n` starting at set `s0` that lie in `set`. -/
def slotsIn (s0 n set : Nat) : Nat :=
  let k := (set + 640 - s0 % 640) % 640
  if k < n then (n - 1 - k) / 640 + 1 else 0

/-- n = B₁ − B₀ + 1 of a preserve (R301). -/
def preserveSlots (base size : Nat) : Nat := (base + size - 1) / 262144 - base / 262144 + 1

/-- Slots that the preserves put in `set` of every slice. -/
def preservePins (d : Dev) (set : Nat) : Nat :=
  d.preserves.foldl (fun acc e => acc + slotsIn e.2.s0 (preserveSlots e.2.base e.2.size) set) 0

/-- Seat ways of slice `s`: those of the canvas that occupies its tile (R300). -/
def seatPins (d : Dev) (s : Nat) : Nat :=
  match (tileOf d s).canvas with
  | some c => match tfind d.canvases c with
    | some x => x.seatWays
    | none => 0
  | none => 0

/-- Slices that slice `s` serves: its own, and those mapped out whose substitute it is. -/
def servedBy (d : Dev) (s : Nat) : List Nat :=
  (if (sliceOf d s).out then [] else [s]) ++
    ([Nat.xor s 1, Nat.xor s 16, Nat.xor s 17].filter fun x =>
      x < 256 && (sliceOf d x).out && servingSlice d x == some s)

/-- The pin count of a set of a slice; a substitute's includes those of the slice it replaces (R547). -/
def pinCount (d : Dev) (s set : Nat) : Nat :=
  (servedBy d s).foldl (fun acc x => acc + preservePins d set + seatPins d x) 0

/-- The preserve that holds a homed address, with the slot of R301. -/
def preserveOf (d : Dev) (a : Nat) : Option (Nat × Preserve × Nat) :=
  (d.preserves.find? fun e => inSpan a e.2.base e.2.size).map fun e =>
    (e.1, e.2, a / 262144 - e.2.base / 262144)

/-! ### Lines -/

def isTl (k : LineKind) : Bool := match k with
  | .tileLocal => true
  | _ => false

def isPinned (k : LineKind) : Bool := match k with
  | .preserved _ _ => true
  | _ => false

def findLine (sl : Slice) (idx : Nat) (tl : Bool) : Option (Nat × Line) :=
  sl.lines.find? fun e => e.2.idx == idx && isTl e.2.kind == tl

def findFill (sl : Slice) (idx : Nat) (tl : Bool) : Option Fill :=
  sl.fills.find? fun f => f.idx == idx && isTl f.kind == tl

def findWb (sl : Slice) (idx : Nat) (tl : Bool) : Option WbEntry :=
  sl.wbuf.find? fun w => w.line.idx == idx && isTl w.line.kind == tl

def putLine (d : Dev) (s key : Nat) (l : Line) : Dev :=
  modSlice d s fun sl => { sl with lines := tput sl.lines key l }

def delLine (d : Dev) (s key : Nat) : Dev := modSlice d s fun sl => { sl with lines := tdel sl.lines key }

def lineDirty (l : Line) : Bool := l.sects.any fun x => x == .dirty || x == .masked

def sectAt (l : Line) (k : Nat) : Sect := l.sects.getD k .absent
def setSect (l : Line) (k : Nat) (x : Sect) : Line := { l with sects := l.sects.set k x }

/-- Note an access for the recency order (R297). -/
def touchLine (d : Dev) (s key : Nat) : Dev :=
  modSlice d s fun sl => match tfind sl.lines key with
    | some l => { sl with clock := sl.clock + 1, lines := tput sl.lines key { l with lru := sl.clock + 1 } }
    | none => sl

/-- An UNCORRECTABLE word of a slice's array: its bank is bad at the fourth in 24 h (R546), and a third bad bank maps
the slice out (R547). -/
def krUe (d : Dev) (s set : Nat) : Dev :=
  let b := set / 16
  let sl := sliceOf d s
  let ts := (d.tb.now :: (tget [] sl.bankUes b).filter fun t => decide (d.tb.now ≤ t + dayTicks)).take 4
  if ts.length < 4 || nmem b sl.badBanks || nmem b sl.pendBanks then
    putSlice d s { sl with bankUes := tput sl.bankUes b ts }
  else
    let pend := nadd b sl.pendBanks
    let outp := sl.badBanks.length + pend.length ≥ 3
    let d := putSlice d s { sl with bankUes := tdel sl.bankUes b, pendBanks := pend, pendOut := sl.pendOut || outp }
    let d := regSetBit (repairRecord d [3, 0, s % 256, s / 256, b]) .repairStatus [] 63
    if outp && !sl.pendOut then repairRecord d [4, 0, s % 256, s / 256] else d

/-- Apply the word smudge of a slice to the word just written (R384). -/
def smudgeKr (d : Dev) (s key w : Nat) : Dev :=
  let ctl := regGet d .smudgeCtlKr [s]
  if bitAt ctl 16 then
    match tfind (sliceOf d s).lines key with
    | some l =>
      let mask : Codeword := BitVec.ofNat 80 (regGet d .smudgeDataKr [s] + (bits ctl 15 0 <<< 64))
      regClearBit (putLine d s key { l with data := memFlip l.data w mask }) .smudgeCtlKr [s] 16
    | none => d
  else d

/-- Read word `w` of an allocated line from the array (R356). -/
def lineRead (d : Dev) (s key w : Nat) : Dev × DWord × Bool :=
  match tfind (sliceOf d s).lines key with
  | none => (d, 0, false)
  | some l =>
    let a := l.idx * 1024 + 8 * w
    let det := wordDetail (syndromes (memStored l.data w)) (w % 16)
    match memDecode l.data w with
    | .clean v p => (d, v, p)
    | .corrected v p =>
      let d := smudgeKr (putLine d s key { l with data := memPutWord l.data w v p }) s key w
      (logCorrected (regBump d .integCe [] 31 0 1) ukSlice s a det, v, p)
    | .uncorrectable v =>
      let d := smudgeKr (putLine d s key { l with data := memPutWord l.data w v true }) s key w
      (krUe (logErr (regBump d .integUe [] 47 32 1) stUncorrectable ukSlice s 1 a det) s (key / 16), v, true)

/-- Read word `w` of a line in the write-back buffer (R356). -/
def bufferRead (d : Dev) (s idx : Nat) (tl : Bool) (w : Nat) : Dev × DWord × Bool :=
  match findWb (sliceOf d s) idx tl with
  | none => (d, 0, false)
  | some x =>
    let a := idx * 1024 + 8 * w
    let det := wordDetail (syndromes (memStored x.line.data w)) (w % 16)
    let put (d : Dev) (v : DWord) (p : Bool) : Dev := modSlice d s fun sl => { sl with
      wbuf := lmod (fun y => y.line.idx == idx && isTl y.line.kind == tl)
        (fun y => { y with line := { y.line with data := memPutWord y.line.data w v p } }) sl.wbuf }
    match memDecode x.line.data w with
    | .clean v p => (d, v, p)
    | .corrected v p => (logCorrected (regBump (put d v p) .integCe [] 31 0 1) ukSlice s a det, v, p)
    | .uncorrectable v =>
      (logErr (regBump (put d v true) .integUe [] 47 32 1) stUncorrectable ukSlice s 1 a det, v, true)

/-- Bits of a mask of sector `k` that fall in word `w` of the line. -/
def maskOfWord (l : Line) (w : Nat) : Nat := bits (tget 0 l.masks (w / 16)) (8 * (w % 16) + 7) (8 * (w % 16))

/-- Bytes of held writes laid over a word. -/
def overlayWord (ws : List LineWrite) (w : Nat) (v : DWord) (p : Bool) : DWord × Bool :=
  ws.foldl (fun acc x =>
    let here := x.bytes.filter fun b => b.1 / 8 == w
    if here.isEmpty then acc
    else
      let mask := ofBitList (here.map fun b => b.1 % 8)
      let v' := here.foldl (fun (u : Nat) b => putBits u (8 * (b.1 % 8) + 7) (8 * (b.1 % 8)) b.2.toNat) acc.1.toNat
      let px := nmem w x.poison
      (BitVec.ofNat 64 v', if mask = 255 then px else acc.2 || px)) (v, p)

/-- The value of word `w` of a line as its home holds it: the line where the sector is held, HBM with the masked or
held bytes over it elsewhere (R294, R296). -/
def homeWord (d : Dev) (s idx : Nat) (tl : Bool) (w : Nat) : Dev × DWord × Bool :=
  let a := idx * 1024 + 8 * w
  let sl := sliceOf d s
  match findLine sl idx tl with
  | some (key, l) =>
    match sectAt l (w / 16) with
    | .clean => lineRead d s key w
    | .dirty => lineRead d s key w
    | .masked =>
      let m := maskOfWord l w
      if m = 255 then lineRead d s key w
      else
        let (d, hv, hp) := hbmRead d a
        if m = 0 then (d, hv, hp)
        else let (d, v, p) := lineRead d s key w; (d, mergeBytes hv v m, hp || p)
    | .absent =>
      let (d, hv, hp) := hbmRead d a
      match findFill sl idx tl with
      | some f => (d, overlayWord f.writes w hv hp)
      | none => (d, hv, hp)
  | none =>
    match findWb sl idx tl with
    | some wb =>
      let l := wb.line
      let m := match sectAt l (w / 16) with
        | .clean => 255
        | .dirty => 255
        | .masked => maskOfWord l w
        | .absent => 0
      let (d, v, p) := if m = 0 then (d, 0, false) else bufferRead d s idx tl w
      if m = 255 then (d, v, p)
      else let (d, hv, hp) := hbmRead d a; (d, mergeBytes hv v m, hp || (p && m != 0))
    | none => hbmRead d a

/-! ### Write-back and allocation -/

/-- Words of a line with the bytes that a write-back stores: (word, mask). -/
def wbWords (l : Line) : List (Nat × Nat) :=
  (List.range 128).filterMap fun w =>
    match sectAt l (w / 16) with
    | .dirty => some (w, 255)
    | .masked => let m := maskOfWord l w; if m = 0 then none else some (w, m)
    | _ => none

/-- Pin transfer of the write-back of sector `k` (R298): a masked sector is written blind where its mask covers whole words
only. -/
def wbCost (l : Line) (k : Nat) : Nat := match sectAt l k with
  | .dirty => 128
  | .masked => if (List.range 16).any fun i => let m := maskOfWord l (16 * k + i); m != 0 && m != 255 then 256 else 128
  | _ => 0

/-- Write the dirty content of a line to HBM under a hue (R298); words whose array copy is bad go out poisoned. -/
def writeBackUnder (d : Dev) (hue : Nat) (l : Line) : Dev :=
  let h := d.hue
  let d := (List.range 8).foldl (fun d k => if wbCost l k = 0 then d else grantHbm d (l.idx * 1024 + 128 * k) (wbCost l k))
    (withHue d hue)
  withHue ((wbWords l).foldl (fun d e =>
    let (v, p) := memVal l.data e.1
    hbmWrite d (l.idx * 1024 + 8 * e.1) v e.2 p) d) h

/-- A write-back takes the hue of its line (R387). -/
def writeBack (d : Dev) (l : Line) : Dev := writeBackUnder d l.hue l

/-- The slice's own engine reads the dirty sectors of a line out, or writes `n` sectors in (R292). -/
def engineGrant (d : Dev) (s hue n : Nat) : Dev :=
  if n = 0 then d else withHue (grantSlice (withHue d hue) s (128 * n)) d.hue

def dirtySectors (l : Line) : Nat := (l.sects.filter fun x => x == .dirty || x == .masked).length

/-- Decode every held word of a line once, as the copy to the write-back buffer reads it. -/
def scrubLine (d : Dev) (s key : Nat) : Dev :=
  match tfind (sliceOf d s).lines key with
  | none => d
  | some l => (l.data.errs.map (·.1)).foldl (fun d w => (lineRead d s key w).1) d

/-- Decode every held word of a buffered line once, as its write-back reads it (R356). -/
def scrubBuffer (d : Dev) (s idx : Nat) (tl : Bool) : Dev :=
  match findWb (sliceOf d s) idx tl with
  | none => d
  | some x => (x.line.data.errs.map (·.1)).foldl (fun d w => (bufferRead d s idx tl w).1) d

/-- Ways of a set that hold no pinned slot: pinned slots take the ways from way 15 down (R300). -/
def unpinnedWays (d : Dev) (s set : Nat) : List Nat := List.range (16 - pinCount d s set)

def pinnedWays (d : Dev) (s set : Nat) : List Nat :=
  let n := 16 - pinCount d s set
  (List.range (16 - n)).map (n + ·)

/-- Whether a way holds a line whose fill is open. -/
def fillingKey (sl : Slice) (key : Nat) : Bool := sl.fills.any fun f => f.key == key

/-- Free way `key` of its occupant: a clean line is dropped, a dirty one goes to the write-back buffer (R297). `none`
while the buffer is full. -/
def evictKey (d : Dev) (s key : Nat) : Option Dev :=
  match tfind (sliceOf d s).lines key with
  | none => some d
  | some l =>
    if lineDirty l then
      if (sliceOf d s).wbuf.length ≥ 16 then none
      else
        let d := engineGrant (scrubLine d s key) s l.hue (dirtySectors l)
        let l := tget l (sliceOf d s).lines key
        some (modSlice d s fun sl =>
          { sl with lines := tdel sl.lines key, wbuf := sl.wbuf ++ [{ line := l, begun := false }] })
    else some (delLine d s key)

/-- The way an allocation takes: the lowest invalid unpinned way, else the least recently accessed one that is not
filling (R297). -/
def victimKey (d : Dev) (s set : Nat) : Option Nat :=
  let sl := sliceOf d s
  let ks := (unpinnedWays d s set).map fun w => 16 * set + w
  match ks.find? fun k => (tfind sl.lines k).isNone && !fillingKey sl k with
  | some k => some k
  | none =>
    ((sortBy (fun e => e.2) (ks.filterMap fun k => match tfind sl.lines k with
      | some l => if fillingKey sl k then none else some (k, l.lru)
      | none => none)).head?).map (·.1)

/-- Set, kind and way for a line that is not present: a preserved line takes a pinned way of its slot's set (R301).
Answers the device with the way free. -/
def allocWay (d : Dev) (s a : Nat) (tl : Bool) : Option (Dev × Nat × LineKind) :=
  if tl then
    (victimKey d s (bits a 47 10 % 640)).bind fun k => (evictKey d s k).map fun d => (d, k, .tileLocal)
  else match preserveOf d a with
    | some (id, p, slot) =>
      let set := (p.s0 + slot) % 640
      let sl := sliceOf d s
      match (pinnedWays d s set).reverse.find? fun w => !fillingKey sl (16 * set + w) &&
          match tfind sl.lines (16 * set + w) with
          | some l => !isPinned l.kind
          | none => true with
      | some w => (evictKey d s (16 * set + w)).map fun d => (d, 16 * set + w, .preserved id slot)
      | none => none
    | none =>
      (victimKey d s (homeSet a)).bind fun k => (evictKey d s k).map fun d => (d, k, .homed)

def newLine (idx : Nat) (k : LineKind) (lru hue : Nat) : Line :=
  { idx := idx, kind := k, sects := List.replicate 8 .absent, masks := [], data := {}, lru := lru, hue := hue }

/-- Allocate the way of a line that is not present; `none` while it must wait. -/
def allocLine (d : Dev) (s a : Nat) (tl : Bool) : Option (Dev × Nat) :=
  (allocWay d s a tl).map fun (d, key, kind) =>
    let c := (sliceOf d s).clock + 1
    (modSlice d s fun sl => { sl with clock := c, lines := tput sl.lines key (newLine (a / 1024) kind c d.hue) }, key)

/-! ### Counting (R307, R319) -/

/-- The access is to a pinned line, present or not. -/
def pinnedHere (d : Dev) (s idx : Nat) (tl : Bool) : Bool := match findLine (sliceOf d s) idx tl with
  | some (_, l) => isPinned l.kind
  | none => !tl && (preserveOf d (1024 * idx)).isSome

/-- Count an access of slice `s` as a hit or a miss, and in the thrash window when its line is unpinned.
DESIGN CHOICE, unsafe (log 22). -/
def countAcc (d : Dev) (s : Nat) (hit pinned : Bool) : Dev :=
  let d := if hit then regBump d .krSliceAcc [s] 63 32 1 else regBump d .krSliceAcc [s] 31 0 1
  if pinned then d
  else modSlice d s fun sl => { sl with winAcc := sl.winAcc + 1, winHits := sl.winHits + hit.toNat }

/-! ### Stones and spent marks (R309 to R312) -/

/-- Enter a stone; a 65th makes the oldest age out (R310). -/
def addStone (d : Dev) (s idx : Nat) : Dev :=
  let sl := sliceOf d s
  if nmem idx sl.stones then d
  else
    let st := sl.stones ++ [idx]
    let d := regBump d .krSliceSpent [s] 31 16 1
    if st.length > 64 then regBump (putSlice d s { sl with stones := st.drop 1 }) .krSliceSpent [s] 47 32 1
    else putSlice d s { sl with stones := st }

/-- Whether the HBM write of a buffer entry has begun: once it has, it stays so. The spec gives no time for the
beginning, so it is a free value.
DESIGN CHOICE, unsafe (log 22). -/
def wbBegun (d : Dev) (s idx : Nat) (tl : Bool) : Bool × Dev :=
  match findWb (sliceOf d s) idx tl with
  | some w =>
    if w.begun then (true, d)
    else
      let (b, d) := drawBool d
      (b, modSlice d s fun sl => { sl with
        wbuf := lmod (fun x => x.line.idx == idx && isTl x.line.kind == tl) (fun x => { x with begun := b }) sl.wbuf })
  | none => (false, d)

def dropWb (d : Dev) (s idx : Nat) (tl : Bool) : Dev :=
  modSlice d s fun sl => { sl with wbuf := sl.wbuf.filter fun x => !(x.line.idx == idx && isTl x.line.kind == tl) }

/-- A spent mark takes effect at the home slice (R309). -/
def spend (d : Dev) (s idx : Nat) (tl : Bool) : Dev :=
  let sl := sliceOf d s
  match findLine sl idx tl with
  | some (key, l) =>
    if isPinned l.kind then regBump d .krSliceSpent [s] 15 0 1
    else if (findFill sl idx tl).isSome then
      modSlice d s fun sl => { sl with
        fills := lmod (fun f => f.idx == idx && isTl f.kind == tl) (fun f => { f with spent := true }) sl.fills }
    else if lineDirty l then addStone (delLine d s key) s idx
    else delLine d s key
  | none =>
    match findWb sl idx tl with
    | some _ =>
      let (b, d) := wbBegun d s idx tl
      if b then d else addStone (dropWb d s idx tl) s idx
    | none => d

/-- A read meets a stone (R311): counted, logged, zero words poisoned. -/
def rereadStone (d : Dev) (s idx : Nat) : Dev :=
  logErr (regBump (countAcc d s false (pinnedHere d s idx false)) .krSliceSpent [s] 63 48 1) stSpentReread ukSlice s 1
    (idx * 1024)

/-! ### The host directory (R314) -/

def dirFind (sl : Slice) (idx : Nat) : Option DirEnt := sl.dir.find? fun e => e.idx == idx

def dirDel (d : Dev) (s idx : Nat) : Dev := modSlice d s fun sl => { sl with dir := sl.dir.filter fun e => !(e.idx == idx) }

/-- Issue a snoop unless one that does as much is outstanding. -/
def startSnoop (d : Dev) (s idx : Nat) (inv : Bool) : Dev :=
  let sl := sliceOf d s
  if sl.snoops.any fun x => x.idx == idx && (x.inv || !inv) then d
  else emit (putSlice d s { sl with snoops := sl.snoops ++ [{ idx := idx, inv := inv }] }) (.bisnp s idx inv)

/-- What a device access must wait for at the host directory: `none` when it may proceed. -/
def snoopNeeded (d : Dev) (s idx : Nat) (write : Bool) : Option Bool :=
  match dirFind (sliceOf d s) idx with
  | none => none
  | some e => if write then some true else if e.any then some false else none

/-! ### Reads -/

/-- Words of a range read one after another from their home. -/
def homeWords (d : Dev) (s : Nat) (tl : Bool) (a n : Nat) : Dev × List (DWord × Bool) :=
  (wordsOf a n).foldl (fun acc e =>
    let (d, v, p) := homeWord acc.1 s (8 * e.1 / 1024) tl (e.1 % 128)
    (d, acc.2 ++ [(v, p)])) (d, [])

/-- Words of a range read at HBM. -/
def hbmWords (d : Dev) (a n : Nat) : Dev × List (DWord × Bool) :=
  (wordsOf a n).foldl (fun acc e =>
    let (d, v, p) := hbmRead acc.1 (8 * e.1)
    (d, acc.2 ++ [(v, p)])) (d, [])

def poisonWords (a n : Nat) : List (DWord × Bool) := (wordsOf a n).map fun _ => (0, true)

/-- Merge a masked sector with HBM; it becomes DIRTY (R294). -/
def mergeMasked (d : Dev) (s key k : Nat) : Dev :=
  match tfind (sliceOf d s).lines key with
  | none => d
  | some l =>
    if sectAt l k ≠ .masked then d
    else
      let d := grantHbm d (l.idx * 1024 + 128 * k) 128
      let d := (List.range 16).foldl (fun d i =>
        let w := 16 * k + i
        match tfind (sliceOf d s).lines key with
        | none => d
        | some l =>
          if maskOfWord l w = 255 then d
          else
            let (d, v, p) := homeWord d s l.idx (isTl l.kind) w
            match tfind (sliceOf d s).lines key with
            | none => d
            | some l => putLine d s key { l with data := memPutWord l.data w v p }) d
      match tfind (sliceOf d s).lines key with
      | none => d
      | some l => smudgeKr (putLine d s key { setSect l k .dirty with masks := tdel l.masks k }) s key (16 * k)

/-- Open a fill for a line that has a way (R294). -/
def openFill (d : Dev) (s idx key : Nat) (kind : LineKind) : Dev :=
  let f : Fill := { idx := idx, kind := kind, key := key, reqs := 1, writes := [], spent := false, hue := d.hue }
  modSlice d s fun sl => { sl with fills := sl.fills ++ [f] }

/-- Prepare the read of one sector of a line at its slice (R294, R296): allocates, opens or joins a fill, merges a
masked sector, and counts. `none` while the read waits. -/
def prepareRead (d : Dev) (s a : Nat) (tl spent : Bool) : Option Dev :=
  let idx := a / 1024
  let k := (a % 1024) / 128
  let sl := sliceOf d s
  match findLine sl idx tl with
  | some (key, l) =>
    let pin := isPinned l.kind
    match sectAt l k with
    | .clean => some (countAcc (touchLine d s key) s true pin)
    | .dirty => some (countAcc (touchLine d s key) s true pin)
    | .masked => some (countAcc (mergeMasked (touchLine d s key) s key k) s false pin)
    | .absent =>
      match findFill sl idx tl with
      | some f =>
        if f.reqs ≥ 32 then none
        else some (countAcc (modSlice (touchLine d s key) s fun sl => { sl with
          fills := lmod (fun x => x.idx == idx && isTl x.kind == tl) (fun x => { x with reqs := x.reqs + 1 }) sl.fills })
          s false pin)
      | none =>
        if sl.fills.length ≥ 64 then none
        else some (countAcc (openFill (touchLine d s key) s idx key l.kind) s false pin)
  | none =>
    match findWb sl idx tl with
    | some w =>
      let pin := pinnedHere d s idx tl
      match sectAt w.line k with
      | .absent => some (countAcc (grantHbm d a 128) s false pin)
      | .masked => some (countAcc (grantHbm d a 128) s false pin)
      | _ => some (countAcc d s true pin)
    | none =>
    if spent then some (countAcc (grantHbm d a 128) s false (pinnedHere d s idx tl))
    else if sl.fills.length ≥ 64 then none
    else (allocLine d s a tl).map fun (d, key) =>
      let kind := match tfind (sliceOf d s).lines key with
        | some l => l.kind
        | none => .homed
      countAcc (openFill d s idx key kind) s false (isPinned kind)

/-- The part that one sector plays in an access: whether the access carries a spent mark, and whether the sector is the
first and the last that it reads of its line. A stone is met once and a mark takes effect once, after the data is read. -/
structure ReadPart where
  spent : Bool
  first : Bool := true
  last  : Bool := true
deriving DecidableEq, Repr

/-- A read of bytes of one sector by a device agent: its words, or `none` while it waits. -/
def sectorReadAt (d : Dev) (ag : Agent) (a n : Nat) (q : ReadPart) : Dev × Option (List (DWord × Bool)) :=
  match route d ag a with
  | .wait => (d, none)
  | .unserved => (d, some (poisonWords a n))
  | .hbm s =>
    match snoopNeeded d s (a / 1024) false with
    | some inv => (startSnoop d s (a / 1024) inv, none)
    | none =>
      let (d, ws) := hbmWords (grantHbm (grantSlice (countAcc d s false false) s n) a 128) a n
      (d, some ws)
  | .line s tl =>
    let idx := a / 1024
    match if tl then none else snoopNeeded d s idx q.spent with
    | some inv => (startSnoop d s idx inv, none)
    | none =>
      if nmem idx (sliceOf d s).stones then
        let d := grantSlice d s n
        (if q.first then rereadStone d s idx else d, some (poisonWords a n))
      else match prepareRead d s a tl q.spent with
        | none => (d, none)
        | some d =>
          let (d, ws) := homeWords (grantSlice d s n) s tl a n
          (if q.spent && q.last then spend d s idx tl else d, some ws)

/-- A read of bytes of one sector by a device agent; words that a link has lost for good arrive poisoned (R361). -/
def sectorRead (d : Dev) (ag : Agent) (a n : Nat) (q : ReadPart) : Dev × Option (List (DWord × Bool)) :=
  let r := sectorReadAt d ag a n q
  match r.2 with
  | some ws =>
    let m := lostMask r.1 (.agent ag) (a / 128 * 128)
    if m = 0 then r
    else (takeLost r.1 (.agent ag) (a / 128 * 128), some (ws.mapIdx fun i w => (w.1, w.2 || bitAt m (a % 128 / 8 + i))))
  | none => r

/-- The pieces of a range that lie in one sector each: (address, length). -/
def sectorPieces (a n : Nat) : List (Nat × Nat) :=
  if n = 0 then [] else
    (List.range ((a + n - 1) / 128 - a / 128 + 1)).map fun i =>
      let lo := max a ((a / 128 + i) * 128)
      let hi := min (a + n) ((a / 128 + i + 1) * 128)
      (lo, hi - lo)

/-- A read of any range by a device agent; `none` while any sector of it waits.
DESIGN CHOICE, unsafe (log 22). -/
def devReadWords (d : Dev) (ag : Agent) (a n : Nat) (spent : Bool) : Dev × Option (List (DWord × Bool)) :=
  (sectorPieces a n).foldl (fun acc p =>
    match acc.2 with
    | none => acc
    | some ws =>
      let e := p.1 + p.2
      let (d', r) := sectorRead acc.1 ag p.1 p.2 { spent := spent, first := p.1 == a || p.1 % 1024 == 0,
                                                   last := e == a + n || e % 1024 == 0 }
      (d', r.map (ws ++ ·))) (d, some [])

/-- Bytes `a` to `a + n − 1` of words that begin at the word of `a`. -/
def wordsBytes (a n : Nat) (ws : List (DWord × Bool)) : List Byte :=
  ((ws.flatMap fun w => leBytes 8 w.1.toNat).drop (a % 8)).take n

/-- A read as bytes with one poison mark. -/
def devRead (d : Dev) (ag : Agent) (a n : Nat) (spent : Bool := false) : Dev × Option (List Byte × Bool) :=
  let (d, r) := devReadWords d ag a n spent
  (d, r.map fun ws => (wordsBytes a n ws, ws.any (·.2)))

/-! ### Writes -/

/-- Bits [hi:lo] mask of a sector for bytes `off` to `off + n − 1` of it. -/
def spanMask (off n : Nat) : Nat := (2 ^ n - 1) <<< off

/-- Poison the word of a line whose bytes partial writes have come to hold all of, where its home in HBM is poisoned: each
of these writes left a byte unwritten (R173). The home is not fetched (R295).
DEDUCED, unsafe (log 123). -/
def keepMark (d : Dev) (l : Line) (old : Nat → Nat) (m : Mem) (e : Nat × Nat) : Mem :=
  if e.2 % 256 = 255 || old e.1 = 255 || Nat.lor (old e.1) e.2 ≠ 255 then m
  else if (hbmPeek d (l.idx * 1024 + 8 * e.1)).2 then memSetPoison m e.1 true else m

/-- Apply a write to one sector of an allocated line (R295). -/
def applyWrite (d : Dev) (s key a : Nat) (bs : List Byte) (poison : Bool) : Dev :=
  match tfind (sliceOf d s).lines key with
  | none => d
  | some l =>
    let k := (a % 1024) / 128
    let m := spanMask (a % 128) bs.length
    let st := sectAt l k
    let d := match st with
      | .absent => d
      | _ => (wordsOf (a % 1024) bs.length).foldl (fun d e => if e.2 = 255 then d else (lineRead d s key e.1).1) d
    let l := tget l (sliceOf d s).lines key
    let base := match st with
      | .absent => memClear l.data (128 * k) 128
      | _ => l.data
    let old (w : Nat) : Nat := match st with
      | .absent => 0
      | .masked => maskOfWord l w
      | _ => 255
    let data := (wordsOf (a % 1024) bs.length).foldl (keepMark d l old) (memWrite base (a % 1024) bs poison)
    let m' := match st with
      | .masked => Nat.lor (tget 0 l.masks k) m
      | .absent => m
      | _ => 2 ^ 128 - 1
    let l := { l with data := data }
    let l := if m' = 2 ^ 128 - 1 then { setSect l k .dirty with masks := tdel l.masks k }
      else { setSect l k .masked with masks := tput l.masks k m' }
    smudgeKr (putLine d s key l) s key ((a % 1024) / 8)

/-- A write to a stoned line: every sector DIRTY, bytes not named zero, partly covered words poisoned (R312). -/
def writeStone (d : Dev) (s key a : Nat) (bs : List Byte) (poison : Bool) : Dev :=
  match tfind (sliceOf d s).lines key with
  | none => d
  | some l =>
    let blank : Mem := { poison := List.range 128 }
    let data := memWrite blank (a % 1024) bs poison
    let l := { l with sects := List.replicate 8 .dirty, masks := [], data := data }
    let d := modSlice d s fun sl => { sl with stones := sl.stones.filter fun i => !(i == l.idx) }
    smudgeKr (putLine d s key l) s key ((a % 1024) / 8)

/-- The first word of a line that the slice holds: the first that a copy of the line writes to an array (R384). -/
def firstHeld (l : Line) : Nat :=
  16 * (((List.range 8).find? fun k => sectAt l k != .absent).getD 0)

/-- Bring a line back from the write-back buffer for a write (R297): dirty as it stood; `none` while no way is free. -/
def reallocWb (d : Dev) (s a : Nat) (tl : Bool) : Option (Dev × Nat) :=
  let idx := a / 1024
  match findWb (sliceOf d s) idx tl with
  | none => none
  | some w =>
    let (b, d) := wbBegun d s idx tl
    let d := scrubBuffer d s idx tl
    let line := ((findWb (sliceOf d s) idx tl).map (·.line)).getD w.line
    let d := dropWb (if b then writeBack d line else d) s idx tl
    (allocLine d s a tl).map fun (d, key) =>
      (smudgeKr (modSlice d s fun sl => match tfind sl.lines key with
        | some l => { sl with lines := tput sl.lines key { line with kind := l.kind, lru := l.lru } }
        | none => sl) s key (firstHeld line), key)

/-- Write bytes of one sector at its home slice, past the directory check (R295 to R297, R312); `none` while it
waits. -/
def homeWrite (d : Dev) (s a : Nat) (tl : Bool) (bs : List Byte) (poison : Bool) : Option Dev :=
  let idx := a / 1024
  let sl := sliceOf d s
  if nmem idx sl.stones then
    (allocLine d s a tl).map fun (d, key) =>
      countAcc (writeStone d s key a bs poison) s true (pinnedHere d s idx tl)
  else match findLine sl idx tl with
  | some (key, l) =>
    let d := countAcc (touchLine d s key) s true (isPinned l.kind)
    match findFill sl idx tl, sectAt l ((a % 1024) / 128) with
    | some _, .absent =>
      let w : LineWrite := { bytes := bs.mapIdx fun i b => (a % 1024 + i, b),
                             poison := if poison then (wordsOf (a % 1024) bs.length).map (·.1) else [] }
      some (modSlice d s fun sl => { sl with
        fills := lmod (fun f => f.idx == idx && isTl f.kind == tl) (fun f => { f with writes := f.writes ++ [w] })
          sl.fills })
    | _, _ => some (applyWrite d s key a bs poison)
  | none =>
    let r := if (findWb sl idx tl).isSome then reallocWb d s a tl else allocLine d s a tl
    r.map fun (d, key) =>
      let pin := match tfind (sliceOf d s).lines key with
        | some l => isPinned l.kind
        | none => false
      countAcc (applyWrite d s key a bs poison) s true pin

/-- A write to a word takes the reservations on it (R162).
PRESUMED, unsafe (log 19). -/
def breakResv (d : Dev) (a n : Nat) : Dev :=
  { d with resv := d.resv.filter fun e => !overlaps (e.2.1 / 8 * 8) 8 a n }

/-- A write of bytes of one sector at its home: the device after it, and whether it was performed. -/
def sectorWriteAt (d : Dev) (ag : Agent) (a : Nat) (bs : List Byte) (poison : Bool) : Dev × Bool :=
  match route d ag a with
  | .wait => (d, false)
  | .unserved => (d, true)
  | .hbm s =>
    match snoopNeeded d s (a / 1024) true with
    | some inv => (startSnoop d s (a / 1024) inv, false)
    | none =>
      let d := grantHbm (grantSlice (countAcc d s false false) s bs.length) a (if bs.length = 128 then 128 else 256)
      (hbmWriteBytes d a bs poison, true)
  | .line s tl =>
    match if tl then none else snoopNeeded d s (a / 1024) true with
    | some inv => (startSnoop d s (a / 1024) inv, false)
    | none => match homeWrite d s a tl bs poison with
      | some d => (grantSlice d s bs.length, true)
      | none => (d, false)

/-- A write of bytes of one sector by a device agent. -/
def sectorWrite (d : Dev) (ag : Agent) (a : Nat) (bs : List Byte) (poison : Bool) : Dev × Bool :=
  let r := sectorWriteAt d ag a bs poison
  if r.2 then (breakResv r.1 a bs.length, true) else r

/-- A write of any range by a device agent: all of it, or nothing but snoops while some sector waits. -/
def devWrite (d : Dev) (ag : Agent) (a : Nat) (bs : List Byte) (poison : Bool := false) : Dev × Bool :=
  let ps := sectorPieces a bs.length
  let r := ps.foldl (fun (acc : Dev × Bool) p =>
    if acc.2 then sectorWrite acc.1 ag p.1 ((bs.drop (p.1 - a)).take p.2) poison else acc) (d, true)
  if r.2 then r
  else
    (ps.foldl (fun d p => match route d ag p.1 with
      | .line s false => match snoopNeeded d s (p.1 / 1024) true with
        | some inv => startSnoop d s (p.1 / 1024) inv
        | none => d
      | .hbm s => match snoopNeeded d s (p.1 / 1024) true with
        | some inv => startSnoop d s (p.1 / 1024) inv
        | none => d
      | _ => d) d, false)

/-! ### Atomics (R161, R173, R295) -/

/-- The slice holds every byte of the word at `a` in a masked sector. -/
def wholeWord (sl : Slice) (idx : Nat) (tl : Bool) (a : Nat) : Bool := match findLine sl idx tl with
  | some (_, l) => sectAt l ((a % 1024) / 128) == Sect.masked && maskOfWord l ((a % 1024) / 8) == 255
  | none => false

/-- An atomic on `n` bytes within one word: the function gives the new value from the old. Answers the old value and
its poison mark; a poisoned word is left unchanged. -/
def devAtomicAt (d : Dev) (ag : Agent) (a n : Nat) (f : Nat → Nat) (spent : Bool) : Dev × Option (Nat × Bool) :=
  let old (v : DWord) : Nat := bits v.toNat (8 * (a % 8) + 8 * n - 1) (8 * (a % 8))
  match route d ag a with
  | .wait => (d, none)
  | .unserved => (d, some (0, true))
  | .hbm s =>
    match snoopNeeded d s (a / 1024) true with
    | some inv => (startSnoop d s (a / 1024) inv, none)
    | none =>
      let d := grantHbm (grantSlice (countAcc d s false false) s n) a 256
      let (d, v, p) := hbmRead d (a / 8 * 8)
      (if p then d else hbmWriteBytes d a (leBytes n (f (old v))) false, some (old v, p))
  | .line s tl =>
    let idx := a / 1024
    match if tl then none else snoopNeeded d s idx true with
    | some inv => (startSnoop d s idx inv, none)
    | none =>
      if nmem idx (sliceOf d s).stones then (rereadStone d s idx, some (0, true))
      else
        let back := if (findWb (sliceOf d s) idx tl).isSome then (reallocWb d s a tl).map fun (x : Dev × Nat) => x.1 else some d
        let r := back.bind fun d =>
          if wholeWord (sliceOf d s) idx tl a then some (countAcc d s true (pinnedHere d s idx tl))
          else prepareRead d s a tl false
        match r with
        | none => (d, none)
        | some d1 =>
          let (d1, v, p) := homeWord (grantSlice d1 s n) s idx tl ((a % 1024) / 8)
          if p then (if spent then spend d1 s idx tl else d1, some (old v, true))
          else
            let n0 := regGet d1 .krSliceAcc [s]
            match homeWrite d1 s a tl (leBytes n (f (old v))) false with
            | none => (d, none)
            | some d2 =>
              let d2 := modSlice (regPut d2 .krSliceAcc [s] n0) s fun sl =>
                { sl with winAcc := (sliceOf d1 s).winAcc, winHits := (sliceOf d1 s).winHits }
              (if spent then spend d2 s idx tl else d2, some (old v, false))

/-- An atomic by a device agent: a reservation on the word goes when it writes. -/
def devAtomic (d : Dev) (ag : Agent) (a n : Nat) (f : Nat → Nat) (spent : Bool) : Dev × Option (Nat × Bool) :=
  let r := devAtomicAt d ag a n f spent
  match r.2 with
  | some (_, false) => (breakResv r.1 a n, r.2)
  | _ => r

/-! ### Fills, flushes -/

/-- The words that a held write touches. -/
def heldWords (x : LineWrite) : List Nat := x.bytes.foldl (fun acc b => nadd (b.1 / 8) acc) []

/-- A fill lands (R296): ABSENT sectors become CLEAN from HBM, then held writes apply in arrival order, then a spent
mark takes effect. -/
def landFill (d : Dev) (s : Nat) (f : Fill) : Dev :=
  let tl := isTl f.kind
  match tfind (sliceOf d s).lines f.key with
  | none => modSlice d s fun sl => { sl with fills := sl.fills.filter fun x => !(x.idx == f.idx && isTl x.kind == tl) }
  | some l =>
    let absent := (List.range 8).filter fun k => sectAt l k == .absent
    let h0 := d.hue
    let d := absent.foldl (fun d k => grantHbm d (f.idx * 1024 + 128 * k) 128) (withHue d f.hue)
    let d := withHue (engineGrant d s f.hue absent.length) h0
    let (d, l) := absent.foldl (fun (acc : Dev × Line) k =>
      let m := lostMask acc.1 (.fill s) (f.idx * 1024 + 128 * k)
      (List.range 16).foldl (fun (acc : Dev × Line) i =>
        let w := 16 * k + i
        let (d, v, p) := hbmRead acc.1 (f.idx * 1024 + 8 * w)
        (d, { acc.2 with data := memPutWord acc.2.data w v (p || bitAt m i) }))
        (takeLost acc.1 (.fill s) (f.idx * 1024 + 128 * k), setSect acc.2 k .clean)) (d, l)
    let d := putLine d s f.key l
    let d := match absent with
      | k :: _ => smudgeKr d s f.key (16 * k)
      | [] => d
    let d := modSlice d s fun sl => { sl with fills := sl.fills.filter fun x => !(x.idx == f.idx && isTl x.kind == tl) }
    let d := f.writes.foldl (fun d x => heldWords x |>.foldl (fun d w =>
      let (d, v, p) := lineRead d s f.key w
      match tfind (sliceOf d s).lines f.key with
      | none => d
      | some l =>
        let (v, p) := overlayWord [x] w v p
        smudgeKr (putLine d s f.key { setSect l (w / 16) .dirty with data := memPutWord l.data w v p }) s f.key w) d) d
    if f.spent then spend d s f.idx tl else d

/-- The open fill of a way lands now: the spec sets no time for it (R296). -/
def landKey (d : Dev) (s key : Nat) : Dev := match (sliceOf d s).fills.find? fun f => f.key == key with
  | some f => landFill d s f
  | none => d

/-- Evict at once, past the buffer: an open fill lands, with the writes that it holds, and a dirty line is written back,
under the line's hue or `hue`. -/
def evictNow (d : Dev) (s key : Nat) (hue : Option Nat := none) : Dev :=
  let d := scrubLine (landKey d s key) s key
  match tfind (sliceOf d s).lines key with
  | some l => writeBackUnder (delLine (engineGrant d s (hue.getD l.hue) (dirtySectors l)) s key) (hue.getD l.hue) l
  | none => d

/-- The HBM write of a buffer entry completes and its entry frees (R299). -/
def finishWb (d : Dev) (s idx : Nat) (tl : Bool) (hue : Option Nat := none) : Dev :=
  let d := scrubBuffer d s idx tl
  match findWb (sliceOf d s) idx tl with
  | some w => dropWb (writeBackUnder d (hue.getD w.line.hue) w.line) s idx tl
  | none => d

/-- Write back and invalidate what one slice holds of the lines that `p` names: fills land first, buffer entries are
written, dirty lines are written back, every line goes (R290, R313). The write-backs take the hue of their lines, or
`hue` (R387). -/
def flushSlice (d : Dev) (s : Nat) (p : Nat → LineKind → Bool) (hue : Option Nat := none) : Dev :=
  let d := ((sliceOf d s).fills.filter fun f => p f.idx f.kind).foldl (fun d f => landFill d s f) d
  let d := ((sliceOf d s).wbuf.filter fun w => p w.line.idx w.line.kind).foldl
    (fun d w => finishWb d s w.line.idx (isTl w.line.kind) hue) d
  ((sliceOf d s).lines.filter fun e => p e.2.idx e.2.kind).foldl (fun d e => evictNow d s e.1 hue) d

/-- Every slice that holds anything does so. -/
def flushAll (d : Dev) (p : Nat → LineKind → Bool) (hue : Option Nat := none) : Dev :=
  (d.slices.map (·.1)).foldl (fun d s => flushSlice d s p hue) d

/-- Drop lines without write-back (R75, R288). -/
def invalidateAll (d : Dev) (p : Nat → LineKind → Bool) : Dev :=
  { d with slices := tmap (fun _ sl => { sl with
      lines := sl.lines.filter (fun e => !p e.2.idx e.2.kind),
      fills := sl.fills.filter (fun f => !p f.idx f.kind),
      wbuf := sl.wbuf.filter (fun w => !p w.line.idx w.line.kind) }) d.slices }

/-- The stones that `p` names are written to HBM as poisoned zero words and removed (R313). -/
def flushStones (d : Dev) (p : Nat → Bool) : Dev :=
  (d.slices.map (·.1)).foldl (fun d s =>
    let st := (sliceOf d s).stones.filter p
    let d := st.foldl (fun d i => (List.range 8).foldl (fun d k => grantHbm d (i * 1024 + 128 * k) 128) d) d
    let d := st.foldl (fun d i => (List.range 128).foldl (fun d w => hbmWrite d (i * 1024 + 8 * w) 0 255 true) d) d
    modSlice d s fun sl => { sl with stones := sl.stones.filter fun i => !p i }) d

/-- Any line of a range recorded in a host directory. -/
def hostHolds (d : Dev) (p : Nat → Bool) : Bool := d.slices.any fun e => e.2.dir.any fun x => p x.idx

/-- The coherent value of a word as an agent would read it now, without any effect. -/
def peekWord (d : Dev) (ag : Agent) (a : Nat) : DWord × Bool :=
  match route d ag a with
  | .line s tl =>
    if nmem (a / 1024) (sliceOf d s).stones then (0, true)
    else (homeWord d s (a / 1024) tl ((a % 1024) / 8)).2
  | .unserved => (0, true)
  | _ => hbmPeek d (a / 8 * 8)

def peekBytes (d : Dev) (ag : Agent) (a n : Nat) : List Byte :=
  wordsBytes a n ((wordsOf a n).map fun e => peekWord d ag (8 * e.1))

def peekPoison (d : Dev) (ag : Agent) (a n : Nat) : Bool := (wordsOf a n).any fun e => (peekWord d ag (8 * e.1)).2

end Sys2Proof.Machine
end

