-- ==== Sys2Proof/Machine/Access.lean ====
section
/-! DEFINITION. Accesses of device memory as their requesters see them: reads, writes, atomics and reservations of every
agent (R147, R161, R162, R294, R295, R364, R608), host CXL.mem requests and the host directory (R314, R440), and the
accesses that wait at their slices. -/
namespace Sys2Proof.Machine
open Sys2Proof

/-- Start the host snoops that an access to a range must wait for (R314). -/
def startSnoops (d : Dev) (ag : Agent) (a n : Nat) (write : Bool) : Dev :=
  (sectorPieces a n).foldl (fun d p =>
    let at_ (s : Nat) : Dev := match snoopNeeded d s (p.1 / 1024) write with
      | some inv => startSnoop d s (p.1 / 1024) inv
      | none => d
    match route d ag p.1 with
    | .line s false => at_ s
    | .hbm s => at_ s
    | _ => d) d

/-! ### Atomic operations (R160) -/

/-- The new value of an integer atomic of `w` bits. -/
def atomInt (op : AtomOp) (w : Nat) (signed : Bool) (old v cmp : Nat) : Nat :=
  let le (a b : Nat) : Bool := if signed then decide (sext w a ≤ sext w b) else decide (a ≤ b)
  match op with
  | .add => (old + v) % 2 ^ w
  | .min => if le old v then old else v
  | .max => if le old v then v else old
  | .and => Nat.land old v
  | .or => Nat.lor old v
  | .xor => Nat.xor old v
  | .exch => v
  | .cas => if old = cmp then v else old

/-! ### Poison and faults seen by requesters (R364, R608) -/

/-- The record of a delivered poisoned read, by the agent that read (R364).
DESIGN CHOICE, unsafe (log 22). -/
def logPoison (d : Dev) (ag : Agent) (a : Nat) : Dev :=
  match ag with
  | .host => logErr d stPoison ukHost 0 2 a
  | .core c => logErr d stPoison ukCore c 2 a
  | _ => d

/-- What the requester receives for a read.
DESIGN CHOICE, safe (log 20). -/
def answerRead (d : Dev) (ag : Agent) (a n : Nat) (ws : List (DWord × Bool)) : Dev :=
  let bad := ws.any (·.2)
  let d := if bad then logPoison d ag a else d
  match ag, bad with
  | .core c, true => emit d (.coreFault c a false)
  | _, _ => emit d (.memData ag a (wordsBytes a n ws) (ws.map (·.2)))

/-- What the requester receives for an access to an unbacked address (R420, R608).
DESIGN CHOICE, safe (log 63). -/
def answerUnbacked (d : Dev) (ag : Agent) (a : Nat) (store : Bool) : Dev :=
  match ag with
  | .core c => emit (logErr d stUnbacked ukCore c 2 a) (.coreFault c a store)
  | .host => emit d (.hostNotDecoded a)
  | _ => emit d (.memDone ag a stUnbacked)

/-! ### The host directory -/

/-- Directory set of a line (R285).
DESIGN CHOICE, unsafe (log 21). -/
def dirSetOf (idx : Nat) : Nat := Config.dirSet idx % 1024

/-- Record what the host will hold of a line. -/
def recordHold (d : Dev) (s idx : Nat) (h : HostHold) : Dev :=
  let d := dirDel d s idx
  let add (any : Bool) : Dev := modSlice d s fun sl => { sl with dir := sl.dir ++ [{ idx := idx, any := any }] }
  match h with
  | .none => d
  | .shared => add false
  | .any => add true

/-- A session that closes calls back every entry of its range, one recorded meanwhile among them (R345). -/
def snoopClosing (d : Dev) (s idx : Nat) : Dev :=
  let closing := d.sessions.any fun e => e.2.st == .closing && e.2.flushed && sessHas d e.2 (1024 * idx)
  if closing && (dirFind (sliceOf d s) idx).isSome then startSnoop d s idx true else d

/-- A request needs an entry of a full set: the entry recorded least recently must go first (R314).
DESIGN CHOICE, unsafe (log 21). -/
def dirVictim (d : Dev) (s idx : Nat) (h : HostHold) : Option Nat :=
  if h == .none then none
  else
    let set := (sliceOf d s).dir.filter fun e => dirSetOf e.idx == dirSetOf idx
    if set.any (fun e => e.idx == idx) || decide (set.length < 16) then none else set.head?.map (·.idx)

/-- A directory set that is full gives up its victim: the victim is snooped (R285, R314).
DESIGN CHOICE, unsafe (log 21). -/
def evictDir (d : Dev) (s idx : Nat) : Dev :=
  if (sliceOf d s).snoops.any fun x => x.idx == idx && x.inv then d
  else startSnoop (regBump d .krStatus [] 47 32 1) s idx true

/-- Put back the directory of a slice. -/
def keepDir (d0 d : Dev) (s : Nat) : Dev := modSlice d s fun sl => { sl with dir := (sliceOf d0 s).dir }

/-- A host request to a line, made past the snoops that other agents need; `f` performs it.
DESIGN CHOICE, unsafe (log 21). -/
def hostRequest (d : Dev) (addr : Nat) (hold : HostHold) (f : Dev → Option Dev) : Dev × Bool :=
  let d := withHue d (hostHue d)
  let idx := addr / 1024
  match route d .host addr with
  | .wait => (d, false)
  | .unserved => match f d with
    | some d => (hueGrant d .host d.hue 64, true)
    | none => (d, false)
  | r =>
    let s := match r with
      | .line s _ => s
      | .hbm s => s
      | _ => 0
    let hold := if isTileLocal d addr then HostHold.none else hold
    match dirVictim d s idx hold with
    | some v => (evictDir d s v, false)
    | none => match f (dirDel d s idx) with
      | some x => (hueGrant (snoopClosing (recordHold (keepDir d x s) s idx hold) s idx) .host x.hue 64, true)
      | none => (d, false)

/-- Runs of bytes of a line that the host returns, each within one sector: (offset, bytes). -/
def lineRuns (data : LineData) : List (Nat × List Byte) :=
  (data.foldl (fun (acc : List (Nat × List Byte)) e => match acc with
    | (o, bs) :: t => if e.1 = o + bs.length && e.1 % 128 ≠ 0 then (o, bs ++ [e.2]) :: t else (e.1, [e.2]) :: (o, bs) :: t
    | [] => [(e.1, [e.2])]) []).reverse

/-- Write runs of a line by an agent: all of them, or none. -/
def writeLineRuns (d : Dev) (ag : Agent) (idx : Nat) (runs : List (Nat × List Byte)) (poison : Bool) : Option Dev :=
  let r := runs.foldl (fun (acc : Dev × Bool) e =>
    if acc.2 then sectorWrite acc.1 ag (1024 * idx + e.1 % 1024) e.2 poison else acc) (d, true)
  if r.2 then some r.1 else none

/-- Dirty data that the host returns updates the line where the slice holds it, else HBM (R314). -/
def hostData (d : Dev) (s idx : Nat) (data : LineData) : Dev :=
  let held := (findLine (sliceOf d s) idx false).isSome || (findWb (sliceOf d s) idx false).isSome ||
    nmem idx (sliceOf d s).stones
  (lineRuns data).foldl (fun d e =>
    let a := 1024 * idx + e.1 % 1024
    let d := breakResv d a e.2.length
    match if held && !inOpenSession d a then homeWrite d s a false e.2 false else none with
    | some d => d
    | none => hbmWriteBytes (grantHbm d a e.2.length) a e.2 false) d

/-! ### Performing an access -/

def isTileLocalAt (d : Dev) (a : Nat) : Bool := isTileLocal d a

/-- A request of the control cores, the host or a pip unit carries the hue of HUE_SOURCES (R399). -/
def underHue (d : Dev) (ag : Agent) : Dev := match ag with
  | .core _ => withHue d (coreHue d)
  | .host => withHue d (hostHue d)
  | .pip => withHue d (pipHue d)
  | _ => d

/-- Perform an access: the device after it, and whether it was performed; one that waits begins its snoops.
PRESUMED, unsafe (log 19).
DESIGN CHOICE, unsafe (log 23). -/
def perform (d : Dev) (x : Access) : Dev × Bool :=
  let a := x.addr
  let d := underHue d x.agent
  match x.kind with
  | .read n spent reserve =>
    let go (d : Dev) : Option Dev :=
      let r := devReadWords d x.agent a n spent
      r.2.map fun ws =>
        let d := answerRead r.1 x.agent a n ws
        match reserve, x.agent with
        | true, .core c => { d with resv := tput d.resv c (a, n) }
        | _, _ => d
    if x.agent == .host then hostRequest d a .none go
    else match go d with
      | some d => (d, true)
      | none => (startSnoops d x.agent a n spent, false)
  | .write data poison =>
    let done (r : Dev × Bool) : Dev × Bool := if r.2 then (emit r.1 (.memDone x.agent a stOk), true) else r
    if x.agent == .host then
      hostRequest d a .none fun d => (writeLineRuns d .host (a / 1024) (lineRuns (data.mapIdx fun i b => (a % 1024 + i, b)))
        poison).map fun d => emit d (.memDone .host a stOk)
    else done (devWrite d x.agent a data poison)
  | .amo n op signed v =>
    match x.agent with
    | .core c =>
      let r := devAtomic d x.agent a n (fun old => atomInt op (8 * n) signed old (v % 2 ^ (8 * n)) 0) false
      (match r.2 with
        | none => (startSnoops d x.agent a n true, false)
        | some (_, true) => (emit (logPoison r.1 x.agent a) (.coreFault c a true), true)
        | some (old, false) => (emit r.1 (.memData x.agent a (leBytes n old) []), true))
    | _ => (d, true)
  | .sc n v =>
    match x.agent with
    | .core c =>
      let fails (d : Dev) : Dev × Bool :=
        (emit { d with resv := tdel d.resv c } (.memData x.agent a (leBytes n 1) []), true)
      if isTileLocalAt d a || !(tfind d.resv c == some (a, n)) then fails d
      else
        let r := devAtomic d x.agent a n (fun _ => v % 2 ^ (8 * n)) false
        (match r.2 with
          | none => (startSnoops d x.agent a n true, false)
          | some (_, true) =>
            (emit (logPoison { r.1 with resv := tdel r.1.resv c } x.agent a) (.coreFault c a true), true)
          | some (_, false) => (emit { r.1 with resv := tdel r.1.resv c } (.memData x.agent a (leBytes n 0) []), true))
    | _ => (d, true)
  | .hostRead hold =>
    hostRequest d a hold fun d =>
      let r := devReadWords d .host a 64 false
      r.2.map fun ws => answerRead r.1 .host a 64 ws
  | .hostWrite data poison failed hold =>
    hostRequest d a hold fun d =>
      match failed with
      | some l =>
        let r := sectorWrite d .host (a / 128 * 128) (List.replicate 128 0) true
        let d' := logErr (regBump { r.1 with rasInternal := true } .integUe [] 31 16 1) stCrcFinal ukHost 0 2 a (linkDetail l 4)
        if r.2 then some (emit d' (.memDone .host a stOk)) else none
      | none => (writeLineRuns d .host (a / 1024) (lineRuns data) poison).map fun d => emit d (.memDone .host a stOk)

/-- Length of an access. -/
def accessBytes : AccessKind → Nat
  | .read n _ _ => n
  | .write l _ => l.length
  | .amo n _ _ _ => n
  | .sc n _ => n
  | _ => 64

/-- An access that stores. -/
def accessStores : AccessKind → Bool
  | .read _ _ _ => false
  | .hostRead _ => false
  | _ => true

/-- Access `x` waits behind the waiting access `y`: they are on one line (R153), or both are of one control core, whose
accesses are performed in program order, so that its FENCEs and its aq and rl bits hold (R162).
PRESUMED, unsafe (log 127). -/
def waitsBehind (y x : Access) : Bool :=
  y.addr / 1024 == x.addr / 1024 || (y.agent == x.agent && match x.agent with
    | .core _ => true
    | _ => false)

/-- Perform an access, or let it wait behind the accesses that it must not pass. -/
def access (d : Dev) (x : Access) : Dev :=
  if !backed d x.addr (accessBytes x.kind) then answerUnbacked d x.agent x.addr (accessStores x.kind)
  else if d.accesses.any (waitsBehind · x) then { d with accesses := d.accesses ++ [x] }
  else
    let r := perform d x
    if r.2 then r.1 else { r.1 with accesses := r.1.accesses ++ [x] }

/-- Try every waiting access once, oldest first.
DESIGN CHOICE, unsafe (log 5). -/
def retryAccesses (d : Dev) : Dev :=
  d.accesses.foldl (fun d x =>
    if d.accesses.any (waitsBehind · x) then { d with accesses := d.accesses ++ [x] }
    else
      let r := perform d x
      if r.2 then r.1 else { r.1 with accesses := r.1.accesses ++ [x] }) { d with accesses := [] }

end Sys2Proof.Machine
end

