-- ==== Sys2Proof/Machine/Crypto.lean ====
section
/-! DEFINITION. SHAKE256, SHA3-512 and KMAC256, which R560 to R575 name. PRESUMED: they are those of FIPS 202 and
SP 800-185 (notes/assumptions). -/
namespace Sys2Proof.Machine
open Sys2Proof

/-! ### The permutation, from the rules that FIPS 202 gives for its constants -/

/-- The state as a 64-bit lane for each place x + 5y. -/
abbrev Sponge := Tab Nat

/-- The lane at coordinates taken modulo 5. -/
def laneAt5 (s : Sponge) (x y : Nat) : Nat := tget 0 s (x % 5 + 5 * (y % 5))

/-- A state whose lane at x and y is given. -/
def spongeOf (f : Nat → Nat → Nat) : Sponge := (List.range 25).map fun i => (i, f (i % 5) (i / 5))

def rotl64 (x k : Nat) : Nat := (x * 2 ^ (k % 64)) % 2 ^ 64 + x / 2 ^ (64 - k % 64)

/-- The shift register behind the round constants: x⁸ + x⁶ + x⁵ + x⁴ + 1. -/
def rcStep (r : Nat) : Nat := if r < 128 then 2 * r else Nat.xor (2 * r) 0x171

/-- Round constant `n`: output bit j + 7n of the register stands at bit 2ʲ − 1. -/
def roundConstant (n : Nat) : Nat :=
  ((List.range 7).map fun j => (iter rcStep (j + 7 * n) 1 % 2) * 2 ^ (2 ^ j - 1)).foldl (· + ·) 0

/-- Rotations: the walk (x, y) → (y, 2x + 3y) from (1, 0), whose step t turns by (t + 1)(t + 2) ÷ 2. -/
def turnsFrom : Nat → Nat → Nat → Nat → Sponge
  | 0, _, _, _ => []
  | f + 1, t, x, y => (x + 5 * y, (t + 1) * (t + 2) / 2) :: turnsFrom f (t + 1) y ((2 * x + 3 * y) % 5)

def turnOf (x y : Nat) : Nat := ((turnsFrom 24 0 1 0).find? fun e => e.1 == x + 5 * y).elim 0 (·.2)

/-- Parity of a column. -/
def column (s : Sponge) (x : Nat) : Nat := (List.range 5).foldl (fun a y => Nat.xor a (laneAt5 s x y)) 0

/-- Columns spread to their neighbours, then every lane turned and moved to its place. -/
def spread (s : Sponge) : Sponge :=
  let cs := (List.range 5).map fun x => column s x
  let mixed (x y : Nat) : Nat :=
    Nat.xor (laneAt5 s x y) (Nat.xor (cs.getD ((x + 4) % 5) 0) (rotl64 (cs.getD ((x + 1) % 5) 0) 1))
  spongeOf fun x y => rotl64 (mixed ((x + 3 * y) % 5) x) (turnOf ((x + 3 * y) % 5) x)

/-- Lanes combined along each row, and the round constant. -/
def rowMix (s : Sponge) (rc : Nat) : Sponge := spongeOf fun x y =>
  let v := Nat.xor (laneAt5 s x y) (Nat.land (2 ^ 64 - 1 - laneAt5 s (x + 1) y) (laneAt5 s (x + 2) y))
  if x + 5 * y = 0 then Nat.xor v rc else v

/-- The 24 rounds. -/
def keccakF (s : Sponge) : Sponge := (List.range 24).foldl (fun s n => rowMix (spread s) (roundConstant n)) s

/-! ### The sponge -/

/-- A block, at most 25 lanes long, is added to the state. -/
def absorbBlock (s : Sponge) (b : List Byte) : Sponge :=
  keccakF (tmap (fun i v => Nat.xor v (leAt b (8 * i) 8)) s)

def padBlock (rate suffix : Nat) (m : List Byte) : List Byte :=
  let z := rate - 1 - m.length % rate
  if z = 0 then m ++ [BitVec.ofNat 8 (suffix + 0x80)]
  else m ++ [BitVec.ofNat 8 suffix] ++ List.replicate (z - 1) 0 ++ [0x80]

/-- Output blocks of the sponge. -/
def squeeze (rate : Nat) : Nat → Sponge → List Byte
  | 0, _ => []
  | n + 1, s => ((s.flatMap fun v => leBytes 8 v.2).take rate) ++ squeeze rate n (keccakF s)

def sponge (rate suffix : Nat) (m : List Byte) (n : Nat) : List Byte :=
  let s := (pieces rate (padBlock rate suffix m)).foldl absorbBlock (spongeOf fun _ _ => 0)
  (squeeze rate (ceilDiv n rate) s).take n

/-- SHAKE256 of a byte string, `n` bytes.
PRESUMED, unsafe (log 88). -/
def shake256 (m : List Byte) (n : Nat) : List Byte := sponge 136 0x1F m n

/-- SHA3-512 of a byte string. -/
def sha3_512 (m : List Byte) : List Byte := sponge 72 0x06 m 64

/-- Big-endian bytes of a number, at least one. -/
def beBytes : Nat → Nat → List Byte
  | 0, _ => []
  | n + 1, v => beBytes n (v / 256) ++ [BitVec.ofNat 8 v]

def byteLen (v : Nat) : Nat := if v = 0 then 1 else Nat.log2 v / 8 + 1

def leftEncode (v : Nat) : List Byte := BitVec.ofNat 8 (byteLen v) :: beBytes (byteLen v) v
def rightEncode (v : Nat) : List Byte := beBytes (byteLen v) v ++ [BitVec.ofNat 8 (byteLen v)]
def encodeString (m : List Byte) : List Byte := leftEncode (8 * m.length) ++ m

def bytepad (m : List Byte) (w : Nat) : List Byte :=
  let x := leftEncode w ++ m
  x ++ List.replicate ((w - x.length % w) % w) 0

/-- Bytes of an ASCII string. -/
def ascii (s : String) : List Byte := s.toList.map fun c => BitVec.ofNat 8 c.toNat

/-- KMAC256 with key, message, customization and output length in bytes.
PRESUMED, unsafe (log 88). -/
def kmac256 (key msg custom : List Byte) (n : Nat) : List Byte :=
  sponge 136 0x04
    (bytepad (encodeString (ascii "KMAC") ++ encodeString custom) 136 ++
      (bytepad (encodeString key) 136 ++ msg ++ rightEncode (8 * n))) n

end Sys2Proof.Machine
end

