-- ==== Sys2Proof/Machine/Flags.lean ====
section
/-! DEFINITION. The flags and levels that every command leaves up to date: the error log ring with NOT_EMPTY (R366 to
R372), the MSI-X vectors (R460), the completion logs (R455 to R459), the field repair log (R542); and `act`, which
runs the effect of a command on the device and settles them. -/
namespace Sys2Proof.Machine
open Sys2Proof

/-! ### MSI-X (R460) -/

/-- Send a vector, or set its pending bit while it is masked. -/
def sendMsix (d : Dev) (v : Nat) : Dev :=
  if regBit d .msixCtl [v] 32 then regSetBit { d with msixPend := nadd v d.msixPend } .msixPba [v / 64] (v % 64)
  else emit d (.msix v)

/-- A vector that is no longer masked and pends is sent. -/
def unmaskMsix (d : Dev) (v : Nat) : Dev :=
  if nmem v d.msixPend && !regBit d .msixCtl [v] 32 then
    emit (regClearBit { d with msixPend := ndel v d.msixPend } .msixPba [v / 64] (v % 64)) (.msix v)
  else d

/-! ### The error log ring -/

def errRing (d : Dev) : Nat × Nat :=
  let v := regGet d .errlogBase
  (bits v 47 12 <<< 12, 64 * 2 ^ bits v 3 0)

def errProd (d : Dev) : Nat := regField d .errlogPtr [] 31 0
def errCons (d : Dev) : Nat := regField d .errlogPtr [] 63 32

/-- Records written and not consumed. -/
def errFill (d : Dev) : Nat := (errProd d + 2 ^ 32 - errCons d) % 2 ^ 32

/-- NOT_EMPTY (R372). -/
def errNotEmpty (d : Dev) : Bool := errProd d != errCons d

/-- The 64 bytes of an error log record (R367), in the version that HOST_VERSEL selects. -/
def errBytes (d : Dev) (r : ErrRec) : List Byte :=
  leBytes 4 (0x0501 + (regField d .hostVersel [] 15 8 <<< 16)) ++ leBytes 2 r.status.toNat ++ leBytes 1 r.kind ++
    leBytes 1 r.cls ++ leBytes 2 r.unit ++ leBytes 1 r.canvas ++ leBytes 1 0 ++ leBytes 4 r.count ++
    leBytes 8 r.time ++ leBytes 8 r.addr.toNat ++ leBytes 8 r.detail.toNat ++ List.replicate 24 0

/-- Write the oldest queued record, or drop it when there is no ring or no room (R369); `none` when there is nothing
to do now. -/
def errStep (d : Dev) : Option Dev :=
  match d.errq with
  | [] => none
  | r :: rest =>
    let (base, size) := errRing d
    if base = 0 || errFill d ≥ size then
      some (regBumpSat { d with errq := rest } .errlogStatus [] 63 32 1)
    else
      let (d', ok) := devWrite (withHue d (coreHue d)) (.core 0) (base + 64 * (errProd d % size)) (errBytes d r)
      if ok then some (regBump { d' with errq := d'.errq.drop 1 } .errlogPtr [] 31 0 1) else none

/-- Write what can be written; a record whose line the host holds waits for the snoop (R314, R366).
DESIGN CHOICE, unsafe (log 5). -/
def flushErrors (d : Dev) : Dev :=
  let d' := iterOpt errStep (d.errq.length + 4) d
  match d'.errq with
  | [] => d'
  | r :: _ =>
    let (base, size) := errRing d'
    if base = 0 || errFill d' ≥ size then d'
    else (devWrite d' (.core 0) (base + 64 * (errProd d' % size)) (errBytes d' r)).1

/-! ### Completion logs (R455 to R459) -/

/-- Log 0 to 7 of the host, or 8 + c of control core c. -/
def logOf (d : Dev) (w : Win) : Nat :=
  match w with
  | .slot n => bits (tget {} d.wins n).ctl.toNat 2 0
  | .core c => 8 + c

def logBase (d : Dev) (n : Nat) : Nat :=
  if n < 8 then regGet d .complogBase [n] / 4096 * 4096 else regGet d .cwLogBase [n - 8] / 4096 * 4096

def logCtl (d : Dev) (n : Nat) : Nat := if n < 8 then regGet d .complogCtl [n] else regGet d .cwLogCtl [n - 8]

/-- ENABLE of completion log `n` (R459).
DESIGN CHOICE, unsafe (log 70). -/
def logEnabled (d : Dev) (n : Nat) : Bool := bitAt (logCtl d n) 15
/-- LOC: the log lies in device-local memory.
DESIGN CHOICE, unsafe (log 70). -/
def logLocal (d : Dev) (n : Nat) : Bool := bitAt (logCtl d n) 14
def logEntries (d : Dev) (n : Nat) : Nat := 64 * 2 ^ bits (logCtl d n) 3 0
def logProd (d : Dev) (n : Nat) : Nat := bits (logCtl d n) 63 32
def logEntry (d : Dev) (n : Nat) : Nat := logBase d n + 64 * (logProd d n % logEntries d n)

def bumpProd (d : Dev) (n : Nat) : Dev :=
  if n < 8 then regBump d .complogCtl [n] 63 32 1 else regBump d .cwLogCtl [n - 8] 63 32 1

/-- The 64 bytes of a completion record (R455). -/
def complBytes (d : Dev) (h : Held) : List Byte :=
  leBytes 4 (0x0102 + (regField d .hostVersel [] 7 0 <<< 16)) ++ leBytes 4 h.op.handle.toNat ++
    leBytes 2 h.status.toNat ++ leBytes 1 h.op.opcode ++ leBytes 1 h.poisoned.toNat ++ leBytes 4 0 ++
    leBytes 8 h.op.user.toNat ++ leBytes 8 h.result0.toNat ++ leBytes 8 h.result1.toNat ++
    leBytes 8 h.op.tAccept ++ leBytes 8 h.tDone ++ leBytes 4 0 ++ leBytes 4 0

/-- The oldest held completion of a log. -/
def headOf (d : Dev) (n : Nat) : Option Held := d.held.find? fun h => logOf d h.op.win == n

def dropHead (d : Dev) (h : Held) : Dev := { d with held := d.held.filter fun x => !(x.op.id == h.op.id) }

/-- Write the record of the head of log `n` to its free entry and send the slot's vector (R457, R165). `none` while
the entry's line must be snooped. -/
def writeHead (d : Dev) (n : Nat) (h : Held) : Option Dev :=
  let d := withHue d h.op.hue
  let r := if logLocal d n then
      (let (d', ok) := devWrite d (.core 0) (logEntry d n) (complBytes d h); if ok then some d' else none)
    else some (emit d (.hostRecord (BitVec.ofNat 64 (logEntry d n)) (complBytes d h)))
  r.map fun d =>
    let d := bumpProd (dropHead d h) n
    match h.op.win with
    | .slot s =>
      let c := (tget {} d.wins s).ctl.toNat
      if bitAt c 7 then sendMsix d (bits c 15 8) else d
    | .core _ => d

/-- TAKEN of the next entry of log `n`: read at its home, or from the host. `none` while the read waits.
DESIGN CHOICE, safe (log 71). -/
def readTaken (d : Dev) (n : Nat) (host : Option Bool) : Dev × Option Bool :=
  if logLocal d n then
    let (d, r) := devRead d (.core 0) (logEntry d n + 0x3C) 4
    (d, r.map fun x => leNat x.1 % 2 == 1)
  else match host with
    | some b => (d, some b)
    | none => ({ d with freeCnt := d.freeCnt + 1 }, some (Config.hostTaken d.freeCnt))

/-- One attempt on the head of log `n` (R457): write it, or mark it as waiting and count LOG_WAITS. -/
def tryHead (d : Dev) (n : Nat) (h : Held) (host : Option Bool) : Dev × Bool :=
  let (d, t) := readTaken d n host
  match t with
  | none => (d, false)
  | some true => match writeHead d n h with
    | some d => (d, true)
    | none => ((devWrite d (.core 0) (logEntry d n) (complBytes d h)).1, false)
  | some false =>
    if h.waited then (d, false)
    else (regBump { d with held := lmod (fun x => x.op.id == h.op.id) (fun x => { x with waited := true }) d.held }
      .hostStatus [] 63 48 1, false)

/-- Write the completions of log `n` that need no retry. -/
def pumpLog (d : Dev) (n : Nat) : Dev :=
  if !logEnabled d n then d
  else ((List.range (d.held.length + 1)).foldl (fun (acc : Dev × Bool) _ =>
    if !acc.2 then acc
    else match headOf acc.1 n with
      | none => (acc.1, false)
      | some h => if h.waited then (acc.1, false) else tryHead acc.1 n h none) (d, true)).1

/-- Held completions go to their logs (R457, R458).
DESIGN CHOICE, unsafe (log 5). -/
def pumpLogs (d : Dev) : Dev := if d.held.isEmpty then d else (List.range 16).foldl pumpLog d

/-! ### The field repair log (R542) -/

/-- Byte `a` of the attached flash; an erased byte reads 0xFF.
DESIGN CHOICE, unsafe (log 7). -/
def nvmByte (d : Dev) (a : Nat) : Byte := memByte d.nvm a ^^^ 0xFF
def nvmBytes (d : Dev) (a n : Nat) : List Byte := (List.range n).map fun i => nvmByte d (a + i)
def nvmWrite (d : Dev) (a : Nat) (bs : List Byte) : Dev :=
  { d with nvm := (bs.mapIdx fun i b => (a + i, b)).foldl (fun m e => memPutByte m e.1 (e.2 ^^^ 0xFF)) d.nvm }

/-- A key that the device derives from its seed (R562). -/
def deviceKey (d : Dev) (custom : String) (n : Nat) : Option (List Byte) :=
  d.fw.seed.map fun s => kmac256 s [] (ascii custom) n

/-- Append the queued repair records; with no identity nothing is appended, and a full log is logged.
DESIGN CHOICE, unsafe (log 5). -/
def flushRepairs (d : Dev) : Dev :=
  d.repairq.foldl (fun d rec =>
    match deviceKey d "VZ1 REPAIR" 32 with
    | none => d
    | some k =>
      if d.repairCnt ≥ 1024 then
        logErr (regSetBit d .repairStatus [] 62) stRepairLogFull ukStem 0 3
      else
        let head := rec ++ leBytes 4 d.repairCnt ++ List.replicate 12 0
        nvmWrite { d with repairCnt := d.repairCnt + 1 } (0x100000 + 64 * d.repairCnt)
          (head ++ (kmac256 k head [] 16) ++ List.replicate 16 0)) { d with repairq := [] }

/-! ### Levels and edges -/

/-- Ports in ACTIVE. -/
def activePorts (d : Dev) : List Nat := (d.ports.filter fun e => e.2.st == .active).map (·.1)

/-- The error vector and the PLDM event when NOT_EMPTY rises (R366, R460). -/
def errEdge (d : Dev) : Dev := if errNotEmpty d && !d.lvlErr then emit (sendMsix d 64) (.pldmEvent 0) else d

/-- The link vector when a port enters or leaves ACTIVE (R460). -/
def portEdge (d : Dev) : Dev := if activePorts d = d.lvlPorts then d else sendMsix d 66

/-- The levels that the device now shows are kept for the next command. -/
def seeLevels (d : Dev) (err : Bool) (ports : List Nat) : Dev := { d with lvlErr := err, lvlPorts := ports }

/-- The edges of this command.
DESIGN CHOICE, unsafe (log 5). -/
def edges (d : Dev) : Dev := seeLevels (portEdge (errEdge d)) (errNotEmpty d) (activePorts d)

/-! ### Cold-segment prefetches (R84, R268, R275) -/

/-- Internal entries of a mover in use (R282). -/
def internalUsed (d : Dev) (r : Nat) : Nat := (d.prefetches.filter fun p => p.rind == r && p.active).length

/-- Read one line of a prefetch; `false` while the read must wait. -/
def prefetchLine (d : Dev) (r i : Nat) : Dev × Bool :=
  (List.range 8).foldl (fun (acc : Dev × Bool) k =>
    if !acc.2 then acc
    else
      let a := 1024 * i + 128 * k
      match sectorRead acc.1 (.mover r) a 128 { spent := false } with
      | (d, some _) => (hueGrant d (.mover r) d.hue 128, true)
      | (d, none) => (startSnoops d (.mover r) a 128 false, false)) (d, true)

/-- Read on in a prefetch until a line must wait. -/
def readPrefetch (d : Dev) (p : Prefetch) : Dev × Prefetch :=
  p.left.foldl (fun (acc : Dev × Prefetch) i =>
    if acc.2.left.head? != some i then acc
    else
      let r := prefetchLine acc.1 p.rind i
      (r.1, if r.2 then { acc.2 with left := acc.2.left.drop 1 } else acc.2)) (d, p)

/-- Every line of a prefetch has come. -/
def prefetchDone (d : Dev) (p : Prefetch) : Bool :=
  p.left.isEmpty && d.slices.all fun e => e.2.fills.all fun f => !nmem f.idx p.lines

/-- One prefetch in turn: it takes an internal entry where one of the four is free, reads on, and frees it at its end. -/
def pumpPrefetch (d : Dev) (p : Prefetch) : Dev :=
  let ahead := internalUsed d p.rind
  if !p.active && ahead ≥ 4 then { d with prefetches := d.prefetches ++ [p] }
  else
    let (d', p) := readPrefetch (withHue d p.hue) { p with active := true }
    let d := withHue d' d.hue
    if prefetchDone d p then d else { d with prefetches := d.prefetches ++ [p] }

/-- The prefetches of the device go on, those that hold an entry first; none does in a compute reset (R279).
DESIGN CHOICE, unsafe (log 30). -/
def pumpPrefetches (d : Dev) : Dev :=
  if d.prefetches.isEmpty || d.creset.active then d
  else
    let l := d.prefetches.filter (·.active) ++ d.prefetches.filter fun p => !p.active
    l.foldl pumpPrefetch { d with prefetches := [] }

/-- What every command ends with: waiting accesses that can proceed do, and what was made is written and signalled.
DESIGN CHOICE, unsafe (log 5). -/
def settle (d : Dev) : Dev := edges (flushErrors (pumpLogs (flushRepairs (pumpPrefetches (retryAccesses d)))))

/-- The device does nothing while cold reset is asserted or temperature has shut it down (R525, R594).
DESIGN CHOICE, safe (log 4). -/
def halted (d : Dev) : Bool := d.phase == .coldHold || d.phase == .shutdown

abbrev Result := Host.Outcome State Fault Refusal

/-- A command's effect on a device that runs.
DESIGN CHOICE, unsafe (log 3).
DESIGN CHOICE, safe (log 4). -/
def act (s : State) (f : Dev → Dev) : Result :=
  .next { s with dev := if halted s.dev then s.dev else settle (f s.dev) }

/-- A command that also acts on a halted device (power and reset).
DESIGN CHOICE, safe (log 4). -/
def actAlways (s : State) (f : Dev → Dev) : Result := .next { s with dev := settle (f s.dev) }

end Sys2Proof.Machine
end

