-- ==== Sys2Proof/Machine/HostPort.lean ====
section
/-! DEFINITION. Long operations and command records: handles (R32 to R35), receipts (R446 to R451), completion (R455 to
R457), and the checks that every register access meets (R24 to R30, R442, R509, R610, R622). -/
namespace Sys2Proof.Machine
open Sys2Proof

/-! ### Register accesses -/

/-- The gated block whose registers lie at a BAR0 offset (R507, R509, R610). -/
def regBlock (off : Nat) : Option Nat :=
  if 0x100000 ≤ off ∧ off < 0x200000 then some (quadOf ((off - 0x100000) / 0x1000))
  else if 0x3000 ≤ off ∧ off < 0x4000 then some blkEntropy
  else if 0x300000 ≤ off ∧ off < 0x380000 then
    let r := (off - 0x300000) / 0x10000
    let o := off % 0x10000
    if 0x1000 ≤ o ∧ o < 0x2000 then some (blkMover r)
    else if 0x2000 ≤ o ∧ o < 0x8000 then some (blkColl r)
    else none
  else none

/-- The registers at an offset answer as a gated block in OFF (R509, R610). -/
def regGated (d : Dev) (off : Nat) : Bool :=
  (match regBlock off with
    | some k => !blkServes d k
    | none => false) ||
  (decide (0x100000 ≤ off ∧ off < 0x200000) && !(tileOf d ((off - 0x100000) / 0x1000)).present)

/-- Aligned 32-bit or 64-bit access (R28, R30). -/
def sizeOk (off bytes : Nat) : Bool := (bytes == 4 || bytes == 8) && off % bytes == 0

/-- Bits of the register that an access addresses (R28). -/
def accessMask (off bytes : Nat) : Nat :=
  if bytes = 8 then 2 ^ 64 - 1 else if off % 8 = 0 then 2 ^ 32 - 1 else (2 ^ 32 - 1) <<< 32

/-- The written value moved to the bits it addresses. -/
def accessValue (off bytes : Nat) (v : DWord) : Nat :=
  if bytes = 8 then v.toNat else if off % 8 = 0 then v.toNat % 2 ^ 32 else (v.toNat % 2 ^ 32) <<< 32

/-- A BAR0 register write: the checks that every write meets, then the register's own rule, which is given the
table entry, the unit indices, the addressed bits and the value at them.
DEDUCED, unsafe (log 109). -/
def withWrite (d : Dev) (r : Req) (off bytes : Nat) (v : DWord)
    (f : Dev → RegDef → List Nat → Nat → Nat → Dev) : Dev :=
  if !sizeOk off bytes then emit (logAccess d r stAccessSize off false true bytes) (.regError r off)
  else match regAt (off / 8 * 8) with
    | none => logAccess d r stReserved off false true bytes
    | some (t, ix) =>
      if regGated d off then emit (logAccess d r stBlockGated off false true bytes) (.regError r off)
      else if t.actsW && bytes = 4 then logAccess d r stAccessSize off false true bytes
      else
        let mask := accessMask off bytes
        let val := accessValue off bytes v
        if Nat.land val t.rsv ≠ 0 then logAccess d r stReserved off false true bytes
        else f d t ix mask val

/-- A BAR0 register read: the checks, then the rule that gives the value. A 32-bit read takes the half it addresses. -/
def withRead (d : Dev) (r : Req) (off bytes : Nat) (f : Dev → RegDef → List Nat → Dev × Option Nat) : Dev :=
  if !sizeOk off bytes then emit (logAccess d r stAccessSize off false false bytes) (.regError r off)
  else match regAt (off / 8 * 8) with
    | none => emit (logAccess d r stReserved off false false bytes) (.regUnsupported r off)
    | some (t, ix) =>
      if regGated d off then emit (logAccess d r stBlockGated off false false bytes) (.regError r off)
      else if t.actsR && bytes = 4 then emit (logAccess d r stAccessSize off false false bytes) (.regError r off)
      else
        let (d, x) := f d t ix
        match x with
        | none => d
        | some v =>
          let v := if bytes = 8 then v else if off % 8 = 0 then v % 2 ^ 32 else v >>> 32
          emit d (.regRead r off (BitVec.ofNat 64 v))

/-- The write rule of a register that only stores: RW, W1C and W1S fields (R25). -/
def plainWrite (d : Dev) (t : RegDef) (ix : List Nat) (mask val : Nat) : Dev :=
  regPut d t.id ix (storedAfterWrite t (regGet d t.id ix) mask val)

/-- A register rule that discards a write and logs a status with the access (R622). -/
def discard (d : Dev) (r : Req) (st : Half) (t : RegDef) (ix : List Nat) (mask : Nat) : Dev :=
  let off := t.base + dimOffset t.dims ix
  if mask = 2 ^ 64 - 1 then logAccess d r st off false true 8
  else logAccess d r st (if mask % 2 = 1 then off else off + 4) false true 4

/-- The full value that a write leaves in the RW bits.
DEDUCED, unsafe (log 109). -/
def newValue (d : Dev) (t : RegDef) (ix : List Nat) (mask val : Nat) : Nat :=
  storedAfterWrite t (regGet d t.id ix) mask val

/-! ### Operations (R32 to R35, R449) -/

def winOf (d : Dev) (w : Win) : CmdWin := match w with
  | .slot n => tget {} d.wins n
  | .core c => tget {} d.coreWins c

def putWin (d : Dev) (w : Win) (x : CmdWin) : Dev := match w with
  | .slot n => { d with wins := tput d.wins n x }
  | .core c => { d with coreWins := tput d.coreWins c x }

/-- Slots 0 to 63 and cores 0 to 7 exist. -/
def winExists (w : Win) : Bool := match w with
  | .slot n => n < 64
  | .core c => c < 8

/-- Operations of a window without a completion record: running, or held. -/
def inFlight (d : Dev) (w : Win) : Nat :=
  (d.ops.filter fun o => o.win == w).length + (d.held.filter fun h => h.op.win == w).length

/-- Whether a handle still names an operation (R34).
DESIGN CHOICE, safe (log 69). -/
def handleUsed (d : Dev) (h : Nat) : Bool :=
  (d.ops.any fun o => o.handle.toNat == h) || d.held.any fun x => x.op.handle.toNat == h

/-- The next SEQ after one (R33). -/
def seqAfter (n : Nat) : Nat := if n ≥ 0xFFFFFF then 1 else n + 1

/-- The first SEQ from `n` on whose handle names no operation (R34).
DESIGN CHOICE, safe (log 69). -/
def freshSeq (d : Dev) (slot : Nat) : Nat → Nat → Nat
  | 0, n => n
  | f + 1, n => if handleUsed d (slot * 2 ^ 24 + n) then freshSeq d slot f (seqAfter n) else n

/-- Hue of an operation whose command names none (R387, R399).
DESIGN CHOICE, unsafe (log 64). -/
def sourceHue (d : Dev) (w : Win) : Nat := match w with
  | .slot _ => hostHue d
  | .core _ => coreHue d

/-- Register an accepted long operation: its number and its handle (0 for a core, R484).
DESIGN CHOICE, safe (log 69).
DESIGN CHOICE, unsafe (log 73). -/
def acceptOp (d : Dev) (w : Win) (opcode : Nat) (user : DWord) (quiet : Bool) : Dev × Nat × Nat :=
  let (d, h) := match w with
    | .slot n =>
      let x := winOf d w
      let s := freshSeq d n (d.ops.length + d.held.length + 1) (seqAfter x.lastSeq)
      (putWin d w { x with lastSeq := s }, n * 2 ^ 24 + s)
    | .core _ => (d, 0)
  let o : Op := { id := d.nextOp, win := w, handle := BitVec.ofNat 32 h, opcode := opcode, user := user,
                  quiet := quiet, tAccept := d.tb.now, hue := sourceHue d w }
  ({ d with ops := d.ops ++ [o], nextOp := d.nextOp + 1 }, d.nextOp, h)

/-- An operation takes the hue that its command names. -/
def setOpHue (d : Dev) (op : Option Nat) (h : Nat) : Dev :=
  { d with ops := lmod (fun o => some o.id == op) (fun o => { o with hue := h }) d.ops }

/-- Hue of an operation in progress (R387). -/
def opHue (d : Dev) (op : Nat) : Nat := ((d.ops.find? fun o => o.id == op).map (·.hue)).getD 0

/-- Complete an operation (R457): its record waits for its log. A quiet operation writes none; one accepted before a
host port reset is discarded (R463). -/
def complete (d : Dev) (op : Nat) (st : Half) (r0 : Nat := 0) (r1 : Nat := 0) (poisoned : Bool := false) : Dev :=
  match d.ops.find? fun o => o.id == op with
  | none => d
  | some o =>
    let d := { d with ops := d.ops.filter fun x => !(x.id == op) }
    if o.quiet || o.orphan then d
    else
      let h : Held := { op := o, status := st, poisoned := poisoned, result0 := BitVec.ofNat 64 r0,
                        result1 := BitVec.ofNat 64 r1, tDone := d.tb.now }
      { d with held := d.held ++ [h] }

def completeOpt (d : Dev) (op : Option Nat) (st : Half) (r0 : Nat := 0) (r1 : Nat := 0) (poisoned : Bool := false) : Dev :=
  match op with
  | some o => complete d o st r0 r1 poisoned
  | none => d

/-! ### Command records (R446) -/

/-- A command record. -/
structure CmdRec where
  opcode : Nat
  quiet  : Bool
  user   : DWord
  args   : List Nat
deriving DecidableEq, Repr

def recordBytes (x : CmdWin) : List Byte := leBytes 64 x.record.toNat

def parseRecord (l : List Byte) : CmdRec :=
  { opcode := fieldAt l 0 39 32, quiet := bitAt (leAt l 0 8) 40, user := BitVec.ofNat 64 (leAt l 8 8),
    args := (List.range 6).map fun i => leAt l (16 + 8 * i) 8 }

/-- Long opcodes of R447. -/
def longOpcodes : List Nat := [0x01, 0x02, 0x03, 0x04, 0x05, 0x06, 0x10, 0x11, 0x13, 0x14, 0x15, 0x20, 0x21, 0x30]
def shortOpcodes : List Nat := [0x07, 0x08, 0x12]

/-- Canvas, context and preserve commands, which a compute reset turns away and ends (R556, R557). -/
def resetOpcodes : List Nat := [0x01, 0x02, 0x03, 0x04, 0x05, 0x06, 0x14, 0x15]

/-- Bits that each argument word of an opcode uses (R448). -/
def argMasks (opcode : Nat) : List Nat :=
  let a48 := 2 ^ 48 - 1
  let m32 := 2 ^ 32 - 1
  let m64 := 2 ^ 64 - 1
  if opcode = 0x01 then [a48, m32, 0, 0, 0, 0]
  else if opcode = 0x02 then [0xFF, m64, 0, 0, 0, 0]
  else if opcode = 0x03 || opcode = 0x04 then [0xFF, 0, 0, 0, 0, 0]
  else if opcode = 0x05 then [m32, a48, m32, 0, 0, 0]
  else if opcode = 0x06 then [m32, a48, 0, 0, 0, 0]
  else if opcode = 0x07 then [m64, m64, m64, m64, 0, 0]
  else if opcode = 0x08 then [0xFFFFFFFF00FFFFFF, 0, 0, 0, 0, 0]
  else if opcode = 0x10 then [a48, 0xFF, 0, 0, 0, 0]
  else if opcode = 0x11 then [a48, 0, 0, 0, 0, 0]
  else if opcode = 0x12 then [m32, 0, 0, 0, 0, 0]
  else if opcode = 0x13 then [a48, 2 ^ 41 - 1, a48, 0xFF01, 0, 0]
  else if opcode = 0x14 then [a48, m32, 1, 0, 0, 0]
  else if opcode = 0x15 then [0x1FF, 0, 0, 0, 0, 0]
  else if opcode = 0x20 then [a48, m32, 0, 0, 0, 0]
  else if opcode = 0x21 then [m64, 0, 0, 0, 0, 0]
  else if opcode = 0x30 then [0x1FF, 0, 0, 0, 0, 0]
  else [0, 0, 0, 0, 0, 0]

/-- The seat that ARG0 names exists: canvas 0 to 15 and loaded, with such a seat. -/
def seatExists (d : Dev) (arg : Nat) : Bool :=
  let c := bits arg 7 0
  match tfind d.canvases c with
  | none => false
  | some x => x.seats.any fun s => s.x == bits arg 15 8 && s.y == bits arg 23 16 && s.order == bits arg 31 24

/-- Step 4 of R449: unused bits zero, and alignment and ranges of R448. -/
def argsOk (d : Dev) (c : CmdRec) : Bool :=
  let a (i : Nat) : Nat := c.args.getD i 0
  ((List.range 6).all fun i => Nat.land (a i) ((argMasks c.opcode).getD i 0) == a i) &&
  (if c.opcode = 0x01 then a 0 % 64 == 0
   else if c.opcode = 0x02 || c.opcode = 0x03 || c.opcode = 0x04 then decide (a 0 < 16)
   else if c.opcode = 0x05 || c.opcode = 0x06 then decide (bits (a 0) 7 0 < 16) && seatExists d (a 0) && a 1 % 64 == 0
   else if c.opcode = 0x10 then a 0 % 64 == 0 && decide (a 1 < 8)
   else if c.opcode = 0x11 then a 0 % 64 == 0
   else if c.opcode = 0x30 then decide (bits (a 0) 7 0 ≤ 2)
   else true)

/-- Bring-up has not completed the start of services (R449 step 1). -/
def notReady (d : Dev) : Bool := !bitAt (regGet d .bootStatus) 4

/-- What a command's owning chapter does with an accepted record: a status (not `ST_OK` rejects) and the device after
it, which a rejection leaves as it was but for what reading the command did; `none` while the read of something the
command names waits for the host (R314). A long command is given its operation number. -/
abbrev Handler := Dev → CmdRec → Option Nat → Option Half × Dev

/-- Value of a receipt (R450). -/
def receiptValue (st : Half) (opcode handle : Nat) : DWord :=
  BitVec.ofNat 64 ((st.toNat <<< 48) + (opcode <<< 40) + handle)

def putReceipt (d : Dev) (w : Win) (v : DWord) : Dev :=
  emit (putWin d w { winOf d w with last := v }) (.receipt w v)

/-- The record of a window. -/
def windowRecord (d : Dev) (w : Win) : CmdRec := parseRecord (recordBytes (winOf d w))

def fromHost (w : Win) : Bool := match w with
  | .slot _ => true
  | .core _ => false

/-- Steps 1 to 4 of R449: the first that fails. -/
def recordCheck (d : Dev) (w : Win) : Option Half :=
  let l := recordBytes (winOf d w)
  let c := windowRecord d w
  if fromHost w && notReady d then some stNotReady
  else match checkPrefix 0x0101 (leAt l 0 4) with
  | some st => some st
  | none =>
    if bits (leAt l 0 4) 31 24 ≠ 0 || fieldAt l 0 63 41 ≠ 0 then some stReserved
    else if !(nmem c.opcode longOpcodes || nmem c.opcode shortOpcodes) then some stCmdOpcode
    else if !argsOk d c then some stHostField
    else none

/-- Steps 5 and 6 of R449 for a long command: room in its window, and no compute reset in its way. -/
def longCheck (d : Dev) (w : Win) (opcode : Nat) : Option Half :=
  if inFlight d w ≥ 64 then some stSlotFull
  else if d.creset.active && nmem opcode resetOpcodes then some stResetBusy
  else none

/-- The operations and windows stand as they did. -/
def keepOps (d x : Dev) : Dev := { x with ops := d.ops, nextOp := d.nextOp, wins := d.wins, coreWins := d.coreWins }

/-- A command that is not accepted: no operation, handle 0. -/
def rejectRecord (d x : Dev) (w : Win) (opcode : Nat) (st : Half) : Dev :=
  putReceipt (keepOps d x) w (receiptValue st opcode 0)

/-- The owner's answer becomes the receipt.
DESIGN CHOICE, unsafe (log 73).
DESIGN CHOICE, unsafe (log 130). -/
def finishRecord (d : Dev) (w : Win) (opcode : Nat) (r : Option Half × Dev) (handle : Nat) : Dev := match r.1 with
  | none => waitFor (keepOps d r.2) (.receiptRead w 8)
  | some st =>
    if st = stOk then putReceipt r.2 w (receiptValue stOk opcode handle) else rejectRecord d r.2 w opcode st

/-- A 64-bit read of RECEIPT: R449, in order.
DESIGN CHOICE, unsafe (log 73). -/
def submit (d : Dev) (w : Win) (h : Handler) : Dev :=
  let c := windowRecord d w
  match recordCheck d w with
  | some st => rejectRecord d d w c.opcode st
  | none =>
    if nmem c.opcode longOpcodes then
      match longCheck d w c.opcode with
      | some st => rejectRecord d d w c.opcode st
      | none =>
        let r := acceptOp d w c.opcode c.user c.quiet
        finishRecord d w c.opcode (h r.1 c (some r.2.1)) r.2.2
    else finishRecord d w c.opcode (h d c none) 0

/-- A row for one opcode: the RECEIPT read of a window whose RECORD holds that opcode (R447). -/
def submitAs (d : Dev) (w : Win) (opcode : Nat) (h : Handler) : Dev :=
  if winExists w && (windowRecord d w).opcode == opcode then submit d w h else d

/-- A handler that accepts only where no check fails. -/
def okOr (st : Option Half) (d d' : Dev) : Option Half × Dev := match st with
  | some x => (some x, d)
  | none => (some stOk, d')

/-! ### Reads that commands make -/

/-- A read of a command by an agent; while it waits only the snoops begin. -/
def readWhole (d : Dev) (ag : Agent) (a n : Nat) : Dev × Option (List Byte × Bool) :=
  let r := devRead d ag a n
  match r.2 with
  | some _ => r
  | none => (startSnoops d ag a n false, none)

/-- Whether a command or image read with a poisoned word is refused: the spec does not say, so it is free.
DESIGN CHOICE, unsafe (log 27).
DESIGN CHOICE, unsafe (log 46). -/
def poisonVerdict (d : Dev) (poisoned : Bool) : Option Half × Dev :=
  if poisoned then
    let (b, d) := drawBool d
    (if b then some stPoison else none, d)
  else (none, d)

end Sys2Proof.Machine
end

