-- ==== Sys2Proof/Machine/Operands.lean ====
section
/-! DEFINITION. Operand forms of the stage instructions: registers with poison and parity (R114 to R117, R170, R357),
stage registers, system operands, the regions of a seat (R149), and the reads and writes of them. -/
namespace Sys2Proof.Machine
open Sys2Proof

/-! ### Seats and groups -/

/-- The current seat of a tile, by its ORDER. -/
def curSeat (d : Dev) (t : Nat) : Option (Nat × Seat) :=
  let tl := tileOf d t
  tl.cur.bind fun k => (tfind tl.seats k).map fun s => (k, s)

def modSeat (d : Dev) (t k : Nat) (f : Seat → Seat) : Dev :=
  modTile d t fun tl => match tfind tl.seats k with
    | some s => { tl with seats := tput tl.seats k (f s) }
    | none => tl

def modCtx (d : Dev) (t k : Nat) (f : Ctx → Ctx) : Dev := modSeat d t k fun s => { s with ctx := f s.ctx }

/-- The context of a seat; a fresh one where there is no such seat. -/
def ctxAt (d : Dev) (t k : Nat) : Ctx := match tfind (tileOf d t).seats k with
  | some s => s.ctx
  | none => {}

/-- The 32 lanes at a step start (R117). -/
def freshLanes : List Lane := List.replicate 32 {}

def groupOf (c : Ctx) (g : Nat) : Group := tget { lanes := freshLanes } c.groups g
def laneAt (gr : Group) (l : Nat) : Lane := gr.lanes.getD l {}
def modGroup (c : Ctx) (g : Nat) (f : Group → Group) : Ctx := { c with groups := tput c.groups g (f (groupOf c g)) }
def modLane (gr : Group) (l : Nat) (f : Lane → Lane) : Group := { gr with lanes := gr.lanes.set l (f (laneAt gr l)) }
def modLanes (gr : Group) (ls : List Nat) (f : Lane → Lane) : Group :=
  { gr with lanes := gr.lanes.mapIdx fun l x => if nmem l ls then f x else x }

def canvasOf (d : Dev) (c : Nat) : Option Canvas := tfind d.canvases c
def stageOf (cv : Canvas) (n : Nat) : StageEnt :=
  cv.stages.getD n ⟨1, 1, 0, 64, 0, 0, 0, 1, 0, 0, 0⟩

/-! ### Registers -/

/-- A register as a write leaves it, with good parity. -/
def mkReg (v : Nat) (poison : Bool) : Reg32 :=
  { val := BitVec.ofNat 32 v, poison := poison, parity := parityOf 32 (v % 2 ^ 32) }

/-- The stored parity is wrong (R357). -/
def regBad (r : Reg32) : Bool := parityOf 32 r.val.toNat != r.parity

def gReg (gr : Group) (n l : Nat) : Reg32 := tget {} gr.regs (32 * n + l)
def setReg (gr : Group) (n l v : Nat) (poison : Bool) : Group :=
  { gr with regs := tput gr.regs (32 * n + l) (mkReg v poison) }
def sReg (c : Ctx) (j : Nat) : SReg := tget {} c.sregs j
def sRegVal (c : Ctx) (j : Nat) : Nat := (sReg c j).lo.val.toNat + (sReg c j).hi.val.toNat * 2 ^ 32
def vReg (c : Ctx) (v l : Nat) : Reg32 := tget {} c.vregs (128 * v + l)
def setVReg (c : Ctx) (v l x : Nat) (poison : Bool) : Ctx :=
  { c with vregs := tput c.vregs (128 * v + l) (mkReg x poison) }

/-- Bit upsets that the environment makes: registers 0 to 63 of a lane; 64 + 2j + h is half h of stage register j;
128 + v is vector-unit register v (R357).
DESIGN CHOICE, safe (log 108). -/
def upset (c : Ctx) (g : Nat) (u : Upset) : Ctx :=
  let flip (r : Reg32) : Reg32 := { r with val := BitVec.ofNat 32 (Nat.xor r.val.toNat (2 ^ (u.bit % 32))) }
  if u.reg < 64 then
    modGroup c g fun gr => { gr with regs := tput gr.regs (32 * u.reg + u.lane % 32) (flip (gReg gr u.reg (u.lane % 32))) }
  else if u.reg ≥ 128 then
    let v := (u.reg - 128) % 16
    { c with vregs := tput c.vregs (128 * v + u.lane % 128) (flip (vReg c v (u.lane % 128))) }
  else
    let j := (u.reg - 64) / 2 % 32
    let s := sReg c j
    { c with sregs := tput c.sregs j (if u.reg % 2 = 1 then { s with hi := flip s.hi } else { s with lo := flip s.lo }) }

/-! ### An instruction at issue -/

/-- What an issued instruction sees: its tile, group, canvas, seat (as operands are read), its executing lanes in
rising order, and its program counter. -/
structure Iss where
  t     : Nat
  g     : Nat
  cv    : Nat
  key   : Nat
  seat  : Seat
  stage : StageEnt
  gr    : Group
  lanes : List Nat
  pc    : Nat
deriving Repr

/-- The lowest-numbered executing lane (R128). -/
def Iss.low (i : Iss) : Nat := i.lanes.headD 0

/-- A read operand: its value, whether a part of it is poisoned, whether a parity is wrong. -/
structure OpVal where
  val    : Nat
  poison : Bool := false
  bad    : Bool := false
deriving DecidableEq, Repr

def ofReg (r : Reg32) : OpVal := { val := r.val.toNat, poison := r.poison, bad := regBad r }
def pairVal (lo hi : Reg32) : OpVal :=
  { val := lo.val.toNat + hi.val.toNat * 2 ^ 32, poison := lo.poison || hi.poison, bad := regBad lo || regBad hi }

/-- A system operand of lane `l` (R116). -/
def sysVal (i : Iss) (l : Nat) : SysOp → Nat
  | .lane => l
  | .group => i.g
  | .rank => i.seat.rank
  | .tileX => i.t % 16
  | .tileY => i.t / 16
  | .stepCount => i.seat.ctx.stepCount % 2 ^ 64

/-- An operand in one lane (R114 to R116). -/
def opndVal (i : Iss) (l : Nat) : Opnd → OpVal
  | .imm v => { val := v % 2 ^ 64 }
  | .reg n => ofReg (gReg i.gr n l)
  | .pair n => pairVal (gReg i.gr n l) (gReg i.gr (n + 1) l)
  | .sreg j => pairVal (sReg i.seat.ctx j).lo (sReg i.seat.ctx j).hi
  | .sregHalf j hi => ofReg (if hi then (sReg i.seat.ctx j).hi else (sReg i.seat.ctx j).lo)
  | .sys o => { val := sysVal i l o }

/-- Register numbers that exist (R114, R115). -/
def opndOk : Opnd → Bool
  | .reg n => n < 64
  | .pair n => n < 64 && n % 2 == 0
  | .sreg j => j < 32
  | .sregHalf j _ => j < 32
  | _ => true

def dstOk : Dst → Bool
  | .reg n => n < 64
  | .pair n => n < 64 && n % 2 == 0
  | .sreg j => j < 32
  | .sregHalf j _ => j < 32

/-- Consumption of operands in a lane (R171, R357).
DESIGN CHOICE, unsafe (log 14). -/
def consumedIn (i : Iss) (ops : List Opnd) (l : Nat) : Option Half :=
  if ops.any fun o => (opndVal i l o).bad then some stRegParity
  else if ops.any fun o => (opndVal i l o).poison then some stPoisonConsumed
  else none

/-- Consumption by the lowest-numbered lane that consumes. -/
def consumed (i : Iss) (ops : List Opnd) (lanes : List Nat) : Option Half := lanes.findSome? (consumedIn i ops)

/-- A parity failure alone, for instructions that never consume poison (R171, R357).
DESIGN CHOICE, unsafe (log 14). -/
def parityFails (i : Iss) (ops : List Opnd) (lanes : List Nat) : Option Half :=
  if lanes.any fun l => ops.any fun o => (opndVal i l o).bad then some stRegParity else none

/-- A vector-unit register read (R171, R357). -/
def vConsumed (c : Ctx) (v : Nat) : Option Half :=
  (List.range 128).findSome? fun l =>
    if regBad (vReg c v l) then some stRegParity
    else if (vReg c v l).poison then some stPoisonConsumed
    else none

/-! ### Writing results -/

/-- Write a value of a lane: 32 bits to a register or half, 64 bits to a pair or stage register. -/
def writeDst (c : Ctx) (g : Nat) (dst : Dst) (l v : Nat) (poison : Bool := false) : Ctx :=
  match dst with
  | .reg n => modGroup c g fun gr => setReg gr n l v poison
  | .pair n => modGroup c g fun gr => setReg (setReg gr n l v poison) (n + 1) l (v / 2 ^ 32) poison
  | .sreg j => { c with sregs := tput c.sregs j { lo := mkReg v poison, hi := mkReg (v / 2 ^ 32) poison } }
  | .sregHalf j hi =>
    let s := sReg c j
    { c with sregs := tput c.sregs j (if hi then { s with hi := mkReg v poison } else { s with lo := mkReg v poison }) }

/-- Results of several lanes, in rising lane order (R131).
DESIGN CHOICE, unsafe (log 14). -/
def writeLanes (d : Dev) (i : Iss) (dst : Dst) (rs : List (Nat × Nat × Bool)) : Dev :=
  modCtx d i.t i.key fun c => rs.foldl (fun c r => writeDst c i.g dst r.1 r.2.1 r.2.2) c

/-- One result written to every executing lane (R128). -/
def writeAll (d : Dev) (i : Iss) (dst : Dst) (v : Nat) (poison : Bool := false) : Dev :=
  writeLanes d i dst (i.lanes.map fun l => (l, v, poison))

/-! ### Stage-buffer ranges (R149) -/

/-- The range reaches past the stage buffer. -/
def sbBeyond (a n : Nat) : Bool := decide (a + n > 0x100000)

/-- The range lies wholly within one region of the seat. -/
def inRegion (s : Seat) (a n : Nat) : Bool :=
  decide (s.keptBase * 1024 ≤ a ∧ a + n ≤ (s.keptBase + s.keptSize) * 1024) ||
  decide (s.swapBase * 1024 ≤ a ∧ a + n ≤ (s.swapBase + s.swapSize) * 1024)

def sbOk (s : Seat) (a n : Nat) : Bool := !sbBeyond a n && inRegion s a n

end Sys2Proof.Machine
end

