-- ==== Sys2Proof/Machine/RandomUnit.lean ====
section
/-! DEFINITION. The stream generators (R239 to R245), the bits of a draw (R242, R244), rounding bits (R250), and the
correctly rounded exponential and logarithm of VSAMPLE (R252). -/
namespace Sys2Proof.Machine
open Sys2Proof

/-! ### Generators -/

/-- The output word of a state (R239). -/
def genOut (s0 s1 : DWord) : DWord := (s0 + s1).rotateLeft 23 + s0

/-- The state after one step (R239). -/
def genStep (s : DWord × DWord) : DWord × DWord :=
  let t := s.1 ^^^ (s.1 <<< 23)
  (s.2, t ^^^ s.2 ^^^ (t >>> 17) ^^^ (s.2 >>> 26))

/-- A state as 128 bits: s0 in the low half. -/
def genBits (s : DWord × DWord) : Nat := s.1.toNat + s.2.toNat * 2 ^ 64
def genOfBits (x : Nat) : DWord × DWord := (BitVec.ofNat 64 x, BitVec.ofNat 64 (x / 2 ^ 64))

/-- A linear map of the 128 state bits, by the images of the bits. -/
abbrev GenMap := List Nat

/-- The image of `x`: the XOR of the images of its bits. -/
def genApply : GenMap → Nat → Nat
  | [], _ => 0
  | m :: t, x => if x % 2 = 1 then Nat.xor m (genApply t (x / 2)) else genApply t (x / 2)

def genCompose (a b : GenMap) : GenMap := b.map (genApply a)

/-- The map of one step. -/
def genStepMap : GenMap := (List.range 128).map fun i => genBits (genStep (genOfBits (2 ^ i)))

/-- The map of one jump: 2⁶⁴ steps (R240). -/
def genJumpMap : GenMap := iter (fun m => genCompose m m) 64 genStepMap

/-- The state advanced by `b` jumps, for `b` below 2ⁿ: the map is squared once for each bit. -/
def genJumps : Nat → GenMap → Nat → Nat → Nat
  | 0, _, _, x => x
  | n + 1, m, b, x =>
    if b = 0 then x else genJumps n (genCompose m m) (b / 2) (if b % 2 = 1 then genApply m x else x)

def jumpBy (b : Nat) (s : DWord × DWord) : DWord × DWord := genOfBits (genJumps 64 genJumpMap b (genBits s))

/-- A derived state (R241). -/
def derivedState (domain : Nat) (key : List Byte) : DWord × DWord :=
  let h := shake256 (BitVec.ofNat 8 domain :: key) 16
  let s0 := leAt h 0 8
  let s1 := leAt h 8 8
  (BitVec.ofNat 64 (if s0 = 0 ∧ s1 = 0 then 1 else s0), BitVec.ofNat 64 s1)

/-- The logical key state of a seed and tensor key. -/
def logicalState (lo hi tkey : DWord) : DWord × DWord :=
  derivedState 0x4C (leBytes 8 lo.toNat ++ leBytes 8 hi.toNat ++ leBytes 8 tkey.toNat)

/-- The physical key state of a seed on tile `t`.
DEDUCED, unsafe (log 39). -/
def physicalState (lo hi : DWord) (t : Nat) : DWord × DWord :=
  derivedState 0x50 (leBytes 8 lo.toNat ++ leBytes 8 hi.toNat ++ leBytes 2 t)

/-- Output words from a state, as one bit string. -/
def genString : Nat → DWord × DWord → Nat
  | 0, _ => 0
  | n + 1, s => (genOut s.1 s.2).toNat + genString n (genStep s) * 2 ^ 64

/-- The bits of an element under logical keying (R242). -/
def logicalBits (key : DWord × DWord) (c e : Nat) : Nat :=
  let e := e % 2 ^ 48
  let j := e % 64
  bits (genString ((c * j + c + 63) / 64) (jumpBy (e / 64) key)) (c * j + c - 1) (c * j)

/-! ### Physical generators of a tile (R244, R245) -/

def genOf (tl : Tile) (n : Nat) : Gen := tget { s0 := 1, s1 := 0 } tl.gens n

/-- Take `c` bits from a generator, 1 ≤ c ≤ 64. -/
def genTake (x : Gen) (c : Nat) : Gen × Nat :=
  let v := bits (genString 2 (x.s0, x.s1)) (x.pos + c - 1) x.pos
  if x.pos + c < 64 then ({ x with pos := x.pos + c }, v)
  else
    let s := genStep (x.s0, x.s1)
    ({ s0 := s.1, s1 := s.2, pos := x.pos + c - 64 }, v)

/-- Start the 128 generators of tile `t` from a seed (R244).
DESIGN CHOICE, safe (log 40). -/
def seedGens (lo hi : DWord) (t : Nat) : Tab Gen :=
  let s := genBits (physicalState lo hi t)
  let m := genJumpMap
  ((List.range 128).foldl (fun (acc : Tab Gen × Nat) g =>
    (acc.1 ++ [(g, { s0 := (genOfBits acc.2).1, s1 := (genOfBits acc.2).2 })], genApply m acc.2)) ([], s)).1

/-- One jump of a generator, discarding the rest of its current word (R247). -/
def genJump (x : Gen) : Gen :=
  let s := if x.pos = 0 then (x.s0, x.s1) else genStep (x.s0, x.s1)
  let s := jumpBy 1 s
  { s0 := s.1, s1 := s.2 }

/-- Where the bits of a draw come from: seed, tensor key, base index, physical keying. -/
structure Keying where
  lo    : DWord
  hi    : DWord
  tkey  : DWord
  base  : Nat
  phys  : Bool
deriving DecidableEq, Repr

/-- Note a key state in the key cache of 16 (R249).
DESIGN CHOICE, safe (log 41). -/
def noteKey (tl : Tile) (k : Keying) : Tile :=
  if k.phys then tl
  else
    let e := (k.lo, k.hi, k.tkey)
    { tl with keyCache := (e :: tl.keyCache.filter (fun x => !(x == e))).take 16 }

/-- Draw `c` bits for each (generator, element index): the tile after it and the values in order. -/
def drawBits (tl : Tile) (k : Keying) (c : Nat) (es : List (Nat × Nat)) : Tile × List Nat :=
  if k.phys then
    es.foldl (fun (acc : Tile × List Nat) e =>
      let (x, v) := genTake (genOf acc.1 e.1) c
      ({ acc.1 with gens := tput acc.1.gens e.1 x }, acc.2 ++ [v])) (tl, [])
  else
    let key := logicalState k.lo k.hi k.tkey
    (noteKey tl k, es.map fun e => logicalBits key c e.2)

/-! ### Rounding bits (R224, R250) -/

/-- The keying in stage registers 28 to 31 as they stand. -/
def roundKeying (c : Ctx) : Keying :=
  { lo := BitVec.ofNat 64 (sRegVal c 28), hi := BitVec.ofNat 64 (sRegVal c 29), tkey := BitVec.ofNat 64 (sRegVal c 30),
    base := bits (sRegVal c 31) 47 0, phys := bitAt (sRegVal c 31) 63 }

/-- Bits per element of a rounding mode (R222): 0 for RNE. -/
def roundBits (mode : Nat) : Nat := if mode = 1 then 4 else if mode = 2 then 3 else 0

/-- The fault of an instruction that rounds by stage registers 28 to 31 (R171, R250, R357). -/
def roundFault (i : Iss) (mode : Nat) : Option Half :=
  if mode = 0 then none
  else match consumed i [.sreg 28, .sreg 29, .sreg 30, .sreg 31] [0] with
    | some st => some st
    | none => if bits (sRegVal i.seat.ctx 31) 62 48 ≠ 0 then some stRandOperand else none

/-- The rounding of each element, in order. -/
def roundings (tl : Tile) (k : Keying) (mode : Nat) (es : List (Nat × Nat)) : Tile × List Rounding :=
  let c := roundBits mode
  if c = 0 then (tl, es.map fun _ => .rne)
  else
    let (tl, rs) := drawBits tl k c es
    (tl, rs.map fun r => .stochastic c r)

/-! ### Correctly rounded log2 and exp2 (R252) -/

/-- `n` bits of the fraction of log2 of m ÷ 2^p, for 2^p ≤ m < 2^(p+1), by repeated squaring. -/
def log2Frac (p : Nat) : Nat → Nat → Nat → Nat
  | 0, _, acc => acc
  | n + 1, m, acc =>
    let q := (m * m) >>> p
    if q ≥ 2 ^ (p + 1) then log2Frac p n (q / 2) (2 * acc + 1) else log2Frac p n q (2 * acc)

/-- log2, correctly rounded to nearest even. -/
def log2Exact (x : Word) : Word :=
  match fp32Val x with
  | .nan => 0x7FC00000
  | .inf s => if s then 0x7FC00000 else 0x7F800000
  | .fin s m e =>
    if m = 0 then 0xFF800000
    else if s then 0x7FC00000
    else
      let k := Nat.log2 m
      let ip : Int := (k : Int) + e
      if m = 2 ^ k then fp32Round (intVal ip)
      else
        -- the fraction never ends, so one further bit keeps the sum away from a tie
        let f := 2 * log2Frac 256 128 (m <<< (256 - k)) 0 + 1
        let v : Int := ip * ((2 ^ 129 : Nat) : Int) + (f : Int)
        fp32Round (.fin (decide (v < 0)) v.natAbs (-129))

/-- 2^(f ÷ 2^n) as a multiple of 2^(−256), by square roots of 2. -/
def exp2Frac : Nat → Nat → Nat → Nat → Nat
  | 0, _, _, acc => acc
  | n + 1, f, r, acc =>
    let r := isqrt (r <<< 256)
    exp2Frac n f r (if bitAt f n then (acc * r) >>> 256 else acc)

/-- exp2, correctly rounded to nearest even. -/
def exp2Exact (x : Word) : Word :=
  match fp32Val x with
  | .nan => 0x7FC00000
  | .inf s => if s then 0 else 0x7F800000
  | .fin s m e =>
    if m = 0 || decide (topExp m e < -30) then 0x3F800000
    else if decide (topExp m e ≥ 9) then (if s then 0 else 0x7F800000)
    else
      -- x as a multiple of 2^(−64): exact, since its last bit is at or above 2^(−54)
      let k := signedAt s m (e + 64) 0
      let ip := k / ((2 ^ 64 : Nat) : Int)
      let f := (k % ((2 ^ 64 : Nat) : Int)).toNat
      if f = 0 then fp32Round (.fin false 1 ip)
      else fp32Round (.fin false (2 * exp2Frac 64 f (2 ^ 257) (2 ^ 256) + 1) (ip - 257))

end Sys2Proof.Machine
end

