-- ==== Sys2Proof/Machine/EaselUnit.lean ====
section
/-! DEFINITION. The easel's arithmetic and queue (R174 to R192): operand pairs, products and column sums, held operands,
chains, and what completing, cutting and discarding instructions do. -/
namespace Sys2Proof.Machine
open Sys2Proof

/-! ### Operand pairs (R174, R211, R219) -/

/-- A pair: formats of the held and streamed operands, P, held and streamed row bytes, passes as (piece of the
streamed operand, piece of the held operand), scaled, integer accumulation. -/
structure PairInfo where
  held      : Nat
  stream    : Nat
  p         : Nat
  heldRow   : Nat
  streamRow : Nat
  passes    : List (Nat × Nat) := [(0, 0)]
  scaled    : Bool := false
  int       : Bool := false
deriving DecidableEq, Repr

def pairInfo (code : Nat) : Option PairInfo :=
  if code = 0x01 then some { held := 3, stream := 3, p := 1, heldRow := 256, streamRow := 256 }
  else if code = 0x02 then some { held := 0x0A, stream := 0x0A, p := 1, heldRow := 128, streamRow := 128, int := true }
  else if code = 0x03 then some { held := 4, stream := 4, p := 2, heldRow := 256, streamRow := 256 }
  else if code = 0x04 then some { held := 5, stream := 5, p := 2, heldRow := 256, streamRow := 256 }
  else if code = 0x05 then some { held := 6, stream := 6, p := 2, heldRow := 192, streamRow := 192 }
  else if code = 0x06 then some { held := 7, stream := 7, p := 2, heldRow := 192, streamRow := 192 }
  else if code = 0x07 then some { held := 0x0B, stream := 0x0B, p := 2, heldRow := 128, streamRow := 128, int := true }
  else if code = 0x08 then some { held := 8, stream := 8, p := 4, heldRow := 256, streamRow := 256 }
  else if code = 0x09 then some { held := 0x0C, stream := 0x0A, p := 4, heldRow := 128, streamRow := 512, int := true }
  else if code = 0x0A then some { held := 0x0D, stream := 0x0A, p := 4, heldRow := 128, streamRow := 512, int := true }
  else if code = 0x0B then some { held := 0x0E, stream := 0x0A, p := 8, heldRow := 128, streamRow := 1024, int := true }
  else if code = 0x0C then some { held := 0x0F, stream := 0x0A, p := 8, heldRow := 128, streamRow := 1024, int := true }
  else if code = 0x0D then
    some { held := 2, stream := 2, p := 1, heldRow := 256, streamRow := 256, passes := [(1, 0), (0, 1), (0, 0)] }
  else if code = 0x0E then
    some { held := 1, stream := 1, p := 1, heldRow := 512, streamRow := 512,
           passes := [(2, 0), (1, 1), (0, 2), (1, 0), (0, 1), (0, 0)] }
  else if code = 0x0F then
    some { held := 2, stream := 2, p := 1, heldRow := 256, streamRow := 256, passes := [(1, 1), (1, 0), (0, 1), (0, 0)] }
  else if code = 0x10 then
    some { held := 1, stream := 1, p := 1, heldRow := 512, streamRow := 512,
           passes := [(2, 2), (2, 1), (1, 2), (2, 0), (1, 1), (0, 2), (1, 0), (0, 1), (0, 0)] }
  else if code = 0x82 then some { held := 0x0A, stream := 0x0A, p := 1, heldRow := 128, streamRow := 128, scaled := true }
  else if code = 0x83 then some { held := 4, stream := 4, p := 2, heldRow := 256, streamRow := 256, scaled := true }
  else if code = 0x84 then some { held := 5, stream := 5, p := 2, heldRow := 256, streamRow := 256, scaled := true }
  else if code = 0x85 then some { held := 6, stream := 6, p := 2, heldRow := 192, streamRow := 192, scaled := true }
  else if code = 0x86 then some { held := 7, stream := 7, p := 2, heldRow := 192, streamRow := 192, scaled := true }
  else if code = 0x88 then some { held := 8, stream := 8, p := 4, heldRow := 256, streamRow := 256, scaled := true }
  else none

/-- K of one pass. -/
def PairInfo.k (p : PairInfo) : Nat := 128 * p.p

/-- The held operand fills both banks (R175). -/
def PairInfo.wide (p : PairInfo) : Bool := p.held == 1

/-! ### Products -/

/-- Piece `i` of a finite operand of format `fmt` (R218); the whole value where the format is not split. -/
def piece (fmt i : Nat) (v : FVal) : FVal :=
  match v with
  | .fin s m e =>
    if fmt = 2 then (if i = 0 then .fin s (m / 8) (e + 3) else .fin s (m % 8) e)
    else if fmt = 1 then
      (if i = 0 then .fin s (m / 65536) (e + 16) else if i = 1 then .fin s (m / 256 % 256) (e + 8) else .fin s (m % 256) e)
    else v
  | _ => v

def isFinite (v : FVal) : Bool := match v with
  | .fin _ _ _ => true
  | _ => false

/-- One product of a pass, in FP32 (R214, R215, R219). `scale` is the power of two of R214; `none` is a NaN scale. -/
def fpProduct (p : PairInfo) (pass : Nat × Nat) (lastPass : Bool) (scale : Option Int) (a b : FVal) : Word :=
  match scale with
  | none => 0x7FC00000
  | some x =>
    let split := p.passes.length > 1
    if split && !(isFinite a && isFinite b) then
      (if lastPass then fp32Round (vmul a b) else 0)
    else
      let v := if split then vmul (piece p.stream pass.1 a) (piece p.held pass.2 b) else vmul a b
      fp32Round (vmul v (.fin false 1 x))

/-- Sum in order, starting with the first product unchanged (R186). -/
def fpSum : List Word → Word
  | [] => 0
  | x :: t => t.foldl fadd x

/-- The exact value of an integer element. -/
def intOf (v : FVal) : Int := match v with
  | .fin s m e => signedAt s m e 0
  | _ => 0

/-- Integer sum in order, counting clamps (R217). -/
def intSum (sat : Bool) : List Int → Word × Nat
  | [] => (0, 0)
  | x :: t => t.foldl (fun acc y => let (w, n) := intAcc sat acc.1 (BitVec.ofInt 32 y); (w, acc.2 + n)) (BitVec.ofInt 32 x, 0)

/-- A held operand as it stands in the cells. -/
structure HeldOp where
  rows   : List Nat
  scales : List Byte
deriving DecidableEq, Repr

/-- Held element H[i][c] as a value; rows that no HOLD loaded read as zero (R178, R205). -/
def heldElem (p : PairInfo) (h : HeldOp) (i c : Nat) : FVal :=
  match h.rows[i / p.p]? with
  | none => .fin false 0 0
  | some r => elemVal p.held (packedElem r (fmtWidth p.held) (p.p * c + i % p.p))

/-- The scale of a product: (Xa + Xb − 254), with MXINT8's factor (R213, R214). -/
def scaleOf (p : PairInfo) (xa xb : Nat) : Option Int :=
  if !p.scaled then some 0
  else if xa = 255 || xb = 255 then none
  else some ((xa : Int) + (xb : Int) - 254 - (if p.held = 0x0A then 12 else 0))

/-- Column sums of one streamed row, with the clamps counted (R186, R219). -/
def columnSums (p : PairInfo) (sat : Bool) (h : HeldOp) (a : List FVal) (sa : List Nat) : List Word × Nat :=
  let cols := (List.range 128).map fun c =>
    let hs := (List.range p.k).map fun i => heldElem p h i c
    if p.int then intSum sat (List.zipWith (fun x y => intOf x * intOf y) a hs)
    else
      let ab := a.zip (hs.mapIdx fun i b => (b, scaleOf p (sa.getD (i / 32) 127)
        (match h.scales[128 * (i / 32) + c]? with
          | some x => x.toNat
          | none => 127)))
      let ss := p.passes.map fun q =>
        fpSum (ab.map fun x => fpProduct p q (q == p.passes.getLastD (0, 0)) x.2.2 x.1 x.2.1)
      (fpSum ss, 0)
  (cols.map (·.1), (cols.map (·.2)).foldl (· + ·) 0)

/-- A ← A + S for a row (R186). -/
def addRow (p : PairInfo) (sat : Bool) (acc s : List Word) : List Word × Nat :=
  if p.int then
    let r := List.zipWith (intAcc sat) acc s
    (r.map (·.1), (r.map (·.2)).foldl (· + ·) 0)
  else (List.zipWith fadd acc s, 0)

/-! ### Tiles' easels -/

def easelOf (d : Dev) (t : Nat) : Easel := (tileOf d t).easel
def modEasel (d : Dev) (t : Nat) (f : Easel → Easel) : Dev := modTile d t fun tl => { tl with easel := f tl.easel }

/-- Add to SAT, NAN_LOST and BAD_WEIGHT of a tile (R233). -/
def countArith (d : Dev) (t sat lost bad : Nat) : Dev :=
  if sat = 0 && lost = 0 && bad = 0 then d
  else regBump (regBump (regBump d .arithEvents [t] 31 0 sat) .arithEvents [t] 47 32 lost) .arithEvents [t] 63 48 bad

/-- The stage's INT_ACC saturates (R70). -/
def intSaturates (d : Dev) (t : Nat) : Bool :=
  match curSeat d t with
  | none => false
  | some (_, s) => match canvasOf d s.canvas with
    | none => false
    | some c => (stageOf c s.stage).intAcc == 1

/-- Release lanes that wait in the easel for instruction `op`: they go on past it (R183). -/
def retireLanes (d : Dev) (t : Nat) (op : EaselOp) : Dev :=
  match (tileOf d t).cur with
  | none => d
  | some k => modCtx d t k fun c => modGroup c op.group fun gr =>
      modLanes gr (bitList 32 op.lanes) fun l =>
        if l.wait == .easel && l.pc == op.pc then { l with wait := .ready, pc := op.pc + 1 } else l

/-- Lanes of an instruction that is dropped are left at it, to issue it again (R190). -/
def unretireLanes (d : Dev) (t : Nat) (op : EaselOp) : Dev :=
  match (tileOf d t).cur with
  | none => d
  | some k => modCtx d t k fun c => modGroup c op.group fun gr =>
      modLanes gr (bitList 32 op.lanes) fun l =>
        if l.wait == .easel && l.pc == op.pc then { l with wait := .ready } else l

/-- Whether an instruction of group `g` numbered below `n` is unfinished: not retired, or its rows not written. -/
def easelBusy (e : Easel) (g n : Nat) : Bool :=
  (e.queue.any fun q => q.group == g && decide (q.id < n)) ||
  (e.chains.any fun c => c.members.any fun m => m.1 == g && decide (m.2 < n))

/-- A lane whose EASEL.WAIT is over goes on (R179). -/
def wakeLane (e : Easel) (g : Nat) (l : Lane) : Lane :=
  match l.wait with
  | .easelWait n => if easelBusy e g n then l else { l with wait := .ready, pc := l.pc + 1 }
  | _ => l

def wakeGroup (e : Easel) (g : Nat) (gr : Group) : Group := { gr with lanes := gr.lanes.map (wakeLane e g) }

/-- Let go the lanes whose EASEL.WAIT is over. -/
def wakeEaselWaits (d : Dev) (t : Nat) : Dev :=
  match (tileOf d t).cur with
  | none => d
  | some k =>
    let e := easelOf d t
    modCtx d t k fun c => { c with groups := tmap (wakeGroup e) c.groups }

/-- Remove an instruction from the queue. -/
def dropOp (d : Dev) (t : Nat) (op : EaselOp) : Dev :=
  modEasel d t fun e => { e with queue := e.queue.filter fun q => !(q.id == op.id) }

/-! ### Held operands -/

/-- Scale bytes that a hold of ROWS rows reads (R213). -/
def holdScaleBytes (p : PairInfo) (rows : Nat) : Nat := if p.scaled then ceilDiv (p.p * rows) 32 * 128 else 0

/-- Read the source that an operation names, each row as it loads: the device, the rows, the scales, and whether a word
was poisoned (R178). -/
def readHold (d : Dev) (t : Nat) (p : PairInfo) (op : EaselOp) : Dev × List (List Byte) × List Byte × Bool :=
  let (d, rs, bad) := (List.range op.rows).foldl (fun (acc : Dev × List (List Byte) × Bool) r =>
    let (d, bs, q) := sbReadRow acc.1 t op r (op.src + op.pitch * r) p.heldRow
    (d, acc.2.1 ++ [bs], acc.2.2 || q)) (d, [], false)
  let (d, sc, q) := sbRead d t op.scale (holdScaleBytes p op.rows)
  (d, rs, sc, bad || q)

/-- W2T codes 0b10 among the held elements (R210, R233). -/
def badWeights (p : PairInfo) (rows : List (List Byte)) : Nat :=
  if p.held ≠ 0x0D then 0
  else (rows.map fun r => ((List.range 512).filter fun i => packedElem (leNat r) 2 i == 2).length).foldl (· + ·) 0

/-- Put a held operand in its bank; FP32 fills both (R175). -/
def setHeld (e : Easel) (p : PairInfo) (bank : Nat) (rows : List (List Byte)) (scales : List Byte) (bad : Bool) : Easel :=
  if p.wide then { e with held0 := rows, scales0 := scales, held1 := [], scales1 := [], bad0 := bad, bad1 := bad }
  else if bank = 0 then { e with held0 := rows, scales0 := scales, bad0 := bad }
  else { e with held1 := rows, scales1 := scales, bad1 := bad }

def heldOf (e : Easel) (bank : Nat) : HeldOp :=
  if bank = 0 then { rows := e.held0.map leNat, scales := e.scales0 } else { rows := e.held1.map leNat, scales := e.scales1 }

def bankBad (e : Easel) (bank : Nat) : Bool := if bank = 0 then e.bad0 else e.bad1

/-- A reload of the bank is under way or to come; one of an FP32 record loads both banks (R191). -/
def bankReloads (e : Easel) (bank : Nat) : Bool :=
  let wide := match e.reload0 with
    | some h => (pairInfo h.fmt).any PairInfo.wide
    | none => false
  if bank = 0 then e.reload0.isSome else e.reload1.isSome || wide

def holdRecOf (s : Seat) (bank : Nat) : Option HoldRec := if bank = 0 then s.hold0 else s.hold1
def setHoldRec (s : Seat) (bank : Nat) (h : Option HoldRec) : Seat :=
  if bank = 0 then { s with hold0 := h } else { s with hold1 := h }

/-- A HOLD loads its rows and retires; `false` where a word was poisoned (R178, R188). -/
def finishHold (d : Dev) (t : Nat) (op : EaselOp) : Dev × Bool :=
  match pairInfo op.fmt with
  | none => (dropOp d t op, true)
  | some p =>
    let (d, rows, sc, bad) := readHold d t p op
    let d := countArith d t 0 0 (badWeights p rows)
    if bad then (d, false)
    else
      let d := modEasel d t fun e => setHeld e p op.bank rows sc false
      (wakeEaselWaits (dropOp (retireLanes d t op) t op) t, true)

/-! ### Feeding -/

/-- The gated stream's run-time entry and packet shape. -/
structure GateShape where
  rows : Nat
  cols : Nat
deriving DecidableEq, Repr

/-- One batch entry as the list in the stage buffer gives it (R196). -/
structure BatchEnt where
  slot : Nat
  rank : Nat
  rows : Nat
  addr : Nat
deriving DecidableEq, Repr

def batchEnt (w : Nat) : BatchEnt :=
  { slot := bits w 59 52, rank := bits w 51 36, rows := bits w 35 20, addr := bits w 19 0 }

/-- Batch row `n`: its entry and the row in it (R195). -/
def batchRow : List BatchEnt → Nat → Option (BatchEnt × Nat)
  | [], _ => none
  | e :: t, n => if n < e.rows then some (e, n) else batchRow t (n - e.rows)

/-- Elements of `k` codes of width `w` starting at element `first` of a byte row, zero at and past element `lim`. -/
def elemsAt (row : List Byte) (w first k lim : Nat) : List Nat :=
  let v := leNat row
  (List.range k).map fun i => if first + i < lim then packedElem v w (first + i) else 0

/-- The streamed elements of row `i`, with poison and its rounding key (R195, R250). -/
def feedRow (d : Dev) (t : Nat) (p : PairInfo) (op : EaselOp) (i : Nat) (cols : Nat) (list : List BatchEnt) (seqs : Tab Slot) :
    Dev × List Nat × Bool × (Nat × Nat × Nat) :=
  let w := fmtWidth p.stream
  if op.gather then
    match batchRow list (op.first + i) with
    | none => (d, List.replicate p.k 0, false, (0, 0, 0))
    | some (b, r) =>
      let lim := min cols (op.col + p.k)
      let lo := op.col * w / 8
      let hi := (lim * w + 7) / 8
      let (d, bs, q) := sbReadRow d t op i (b.addr + r * (cols * w / 8) + lo) (hi - lo)
      (d, elemsAt bs w 0 p.k (lim - op.col), q, ((tget {} seqs (256 * b.rank + b.slot)).seq, b.rank, r))
  else
    let (d, bs, q) := sbReadRow d t op i (op.src + op.pitch * i) p.streamRow
    (d, elemsAt bs w 0 p.k p.k, q, (0, 0, 0))

/-- The landing state that a gathered feed refers to: columns per packet row and the slots (R195). -/
def gateState (d : Dev) (t stream : Nat) : Nat × Tab Slot :=
  match curSeat d t with
  | none => (0, [])
  | some (_, s) => match canvasOf d s.canvas with
    | none => (0, [])
    | some c =>
      let cols := match c.streams[stream]? with
        | some e => e.cols
        | none => 0
      (cols, (tget {} (tget {} d.streams (65536 * s.canvas + stream)).cons s.rank).slots)

/-- All rows of an MMA enter: the new sums, clamps, keys, rows entered before a poisoned word. -/
structure Fed where
  d     : Dev
  rows  : List (List Word) := []
  sat   : Nat := 0
  keys  : List (Nat × Nat × Nat) := []
  bad   : Bool := false

/-- Feed the rows of an instruction onto the given sums (R185 to R188). `base` gives the running sum of a row. -/
def feedRows (d : Dev) (t : Nat) (p : PairInfo) (op : EaselOp) (old : List (List Word)) (joined : Bool) : Fed :=
  let h := heldOf (easelOf d t) op.bank
  let sat := intSaturates d t
  let (cols, seqs) := gateState d t op.stream
  let (d, lb, lq) := if op.gather then sbReadRow d t op 0 op.src (8 * op.entries) else (d, [], false)
  let list := (List.range op.entries).map fun n => batchEnt (leAt lb (8 * n) 8)
  (List.range op.rows).foldl (fun (f : Fed) i =>
    if f.bad then f
    else
      let (d, a, q, key) := feedRow f.d t p op i cols list seqs
      let ns := p.k / 32
      let si := if !op.gather && op.pitch = 0 then 0 else i
      let (d, sc, q2) := if p.scaled then sbReadRow d t op i (op.scale + ns * si) ns else (d, [], false)
      let (d, ar, q3) := if !joined && op.accMode then sbReadRow d t op i (op.acc + 512 * i) 512 else (d, [], false)
      if q || q2 || q3 then { f with d := d, bad := true }
      else
        let (s, n1) := columnSums p sat h (a.map (elemVal p.stream)) (sc.map (·.toNat))
        let base := if joined then some (old.getD i []) else if op.accMode then
            some ((List.range 128).map fun c => BitVec.ofNat 32 (leAt ar (4 * c) 4)) else none
        let (row, n2) := match base with
          | some b => addRow p sat b s
          | none => (s, 0)
        { d := regBump d .easelRows [t] 63 0 p.passes.length, rows := f.rows ++ [row], sat := f.sat + n1 + n2,
          keys := f.keys ++ [key] }) { d := d, bad := lq }

/-- An MMA feeds and retires; `false` where a word was poisoned (R177, R185, R188). -/
def finishMma (d : Dev) (t : Nat) (op : EaselOp) : Dev × Bool :=
  match pairInfo op.fmt, (easelOf d t).chains.find? fun c => c.id == op.chain with
  | some p, some ch =>
    let f := feedRows d t p op ch.sums ch.started
    let d := countArith f.d t f.sat 0 0
    if f.bad then (d, false)
    else
      let upd (c : Chain) : Chain := { c with sums := f.rows, started := true, last := op, keys := f.keys }
      let d := modEasel d t fun e => { e with chains := lmod (fun c => c.id == op.chain) upd e.chains }
      (wakeEaselWaits (dropOp (retireLanes d t op) t op) t, true)
  | _, _ => (dropOp d t op, true)

/-! ### Writing a chain (R180, R185) -/

/-- The value of an accumulator element (R212). -/
def accVal (p : PairInfo) (w : Word) : FVal := if p.int then intVal w.toInt else fp32Val w

/-- Generator and element index of column `c` of result row `i` (R250). -/
def outIndex (ch : Chain) (rowsPer i c : Nat) : Nat × Nat :=
  let op := ch.last
  let base := bits op.key31.toNat 47 0
  if op.gather then
    let (s, r, q) := ch.keys.getD i (0, 0, 0)
    (c, (base + 128 * (rowsPer * (256 * s + r) + q) + c) % 2 ^ 48)
  else (c, base + 128 * i + c)

/-- Packet rows of the stream that a gathered instruction feeds from. -/
def packetRows (d : Dev) (t stream : Nat) : Nat :=
  match curSeat d t with
  | none => 0
  | some (_, s) => match canvasOf d s.canvas with
    | none => 0
    | some c => match c.streams[stream]? with
      | some e => e.rows
      | none => 0

/-- Write the rows of a chain: to ACC, or converted to OUT. -/
def writeChainRows (d : Dev) (t : Nat) (ch : Chain) : Dev :=
  let op := ch.last
  match pairInfo op.fmt with
  | none => d
  | some p =>
    if !op.outMode then
      (ch.sums.mapIdx fun i r => (i, r)).foldl (fun d e =>
        sbWrite d t (op.acc + 512 * e.1) (e.2.flatMap fun w => leBytes 4 w.toNat) false) d
    else
      let k : Keying := { lo := op.seedLo, hi := op.seedHi, tkey := op.tkey, base := bits op.key31.toNat 47 0,
                          phys := bitAt op.key31.toNat 63 }
      let w := fmtWidth op.outFmt
      let pr := packetRows d t op.stream
      (ch.sums.mapIdx fun i r => (i, r)).foldl (fun d e =>
        let (tl, rds) := roundings (tileOf d t) k op.round ((List.range 128).map (outIndex ch pr e.1))
        let cs := List.zipWith (fun v rd => toElem op.outFmt rd false (accVal p v)) e.2 rds
        let d := countArith (putTile d t tl) t ((cs.map (·.sat)).foldl (· + ·) 0) ((cs.map (·.lost)).foldl (· + ·) 0) 0
        sbWrite d t (op.out + op.outPitch * e.1) (leBytes (128 * w / 8) (packElems w (cs.map (·.x)))) false) d

/-- Whether an instruction that has entered the queue and not fed belongs to the chain. -/
def chainPending (e : Easel) (ch : Chain) : Bool := e.queue.any fun q => !q.hold && q.queued && q.chain == ch.id

/-- A chain writes and frees its exit buffer; lanes in EASEL.WAIT for it go on. -/
def writeChain (d : Dev) (t : Nat) (ch : Chain) : Dev :=
  let d := if ch.started then writeChainRows d t ch else d
  wakeEaselWaits (modEasel d t fun e => { e with chains := e.chains.filter fun c => !(c.id == ch.id) }) t

/-- Every chain writes the sums of its complete instructions (R188, R190). -/
def writeAllChains (d : Dev) (t : Nat) : Dev := (easelOf d t).chains.foldl (fun d c => writeChain d t c) d

/-- Complete the begun instructions that satisfy `p`; one that meets a poisoned word writes nothing. -/
def completeBegun (d : Dev) (t : Nat) (p : EaselOp → Bool) : Dev :=
  ((easelOf d t).queue.filter fun q => feeding (easelOf d t) q && p q).foldl (fun d q =>
    (if q.hold then finishHold d t q else finishMma d t q).1) d

/-! ### The current keeper's counts (R198, R200, R202) -/

/-- EASEL_KEEP comes into force: at a gap's beginning and at the tile's reset (R200). -/
def latchKeep (d : Dev) (t : Nat) : Dev :=
  modEasel d t fun e => { e with gap := regField d .easelKeep [t] 9 0, step := regField d .easelKeep [t] 31 24 }

/-- Count pace cycles with a dummy row, and those in which a ready row waited (R202).
DESIGN CHOICE, unsafe (log 36). -/
def countKept (d : Dev) (t kept wait : Nat) : Dev :=
  regBump (regBump d .easelIdle [t] 31 0 kept) .easelIdle [t] 63 32 wait

/-- A row that waits in RAMP_UP is withdrawn: the keeper turns down (R198). The part of the level that had run, a free
number of cycles, counts as kept and as waited.
DESIGN CHOICE, safe (log 36). -/
def withdrawRow (d : Dev) (t : Nat) : Dev :=
  let e := easelOf d t
  if e.keeper == .rampUp then
    let (n, d) := drawNat d
    let c := n % max 1 e.step
    modEasel (countKept d t c c) t fun e => { e with
      keeper := .rampDown, queue := e.queue.map fun q => if q.hold then q else { q with begun := false } }
  else d

/-- Issue stops for a sitting switch: feeding stops at a row boundary, and a row that waits is withdrawn (R190).
DESIGN CHOICE, unsafe (log 106). -/
def drainTile (d : Dev) (t : Nat) : Dev := modTile (withdrawRow d t) t fun tl => { tl with sw := .draining }

/-- Lanes in EASEL.WAIT for an instruction that is dropped are left at the EASEL.WAIT, to issue it again (R179, R190). -/
def reissueWaits (d : Dev) (t : Nat) (op : EaselOp) : Dev :=
  match (tileOf d t).cur with
  | none => d
  | some k => modCtx d t k fun c => modGroup c op.group fun gr => { gr with lanes := gr.lanes.map fun l =>
      match l.wait with
      | .easelWait n => if op.id < n then { l with wait := .ready } else l
      | _ => l }

/-- Discard what is left in the queue: the lanes stay unretired, and those that wait for it go on waiting. -/
def discardQueue (d : Dev) (t : Nat) : Dev :=
  let d := withdrawRow d t
  let d := (easelOf d t).queue.foldl (fun d q => reissueWaits (unretireLanes d t q) t q) d
  modEasel d t fun e => { e with queue := [] }

/-- The canvas halts for a fault elsewhere (R188). -/
def haltEasel (d : Dev) (t : Nat) : Dev := writeAllChains (discardQueue (completeBegun d t fun _ => true) t) t

/-- The easel at a sitting switch (R190): what has fed completes, the rest is cut. Rows of a cut instruction that have
entered are counted; how many is a free value.
DESIGN CHOICE, safe (log 106). -/
def cutEasel (d : Dev) (t : Nat) : Dev :=
  let e := easelOf d t
  let d := (e.queue.filter fun q => !q.hold && feeding e q).foldl (fun d q =>
    match pairInfo q.fmt with
    | none => d
    | some p => let (n, d) := drawNat d; regBump d .easelRows [t] 63 0 (n % (q.rows * p.passes.length))) d
  writeAllChains (discardQueue d t) t

end Sys2Proof.Machine
end

