-- ==== Sys2Proof/Machine/GroupEngine.lean ====
section
/-! DEFINITION. The group engine (R117 to R122, R132, R138 to R141): the path a group issues from, what an issued
instruction leaves of it, step boundaries, seats that leave, and stage faults. -/
namespace Sys2Proof.Machine
open Sys2Proof

/-! ### Canvases and their tiles -/

def modCanvas (d : Dev) (c : Nat) (f : Canvas → Canvas) : Dev :=
  match canvasOf d c with
  | some x => { d with canvases := tput d.canvases c (f x) }
  | none => d

/-- A host command names a canvas that a service owns (R483). -/
def svcOwned (w : Win) (c : Canvas) : Bool := match w with
  | .slot _ => c.owner.isSome
  | .core _ => false

/-- Tiles that a loaded canvas occupies. -/
def tilesOf (d : Dev) (c : Nat) : List Nat :=
  (d.tiles.filter fun e => e.2.canvas == some c).map (·.1)

def eachTile (d : Dev) (c : Nat) (f : Dev → Nat → Dev) : Dev := (tilesOf d c).foldl f d

/-- Stream run-time entries of a canvas. -/
def streamKey (c s : Nat) : Nat := 65536 * c + s
def streamRt (d : Dev) (c s : Nat) : StreamRt := tget {} d.streams (streamKey c s)
def modStream (d : Dev) (c s : Nat) (f : StreamRt → StreamRt) : Dev :=
  { d with streams := tput d.streams (streamKey c s) (f (streamRt d c s)) }

/-! ### Sitting switches: beginning (R79, R83) -/

/-- The switch begins its wait for a step boundary; at a boundary it drains at once. -/
def openYieldWait (d : Dev) (t : Nat) : Dev :=
  if (tileOf d t).atBoundary then drainTile d t else modTile d t fun tl => { tl with sw := .waitYield }

/-- MIN_SEAT is over: a rotation switch begins here, and is late when more than PERIOD after its due time (R83). -/
def beginSwitch (d : Dev) (t : Nat) : Dev :=
  let tl := tileOf d t
  let d := match tl.pendingSw, tl.canvas with
    | (order, due) :: _, some c =>
      let period := match canvasOf d c with
        | some x => x.period
        | none => 0
      if d.tb.now > due + period then
        let stage := match tfind tl.seats order with
          | some s => s.stage
          | none => 0
        logErr (regBump d .tileEvents [t] 31 0 1) stSeatOverrun ukTile t 3 0 (order % 256 + (stage <<< 8)) c
      else d
    | _, _ => d
  openYieldWait d t

/-- A seat is to be left: at once if MIN_SEAT is over, else when it is. -/
def askSwitch (d : Dev) (t : Nat) : Dev :=
  if (tileOf d t).minDone then beginSwitch d t else modTile d t fun tl => { tl with sw := .waitMinSeat }

/-- A tile leaves its seat with none following (R75, R86). -/
def leaveSeat (d : Dev) (t : Nat) : Dev :=
  let d := modTile d t fun tl => { tl with leaving := true, rotArmed := false, pendingSw := [] }
  match curSeat d t with
  | some (_, s) => if s.st == .seated && (tileOf d t).sw == .none then askSwitch d t else d
  | none => d

/-- Canvas stop and canvas end: every seat leaves at its next switch point. -/
def beginDrain (d : Dev) (c : Nat) : Dev :=
  eachTile (modCanvas d c fun x => { x with st := .draining }) c leaveSeat

/-! ### Faults (R75, R138 to R141, R188) -/

/-- TG_FAULT as a fault writes it. -/
def faultWord (g stage : Nat) (st : Half) : Nat := 2 ^ 63 + ((g % 256) <<< 48) + ((stage % 65536) <<< 32) + st.toNat

/-- TG_FAULT_PC as a fault writes it. -/
def faultPcWord (lanes pc : Nat) : Nat := ((lanes % 2 ^ 32) <<< 32) + pc % 2 ^ 15

/-- TG_FAULT of a tile for a fault: a MORE that software has not cleared stays (R140). -/
def faultValue (d : Dev) (t g stage : Nat) (st : Half) : Nat :=
  faultWord g stage st + (regBit d .tgFault [t] 62).toNat * 2 ^ 62

/-- A tile records a fault: the first in TG_FAULT and TG_FAULT_PC, a later one in MORE, each in the error log; a second
group's fault in the tick of the first sets MORE alone (R139, R140).
DESIGN CHOICE, unsafe (log 12). -/
def recordFault (d : Dev) (t g stage : Nat) (st : Half) (lanes pc addr c : Nat) : Dev :=
  if (tileOf d t).faultAt == some d.tb.now then regSetBit d .tgFault [t] 62
  else
    let v := faultValue d t g stage st
    let d := if regBit d .tgFault [t] 63 then regSetBit d .tgFault [t] 62
      else regPut (regPut d .tgFault [t] v) .tgFaultPc [t] (faultPcWord lanes pc)
    logErr (modTile d t fun tl => { tl with faultAt := some d.tb.now }) st ukTile t 2 addr v c

/-- A tile stops before its next instruction and keeps its contents; one that issued is noted as halted at this tick. -/
def haltTile (now : Nat) (tl : Tile) : Tile :=
  let live : Bool := !tl.atBoundary && (tl.cur.bind (tfind tl.seats ·)).any fun s => s.st == .seated
  { tl with seats := tmap (fun _ s => { s with st := .parked }) tl.seats, sw := .none, pendingSw := [], leaving := false,
            rotArmed := false, haltAt := if live then some now else none }

/-- A canvas halts: every tile stops before its next instruction, held writes end, the start handle completes with the
fault. A stop that was draining the canvas ends with the same status and no results.
DESIGN CHOICE, unsafe (log 119). -/
def haltCanvas (d : Dev) (c : Nat) (st : Half) (r0 r1 : Nat) : Dev :=
  match canvasOf d c with
  | none => d
  | some x =>
    if !(x.st == .running || x.st == .draining || x.st == .armed) then d
    else
      let d := eachTile d c fun d t => modTile (haltEasel d t) t (haltTile d.tb.now)
      let d := (List.range x.streams.length).foldl (fun d s => modStream d c s fun r => { r with held := [] }) d
      let d := completeOpt (completeOpt d x.startOp st r0 r1) x.stopOp st
      modCanvas d c fun x => { x with st := .faulted, startOp := none, stopOp := none, faultSt := st }

/-- A stage fault on tile `t`: record, halt, complete the start handle (R456).
DESIGN CHOICE, unsafe (log 12). -/
def stageFault (d : Dev) (t g : Nat) (st : Half) (lanes pc : Nat) (addr : Nat := 0) : Dev :=
  match curSeat d t with
  | none => d
  | some (_, s) =>
    let v := faultValue d t g s.stage st
    haltCanvas (recordFault d t g s.stage st lanes pc addr s.canvas) s.canvas st v
      (t % 65536 + ((faultPcWord lanes pc % 2 ^ 32) <<< 16))

/-! ### Steps (R117 to R119) -/

/-- A new step: fresh groups, barriers invalid, hold records invalid (R117, R134, R189). -/
def startStep (d : Dev) (t k : Nat) : Dev :=
  let d := modSeat d t k fun s => { s with
    hold0 := none, hold1 := none, ctx := { s.ctx with groups := [], barriers := [], mid := false } }
  modTile d t fun tl => { tl with atBoundary := false }

def groupEnded (gr : Group) : Bool := gr.lanes.all fun l => !l.live || l.yielded

/-- The step boundary, when every group has yielded or exited (R60, R119). -/
def checkBoundary (d : Dev) (t k groups : Nat) : Dev :=
  let c := ctxAt d t k
  if (List.range groups).all fun g => groupEnded (groupOf c g) then
    let d := modCtx d t k fun c => { c with stepCount := (c.stepCount + 1) % 2 ^ 64 }
    let d := modTile d t fun tl => { tl with atBoundary := true }
    if (tileOf d t).sw == .waitYield then drainTile d t else d
  else d

/-! ### Paths (R120, R121) -/

/-- A lane of a runnable path that executes what is issued for it. -/
def laneReady (l : Lane) : Bool := l.live && !l.yielded && l.wait == .ready

/-- Executing lanes at a program counter. -/
def execLanes (gr : Group) (pc : Nat) : List Nat :=
  (List.range 32).filter fun l => laneReady (laneAt gr l) && (laneAt gr l).pc == pc

/-- Program counters of the runnable paths, rising. -/
def readyPcs (gr : Group) : List Nat :=
  (gr.lanes.filter laneReady).foldl (fun acc l => nadd l.pc acc) []

/-- The runnable path that follows one: the smallest program counter above it, else the smallest.
DEDUCED, unsafe (log 11). -/
def nextPath (gr : Group) (pc : Nat) : Option Nat :=
  match (readyPcs gr).find? fun p => decide (pc < p) with
  | some p => some p
  | none => (readyPcs gr).head?

/-- The path that the group issues from now, with its instruction count.
DEDUCED, unsafe (log 11). -/
def pickPath (gr : Group) : Option (Nat × Nat) :=
  if gr.pathRun < 64 && nmem gr.pathPc (readyPcs gr) then some (gr.pathPc, gr.pathRun)
  else (nextPath gr gr.pathPc).map fun p => (p, 0)

/-- Leave the current path. With no runnable path the choice is made when there is one.
DEDUCED, unsafe (log 11). -/
def leavePath (gr : Group) : Group :=
  match nextPath gr gr.pathPc with
  | some p => { gr with pathPc := p, pathRun := 0 }
  | none => { gr with pathRun := 64 }

/-- The current path after an issue: the part with the lane that was lowest.
DEDUCED, unsafe (log 11). -/
def notePath (gr : Group) (low run : Nat) : Group :=
  let gr := { gr with pathPc := (laneAt gr low).pc, pathRun := run }
  if run ≥ 64 then leavePath gr else gr

/-! ### Issue -/

/-- What an issued instruction does: it goes on to the next word, its lanes stay at it, each lane goes to a program
counter of its own, it must wait (only host snoops began), or it faults. -/
inductive Issued where
  | done (d : Dev)
  | stay (d : Dev)
  | jump (d : Dev) (pcs : List (Nat × Nat))
  | stall (d : Dev)
  | fault (st : Half) (addr : Nat)
  /-- A fault that the instruction meets on its way: what was done before it stays (R356, R361). -/
  | faultIn (d : Dev) (st : Half) (addr : Nat)

/-- A tile that another tile's fault halted at this very tick, as it stood before: an instruction of its own may fault in
the same tick (R139). -/
def asBefore (d : Dev) (t : Nat) : Option Dev :=
  let tl := tileOf d t
  match tl.haltAt == some d.tb.now, tl.cur, tl.canvas with
  | true, some k, some c => some (modSeat (modCanvas d c fun x => { x with st := .running }) t k fun s => { s with st := .seated })
  | _, _, _ => none

/-- The seat of tile `t` issues instructions for group `g`: seated, RUNNING or DRAINING, no switch past its waits,
within a step, the tile powered. -/
def issuer (d : Dev) (t g : Nat) : Option (Nat × Seat × Canvas) :=
  let tl := tileOf d t
  match curSeat d t with
  | none => none
  | some (k, s) => match canvasOf d s.canvas with
    | none => none
    | some c =>
      if !d.creset.active && s.st == .seated && (c.st == .running || c.st == .draining) && tl.pwr == .run && !tl.atBoundary
          && (tl.sw == .none || tl.sw == .waitMinSeat || tl.sw == .waitYield) && decide (g < (stageOf c s.stage).groups)
      then some (k, s, c) else none

def laneMask (l : List Nat) : Nat := ofBitList l

/-- An instruction of a tile that a fault elsewhere halts in the same tick: if it faults too, its tile records that, and
nothing else comes of it (R139).
DESIGN CHOICE, unsafe (log 12). -/
def lateFault (d : Dev) (t g : Nat) (ups : List Upset) (f : Dev → Iss → Issued) : Dev :=
  match (asBefore d t).bind fun d' => (issuer d' t g).map fun x => (d', x) with
  | none => d
  | some (d', k, s, c) =>
    let ctx := ups.foldl (fun x u => upset x g u) s.ctx
    let gr := groupOf ctx g
    match pickPath gr with
    | none => d
    | some (pc, _) =>
      let i : Iss := { t := t, g := g, cv := s.canvas, key := k, seat := { s with ctx := ctx },
                       stage := stageOf c s.stage, gr := gr, lanes := execLanes gr pc, pc := pc }
      let record (st : Half) (addr : Nat) : Dev := recordFault d t g s.stage st (laneMask i.lanes) pc addr s.canvas
      if pc ≥ i.stage.progSize / 8 then record stPcRange 0
      else match f d' i with
        | .fault st addr => record st addr
        | .faultIn _ st addr => record st addr
        | _ => d

/-- Issue one instruction for group `g` of tile `t` on its current path. A path that has run past the program faults as it
would issue, with the program counter that it reached.
DESIGN CHOICE, unsafe (log 120). -/
def issue (d : Dev) (t g : Nat) (ups : List Upset) (f : Dev → Iss → Issued) : Dev :=
  match issuer d t g with
  | none => lateFault d t g ups f
  | some (k, s, c) =>
    let ctx := ups.foldl (fun x u => upset x g u) s.ctx
    let gr := groupOf ctx g
    match pickPath gr with
    | none => d
    | some (pc, run) =>
      let d := withHue (if ups.isEmpty then d else modCtx d t k fun _ => ctx) (stageOf c s.stage).hue
      let i : Iss := { t := t, g := g, cv := s.canvas, key := k, seat := { s with ctx := ctx },
                       stage := stageOf c s.stage, gr := gr, lanes := execLanes gr pc, pc := pc }
      if pc ≥ i.stage.progSize / 8 then stageFault d t g stPcRange (laneMask i.lanes) pc
      else match f d i with
        | .fault st addr => stageFault d t g st (laneMask i.lanes) pc addr
        | .faultIn d st addr => stageFault d t g st (laneMask i.lanes) pc addr
        | .stall d => modCtx d t k fun x => modGroup x g fun gr => leavePath { gr with pathPc := pc }
        | .done d => modCtx d t k fun x => modGroup x g fun gr =>
            notePath (modLanes gr i.lanes fun l => { l with pc := pc + 1 }) i.low (run + 1)
        | .stay d => modCtx d t k fun x => modGroup x g fun gr => notePath gr i.low (run + 1)
        | .jump d ps => modCtx d t k fun x => modGroup x g fun gr =>
            notePath (ps.foldl (fun gr p => modLane gr p.1 fun l => { l with pc := p.2 }) gr) i.low (run + 1)

/-- A decoded word whose operands do not exist has no defined encoding (R132). -/
def guardOk (ok : Bool) (r : Issued) : Issued := if ok then r else .fault stIllegalInstr 0

/-- Fault where a check fails.
DESIGN CHOICE, unsafe (log 16). -/
def orFault (st : Option Half) (r : Issued) : Issued := match st with
  | some x => .fault x 0
  | none => r

end Sys2Proof.Machine
end

