-- ==== Sys2Proof/Machine/Arithmetic.lean ====
section
/-! DEFINITION. Per-lane arithmetic, lane shuffle and branch (R121, R132, R227 to R229, R623). -/
namespace Sys2Proof.Machine
open Sys2Proof

/-! ### Results -/

/-- A division result by R623. -/
def divBits (w : Nat) (signed rem : Bool) (a b : Nat) : Nat :=
  if b = 0 then (if rem then a else 2 ^ w - 1)
  else if !signed then (if rem then a % b else a / b)
  else
    let x := sext w a
    let y := sext w b
    if x = -((2 ^ (w - 1) : Nat) : Int) && y = -1 then (if rem then 0 else a)
    else if rem then wrapInt w (x.tmod y) else wrapInt w (x.tdiv y)

/-- A shift result by R623; the count is unsigned. -/
def shiftBits (w : Nat) (left arith : Bool) (a n : Nat) : Nat :=
  if left then (if n ≥ w then 0 else (a <<< n) % 2 ^ w)
  else if arith then wrapInt w (if n ≥ w then (if bitAt a (w - 1) then -1 else 0) else (sext w a) >>> n)
  else if n ≥ w then 0 else a >>> n

def boolNat (b : Bool) : Nat := b.toNat

/-- Number of operands an operation reads. -/
def arithArity : ArithOp → Nat
  | .mov => 1 | .not => 1 | .fsqrt => 1 | .frcp => 1 | .frsqrt => 1 | .fexp2 => 1 | .flog2 => 1
  | .voteAny => 1 | .voteAll => 1 | .ballot => 1
  | .select => 3 | .ffma => 3
  | .undef => 0
  | _ => 2

/-- Operations that exist at 32 bits only. -/
def arithNarrow : ArithOp → Bool
  | .fadd => true | .fmul => true | .ffma => true | .fmin => true | .fmax => true
  | .fcmpEq => true | .fcmpLt => true | .fcmpLe => true | .fcmpUnord => true
  | .fsqrt => true | .frcp => true | .frsqrt => true | .fexp2 => true | .flog2 => true
  | _ => false

def w32 (x : Nat) : Word := BitVec.ofNat 32 x

/-- The result of an operation in one lane; `votes` says which executing lanes hold a non-zero first operand.
DESIGN CHOICE, safe (log 10). -/
def arithResult (op : ArithOp) (w : Nat) (a b c : Nat) (votes : List (Nat × Bool)) : Nat :=
  match op with
  | .mov => a
  | .add => (a + b) % 2 ^ w
  | .sub => (a + 2 ^ w - b) % 2 ^ w
  | .mul => (a * b) % 2 ^ w
  | .and => Nat.land a b
  | .or => Nat.lor a b
  | .xor => Nat.xor a b
  | .not => 2 ^ w - 1 - a
  | .shl => shiftBits w true false a b
  | .lshr => shiftBits w false false a b
  | .ashr => shiftBits w false true a b
  | .udiv => divBits w false false a b
  | .sdiv => divBits w true false a b
  | .urem => divBits w false true a b
  | .srem => divBits w true true a b
  | .cmpEq => boolNat (a == b)
  | .cmpNe => boolNat (a != b)
  | .cmpLtS => boolNat (decide (sext w a < sext w b))
  | .cmpLtU => boolNat (decide (a < b))
  | .cmpLeS => boolNat (decide (sext w a ≤ sext w b))
  | .cmpLeU => boolNat (decide (a ≤ b))
  | .select => if a ≠ 0 then b else c
  | .fadd => (fadd (w32 a) (w32 b)).toNat
  | .fmul => (fmul (w32 a) (w32 b)).toNat
  | .ffma => (ffma (w32 a) (w32 b) (w32 c)).toNat
  | .fmin => (fmin32 (w32 a) (w32 b)).toNat
  | .fmax => (fmax32 (w32 a) (w32 b)).toNat
  | .fcmpEq => boolNat (fcmp (w32 a) (w32 b) == some .eq)
  | .fcmpLt => boolNat (fcmp (w32 a) (w32 b) == some .lt)
  | .fcmpLe => boolNat (fcmp (w32 a) (w32 b) == some .lt || fcmp (w32 a) (w32 b) == some .eq)
  | .fcmpUnord => boolNat (fcmp (w32 a) (w32 b) == none)
  | .fsqrt => (fsqrt32 (w32 a)).toNat
  | .frcp => (frcp32 (w32 a)).toNat
  | .frsqrt => (frsqrt32 (w32 a)).toNat
  | .fexp2 => (fexp2_32 (w32 a)).toNat
  | .flog2 => (flog2_32 (w32 a)).toNat
  | .voteAny => boolNat (votes.any (·.2))
  | .voteAll => boolNat (votes.all (·.2))
  | .ballot => ofBitList ((votes.filter (·.2)).map (·.1))
  | .undef => 0

/-- A move of a general register, or of a pair, to a stage register: the write that carries poison (R115).
DEDUCED, unsafe (log 121). -/
def stageMove (op : ArithOp) (dst : Dst) (used : List Opnd) : Bool := op == .mov && match dst, used with
  | .sregHalf _ _, [.reg _] => true
  | .sreg _, [.pair _] => true
  | _, _ => false

/-- That move, half by half, each with the poison of its register. -/
def moveToStage (d : Dev) (i : Iss) (dst : Dst) (used : List Opnd) : Dev :=
  let put (d : Dev) (dst : Dst) (o : Opnd) : Dev :=
    writeLanes d i dst (i.lanes.map fun l => (l, (opndVal i l o).val, (opndVal i l o).poison))
  match dst, used with
  | .sreg j, [.pair n] => put (put d (.sregHalf j false) (.reg n)) (.sregHalf j true) (.reg (n + 1))
  | _, o :: _ => put d dst o
  | _, _ => d

/-- Per-lane arithmetic at issue: undefined encodings, consumption, then every lane's result.
DESIGN CHOICE, safe (log 10). -/
def doArith (op : ArithOp) (wide : Bool) (dst : Dst) (ops : List Opnd) (d : Dev) (i : Iss) : Issued :=
  let w := if wide then 64 else 32
  let used := ops.take (arithArity op)
  guardOk (op != .undef && !(wide && arithNarrow op) && dstOk dst && used.all opndOk) <|
    if stageMove op dst used then orFault (parityFails i used i.lanes) (.done (moveToStage d i dst used)) else
    orFault (consumed i used i.lanes) <|
      let v (l n : Nat) : Nat := match used[n]? with
        | some o => (opndVal i l o).val % 2 ^ w
        | none => 0
      let votes := i.lanes.map fun l => (l, v l 0 != 0)
      .done (writeLanes d i dst (i.lanes.map fun l => (l, arithResult op w (v l 0) (v l 1) (v l 2) votes, false)))

/-- ARITHMETIC_OP (R623). -/
def execArithmeticOp (t g : Nat) (op : ArithOp) (wide : Bool) (dst : Dst) (a b c : Opnd) (upsets : List Upset)
    (s : State) : Result :=
  act s fun d => issue d t g upsets (doArith op wide dst [a, b, c])

/-- A lane shuffle: lane l takes register `src` of lane idx mod 32, with its poison bit (R623). An executing lane reads its
own register as an operand, so one that is poisoned is consumed whether or not a lane selects it, and poison travels
from the other lanes alone.
DESIGN CHOICE, unsafe (log 122). -/
def doShuffle (dst src : Nat) (idx : Opnd) (d : Dev) (i : Iss) : Issued :=
  guardOk (decide (dst < 64) && decide (src < 64) && opndOk idx) <|
    orFault (consumed i [.reg src, idx] i.lanes) <|
      let from_ (l : Nat) : Reg32 := gReg i.gr src ((opndVal i l idx).val % 32)
      if i.lanes.any fun l => regBad (from_ l) then .fault stRegParity 0
      else .done (writeLanes d i (.reg dst) (i.lanes.map fun l => (l, (from_ l).val.toNat, (from_ l).poison)))

/-- LANE_SHUFFLE (R623). -/
def execLaneShuffle (t g dst src : Nat) (idx : Opnd) (upsets : List Upset) (s : State) : Result :=
  act s fun d => issue d t g upsets (doShuffle dst src idx)

/-- A branch: lanes whose condition is non-zero (every lane without one) go to the target, in 8 B units; a target at
or beyond PROGRAM_SIZE faults (R121, R132). -/
def doBranch (cond : Option Opnd) (target : Opnd) (d : Dev) (i : Iss) : Issued :=
  let ops := target :: cond.toList
  guardOk (ops.all opndOk) <|
    orFault (consumed i ops i.lanes) <|
      let taken (l : Nat) : Bool := match cond with
        | none => true
        | some o => (opndVal i l o).val != 0
      let dest (l : Nat) : Nat := if taken l then (opndVal i l target).val else i.pc + 1
      if i.lanes.any fun l => taken l && decide (dest l ≥ i.stage.progSize / 8) then .fault stPcRange 0
      else .jump d (i.lanes.map fun l => (l, dest l))

/-- BRANCH (R121). -/
def execBranch (t g : Nat) (cond : Option Opnd) (target : Opnd) (upsets : List Upset) (s : State) : Result :=
  act s fun d => issue d t g upsets (doBranch cond target)

end Sys2Proof.Machine
end

