-- ==== Sys2Proof/Machine/Barriers.lean ====
section
/-! DEFINITION. Barriers (R134 to R137) and the step-control instructions (R118, R119). -/
namespace Sys2Proof.Machine
open Sys2Proof

def barOf (c : Ctx) (b : Nat) : Barrier := tget {} c.barriers b
def putBar (c : Ctx) (b : Nat) (x : Barrier) : Ctx := { c with barriers := tput c.barriers b x }

/-- The live lanes that a group mask and a lane mask name (R134). -/
def namedSet (c : Ctx) (groups groupMask laneMask : Nat) : List Nat :=
  (List.range groups).flatMap fun g =>
    if bitAt groupMask g then
      ((List.range 32).filter fun l => bitAt laneMask l && (laneAt (groupOf c g) l).live).map fun l => 32 * g + l
    else []

/-- A lane blocked at barrier `b` goes on. -/
def releaseLane (b : Nat) (l : Lane) : Lane :=
  if l.wait == .barrier b then { l with wait := .ready, pc := l.pc + 1 } else l

/-- Complete the phase of a barrier when every named lane has arrived (R136). -/
def checkPhase (c : Ctx) (b : Nat) : Ctx :=
  let x := barOf c b
  if x.valid && !x.named.isEmpty && x.arrived.length == x.named.length then
    let c := putBar c b { x with arrived := [], phase := !x.phase, elapsed := 0 }
    { c with groups := tmap (fun _ gr => { gr with lanes := gr.lanes.map (releaseLane b) }) c.groups }
  else c

/-- A lane leaves every barrier (R136). -/
def leaveBarriers (c : Ctx) (key : Nat) : Ctx :=
  (c.barriers.map (·.1)).foldl (fun c b =>
    let x := barOf c b
    if nmem key x.named then
      let x := { x with named := ndel key x.named, arrived := ndel key x.arrived }
      let x := if x.arrived.isEmpty then { x with elapsed := 0 } else x
      checkPhase (putBar c b x) b
    else c) c

/-! ### Instructions -/

def doBarInit (b groupMask laneMask : Opnd) (d : Dev) (i : Iss) : Issued :=
  let ops := [b, groupMask, laneMask]
  guardOk (ops.all opndOk) <|
    orFault (parityFails i ops [i.low]) <|
      let n := (opndVal i i.low b).val
      let gm := (opndVal i i.low groupMask).val
      let lm := (opndVal i i.low laneMask).val
      let set := namedSet i.seat.ctx i.stage.groups gm lm
      if n > 15 || gm ≥ 2 ^ i.stage.groups || set.isEmpty then .fault stBarrierMember 0
      else if (barOf i.seat.ctx n).valid && !(barOf i.seat.ctx n).arrived.isEmpty then .fault stBarrierBusy 0
      else .done (modCtx d i.t i.key fun c => putBar c n
        { valid := true, groupMask := gm, laneMask := lm, named := set })

/-- BAR_INIT (R134). -/
def execBarInit (t g : Nat) (b groupMask laneMask : Opnd) (s : State) : Result :=
  act s fun d => issue d t g [] (doBarInit b groupMask laneMask)

/-- Arrival of the executing lanes (R135, R136); `sync` blocks them until the phase completes. -/
def doArrive (sync : Bool) (b : Opnd) (d : Dev) (i : Iss) : Issued :=
  guardOk (opndOk b) <|
    orFault (parityFails i [b] [i.low]) <|
      let n := (opndVal i i.low b).val
      let x := barOf i.seat.ctx n
      let keys := i.lanes.map fun l => 32 * i.g + l
      if n > 15 || !x.valid || keys.any (fun k => !nmem k x.named) then .fault stBarrierMember 0
      else if keys.any fun k => nmem k x.arrived then .fault stBarrierRearrive 0
      else
        let d := modCtx d i.t i.key fun c =>
          let c := if sync then modGroup c i.g fun gr => modLanes gr i.lanes fun l => { l with wait := .barrier n }
            else modGroup c i.g fun gr => modLanes gr i.lanes fun l => { l with pc := i.pc + 1 }
          checkPhase (putBar c n { x with arrived := keys.foldl (fun a k => nadd k a) x.arrived,
                                          elapsed := if x.arrived.isEmpty then 0 else x.elapsed }) n
        .stay d

/-- BAR_SYNC (R135). -/
def execBarSync (t g : Nat) (b : Opnd) (s : State) : Result := act s fun d => issue d t g [] (doArrive true b)

/-- BAR_ARRIVE (R135). -/
def execBarArrive (t g : Nat) (b : Opnd) (s : State) : Result := act s fun d => issue d t g [] (doArrive false b)

/-- Lanes that a timeout record names: blocked at the barrier in the lowest such group, else arrived (R137). -/
def timeoutLanes (c : Ctx) (groups b : Nat) : Nat × List Nat :=
  let blocked (g : Nat) : List Nat := (List.range 32).filter fun l => (laneAt (groupOf c g) l).wait == .barrier b
  let arrived (g : Nat) : List Nat := (List.range 32).filter fun l => nmem (32 * g + l) (barOf c b).arrived
  match (List.range groups).find? fun g => !(blocked g).isEmpty with
  | some g => (g, blocked g)
  | none => match (List.range groups).find? fun g => !(arrived g).isEmpty with
    | some g => (g, arrived g)
    | none => (0, [])

/-- The lowest barrier of a seat whose timer has reached the timeout. -/
def timedOut (c : Ctx) (timeout : Nat) : Option Nat :=
  (List.range 16).find? fun b => (barOf c b).valid && !(barOf c b).arrived.isEmpty && decide ((barOf c b).elapsed ≥ timeout)

/-- BARRIER_TIMEOUT (R137): the lowest barrier whose timer has reached BARRIER_TIMEOUT faults. Commands of one tick stand
in the order in which they happen, so an arrival that ends the phase in that tick stands before it.
DESIGN CHOICE, unsafe (log 117). -/
def execBarrierTimeout (t : Nat) (s : State) : Result :=
  act s fun d => match curSeat d t with
    | none => d
    | some (_, st) => match canvasOf d st.canvas with
      | none => d
      | some cv =>
        let sg := stageOf cv st.stage
        if st.st == .seated && (cv.st == .running || cv.st == .draining) && !d.creset.active then
          match timedOut st.ctx sg.barTimeout with
          | none => d
          | some b =>
            let (g, ls) := timeoutLanes st.ctx sg.groups b
            stageFault d t g stBarrierTimeout (laneMask ls) (laneAt (groupOf st.ctx g) (ls.headD 0)).pc
        else d

/-! ### Step control -/

/-- YIELD (R118, R119): the lanes stop for the step; the last of them makes the step boundary. -/
def execYield (t g : Nat) (s : State) : Result :=
  act s fun d => issue d t g [] fun d i =>
    let d := modCtx d i.t i.key fun c => modGroup c i.g fun gr => modLanes gr i.lanes fun l => { l with yielded := true }
    .stay (checkBoundary d i.t i.key i.stage.groups)

/-- EXIT (R118, R136): the lanes end for the step and leave every barrier, one by one in ascending order, each barrier
checked for completion after each of them.
DESIGN CHOICE, unsafe (log 118). -/
def execExit (t g : Nat) (s : State) : Result :=
  act s fun d => issue d t g [] fun d i =>
    let d := modCtx d i.t i.key fun c =>
      let c := modGroup c i.g fun gr => modLanes gr i.lanes fun l => { l with live := false }
      i.lanes.foldl (fun c l => leaveBarriers c (32 * i.g + l)) c
    .stay (checkBoundary d i.t i.key i.stage.groups)

/-- CANVAS_END (R118): the canvas proceeds as for a canvas stop; while it drains nothing more happens. -/
def execCanvasEnd (t g : Nat) (s : State) : Result :=
  act s fun d => issue d t g [] fun d i =>
    .done (match canvasOf d i.cv with
      | some c => if c.st == .running then beginDrain d i.cv else d
      | none => d)

/-- NEXT_STEP_START (R119, R163): after a boundary, with no switch ready and every write of the step performed. -/
def execNextStepStart (t : Nat) (s : State) : Result :=
  act s fun d =>
    let tl := tileOf d t
    match curSeat d t with
    | none => d
    | some (k, st) => match canvasOf d st.canvas with
      | none => d
      | some cv =>
        if tl.atBoundary && st.st == .seated && (cv.st == .running || cv.st == .draining)
            && (tl.sw == .none || tl.sw == .waitMinSeat) && tl.easel.queue.isEmpty && tl.easel.chains.isEmpty then
          startStep d t k
        else d

end Sys2Proof.Machine
end

