-- ==== Sys2Proof/Machine/Bonds.lean ====
section
/-! DEFINITION. Vertical bonds (R548 to R550): lane tests, sparing, half width, ports out of use. A bond of a port is
numbered 66 × bundle + bond. -/
namespace Sys2Proof.Machine
open Sys2Proof

def vportOf (d : Dev) (s p : Nat) : VPort := tget {} (sliceOf d s).vports p
def putVport (d : Dev) (s p : Nat) (v : VPort) : Dev := modSlice d s fun sl => { sl with vports := tput sl.vports p v }

/-- RESET_WANTED (R558). -/
def wantReset (d : Dev) : Dev := regSetBit d .repairStatus [] 63

/-- The map-out of a slice becomes pending; it is appended to the field repair log once (R547). -/
def pendSlice (d : Dev) (s : Nat) : Dev :=
  let sl := sliceOf d s
  let d := if sl.pendOut || sl.out then d
    else repairRecord (putSlice d s { sl with pendOut := true }) [4, 0, s % 256, s / 256]
  wantReset d

/-- A failed bond in a bundle with no free spare (R550). `failed` bonds of the bundle do not work. With the other port out
too, every sector of the tile above is lost (`cutOff`).
DESIGN CHOICE, unsafe (log 134). -/
def noSpare (d : Dev) (s p bundle failed : Nat) : Dev :=
  let v := vportOf d s p
  if bundle < 112 && decide (failed + 32 ≤ 66) then
    if v.half then d else logErr (putVport d s p { v with half := true }) stBondHalf ukSlice s 3
  else if v.out then pendSlice d s
  else if (vportOf d s (1 - p)).out then pendSlice (putVport d s p { v with out := true }) s
  else logErr (pendSlice (putVport d s p { v with out := true }) s) stKrSliceOut ukSlice s 3

/-- Swap one failed bond at a quiescent point (R549): onto the bundle's next spare, or R550. -/
def swapBond (d : Dev) (s p bond : Nat) : Dev :=
  let bundle := bond / 66
  let v := vportOf d s p
  let used := tget 0 v.spares bundle
  let n := tget 0 v.failed bundle + 1
  let v := { v with failed := tput v.failed bundle n }
  if used < 2 then
    let d := putVport d s p { v with spares := tput v.spares bundle (used + 1) }
    repairRecord (logErr d stBondSpared ukSlice s 3) [5, 0, s % 256, s / 256, p, bundle, bond % 66]
  else noSpare (putVport d s p v) s p bundle n

/-- Swap every bond that waits. -/
def swapWaiting (d : Dev) (s p : Nat) : Dev :=
  let v := vportOf d s p
  let d := v.waiting.foldl (fun d b => swapBond d s p b) d
  let v' := vportOf d s p
  putVport d s p { v' with waiting := [], forced := false }

/-- Bonds that a test finds failed wait for a quiescent point. -/
def failBonds (d : Dev) (s p : Nat) (bs : List Nat) : Dev :=
  let v := vportOf d s p
  putVport d s p { v with waiting := (bs.filter fun b => decide (b < 120 * 66)).foldl (fun acc b => nadd b acc) v.waiting }

/-- LANE_TEST (R548): a periodic test of an idle port; `failed` are the bonds that fail it. -/
def execLaneTest (slice port : Nat) (failed : List Nat) (s : State) : Result :=
  act s fun d => if slice < 256 && port < 2 && !failed.isEmpty then failBonds d slice port failed else d

/-- BOND_SWAP (R549): a quiescent point of a port with bonds that wait. -/
def execBondSwap (slice port : Nat) (s : State) : Result :=
  act s fun d =>
    if slice < 256 && port < 2 && !(vportOf d slice port).waiting.isEmpty then swapWaiting d slice port else d

/-- QUIESCENCE_TIMEOUT (R549): 1 ms after the failure the port holds new requests until a quiescent point.
DESIGN CHOICE, safe (log 9). -/
def execQuiescenceTimeout (slice port : Nat) (s : State) : Result :=
  act s fun d =>
    let v := vportOf d slice port
    if slice < 256 && port < 2 && !v.waiting.isEmpty then putVport d slice port { v with forced := true } else d

end Sys2Proof.Machine
end

