-- ==== Sys2Proof/Machine/KretenCmds.lean ====
section
/-! DEFINITION. The Kreten die's own events and commands: fills, write-backs, tile-local regions (R289, R290), preserves
(R300 to R306), and the thrash monitor (R307). -/
namespace Sys2Proof.Machine
open Sys2Proof

/-! ### Fills and write-backs (R296, R297, R299) -/

/-- Start the reads of the lines of a spilled context that a tile still has to fetch, until one must wait (R84). They carry
SEAT_HUE. -/
def pumpFetch (d : Dev) (t : Nat) : Dev :=
  match (tileOf d t).canvas.bind (tfind d.canvases) with
  | none => d
  | some c =>
    let h := d.hue
    withHue (((tileOf d t).fetch.foldl (fun (acc : Dev × Bool) i =>
      if !acc.2 then acc
      else
        let r := sectorRead acc.1 (.tile t) (1024 * i) 128 { spent := false }
        if r.2.isSome then (modTile r.1 t fun tl => { tl with fetch := tl.fetch.drop 1 }, true) else (acc.1, false))
      (withHue d c.seatHue, true)).1) h

/-- FILL_LANDS. -/
def execFillLands (slice line : Nat) (s : State) : Result :=
  act s fun d => match (sliceOf d slice).fills.find? fun f => f.idx == line with
    | some f => (servedBy d slice).foldl pumpFetch (landFill d slice f)
    | none => d

/-- WRITEBACK_DONE: the HBM write completes and the buffer entry frees. -/
def execWritebackDone (slice line : Nat) (s : State) : Result :=
  act s fun d => match (sliceOf d slice).wbuf.find? fun w => w.line.idx == line with
    | some w => finishWb d slice line (isTl w.line.kind)
    | none => d

/-! ### Ranges that software has placed (R74, R290, R329) -/

/-- The error log ring, completion logs in device memory, control cores' logs, and the route table while it is valid.
DESIGN CHOICE, unsafe (log 70). -/
def fixedRanges (d : Dev) : List (Nat × Nat) :=
  let (eb, es) := errRing d
  (if eb = 0 then [] else [(eb, 64 * es)]) ++
    ((List.range 8).filterMap fun n => if logLocal d n then some (logBase d n, 64 * logEntries d n) else none) ++
    ((List.range 8).filterMap fun c => if logEnabled d (8 + c) then some (logBase d (8 + c), 64 * logEntries d (8 + c)) else none) ++
    (if regBit d .xrRoute [] 63 then [(regField d .xrRoute [] 47 19 <<< 19, 0x80000)] else [])

def hitsFixed (d : Dev) (a n : Nat) : Bool := (fixedRanges d).any fun x => overlaps a n x.1 x.2
def hitsSpill (d : Dev) (a n : Nat) : Bool := d.canvases.any fun c => overlaps a n c.2.spillBase c.2.spillSize
def hitsPreserve (d : Dev) (a n : Nat) : Bool := d.preserves.any fun p => overlaps a n p.2.base p.2.size
/-- The range meets that of a valid KR_TLRn (R74 step 10). -/
def hitsValidTlr (d : Dev) (a n : Nat) : Bool :=
  (List.range 16).any fun k => tlrValid d k && (let (b, s) := tlrSpan (regGet d .krTlr [k]); overlaps a n b s)

/-- Valid KR_TLR entries and those being set, but for entry `skip`. -/
def hitsTlr (d : Dev) (a n : Nat) (skip : Option Nat := none) : Bool :=
  (List.range 16).any fun k => some k != skip && (tlrValid d k || tlrSetting d k) &&
    (let (b, s) := tlrSpan (regGet d .krTlr [k]); overlaps a n b s)
/-- Valid HBM_PIPR entries. -/
def hitsPipr (d : Dev) (a n : Nat) : Bool :=
  (List.range 16).any fun k => bitAt (regGet d .hbmPipr [k]) 63 &&
    (let (b, s) := piprSpan d k; overlaps a n b s)

/-! ### Tile-local regions -/

/-- The rule of KR_TLRn.
DESIGN CHOICE, unsafe (log 24). -/
def writeKrTlr (d : Dev) (r : Req) (off bytes : Nat) (v : DWord) : Dev :=
  withWrite d r off bytes v fun d t ix mask val =>
    let n := ix.headD 0
    let old := regGet d .krTlr ix
    let new := newValue d t ix mask val
    let (b, s) := tlrSpan new
    if bitAt old 62 then discard d r stKrRegion t ix mask
    else if bitAt new 63 then
      if bitAt old 63 || s = 0 || !backed d b s || hitsTlr d b s (some n) || hitsSpill d b s || hitsPreserve d b s ||
          hitsPipr d b s || hitsFixed d b s then discard d r stKrRegion t ix mask
      else regPut d .krTlr ix (putBit (putBit new 63 false) 62 true)
    else if bitAt old 63 then regPut d .krTlr ix (putBit old 62 true)
    else regPut d .krTlr ix new

/-- KR_TLR_SET (R290). -/
def execKrTlrSet (r : Req) (n bytes : Nat) (v : DWord) (s : State) : Result :=
  act s fun d => if n < 16 && bitAt v.toNat 63 then writeKrTlr d r (regOff .krTlr [n]) bytes v else d

/-- KR_TLR_CLEAR (R290). -/
def execKrTlrClear (r : Req) (n bytes : Nat) (v : DWord) (s : State) : Result :=
  act s fun d => if n < 16 && !bitAt v.toNat 63 then writeKrTlr d r (regOff .krTlr [n]) bytes v else d

/-- KR_TLR_DRAINED (R290): homed lines of the range go before it becomes tile-local, all its lines before it stops. -/
def execKrTlrDrained (n : Nat) (s : State) : Result :=
  act s fun d =>
    let v := regGet d .krTlr [n]
    if !(decide (n < 16) && bitAt v 62) then d
    else
      let (b, sz) := tlrSpan v
      if bitAt v 63 then
        let d := flushAll d fun i k => isTl k && inSpan (1024 * i) b sz
        regPut d .krTlr [n] (putBit (putBit v 62 false) 63 false)
      else
        let d := flushAll d fun i k => !isTl k && inSpan (1024 * i) b sz
        regPut d .krTlr [n] (putBit (putBit v 62 false) 63 true)

/-! ### Pins (R300 to R302) -/

/-- How many slices each slice in service stands for, and their seat ways.
DESIGN CHOICE, unsafe (log 25). -/
def pinLoads (d : Dev) : List (Nat × Nat) :=
  ((List.range 256).map fun s =>
    let xs := servedBy d s
    (xs.length, (xs.map (seatPins d)).foldl (· + ·) 0)).eraseDups

/-- The greatest pin count of any slice at a set, with `extra` slots more. -/
def maxPinAt (d : Dev) (loads : List (Nat × Nat)) (extra set : Nat) : Nat :=
  let p := preservePins d set + extra
  loads.foldl (fun m x => max m (x.1 * p + x.2)) 0

/-- MAX_PINS (R318). -/
def maxPins (d : Dev) : Nat :=
  let l := pinLoads d
  (List.range 640).foldl (fun m set => max m (maxPinAt d l 0 set)) 0

/-- The greatest pin count if `n` slots were placed from set `s0`. -/
def peakPins (d : Dev) (loads : List (Nat × Nat)) (n s0 : Nat) : Nat :=
  (List.range 640).foldl (fun m set => max m (maxPinAt d loads (slotsIn s0 n set) set)) 0

/-- S0 of R302 for `n` slots; `none` where a pin count would exceed 12 or the table is full. -/
def chooseS0 (d : Dev) (n : Nat) : Option Nat :=
  let l := pinLoads d
  let best := (List.range 640).foldl (fun (acc : Nat × Nat) s0 =>
    let p := peakPins d l n s0
    if p < acc.1 then (p, s0) else acc) (2 ^ 32, 0)
  if best.1 > 12 || d.preserves.length ≥ 256 then none else some best.2

/-- The lowest unused entry of the preserve table. -/
def freePreserve (d : Dev) : Nat := ((List.range 256).find? fun k => (tfind d.preserves k).isNone).getD 256

/-- Take an entry and its pins. -/
def takePreserve (d : Dev) (base size : Nat) (canvas : Option Nat) (load : Bool) (op : Option Nat) : Option (Dev × Nat) :=
  (chooseS0 d (preserveSlots base size)).map fun s0 =>
    let id := freePreserve d
    ({ d with preserves := tput d.preserves id { base := base, size := size, s0 := s0, canvas := canvas, load := load,
                                                 createOp := op, releaseOp := none, mode1 := false } }, id)

/-! ### Moving lines (R305, R306) -/

/-- Move a line to another way, evicting what is there: the array is read (R356) and written anew (R384). -/
def moveLine (d : Dev) (s from_ key : Nat) (kind : LineKind) : Dev :=
  let d := if from_ = key then d else evictNow d s key
  let d := scrubLine (landKey d s from_) s from_
  match tfind (sliceOf d s).lines from_ with
  | some l =>
    let d := modSlice d s fun sl => { sl with lines := tput (tdel sl.lines from_) key { l with kind := kind } }
    if from_ = key then d else smudgeKr d s key (firstHeld l)
  | none => d

/-- The highest pinned way of a set that holds no pinned line. -/
def freePinned (d : Dev) (s set : Nat) : Option Nat :=
  (pinnedWays d s set).reverse.find? fun w => match tfind (sliceOf d s).lines (16 * set + w) with
    | some l => !isPinned l.kind
    | none => true

/-- Pin counts have fallen: a preserved line in a way that is no longer pinned moves up, so that pinned slots keep to the
ways from way 15 down (R300). -/
def packPins (d : Dev) : Dev :=
  (d.slices.map (·.1)).foldl (fun d s =>
    ((sliceOf d s).lines.filter fun e => isPinned e.2.kind && nmem (e.1 % 16) (unpinnedWays d s (e.1 / 16))).foldl
      (fun d e => match freePinned d s (e.1 / 16) with
        | some w => moveLine d s e.1 (16 * (e.1 / 16) + w) e.2.kind
        | none => d) d) d

/-- The pinned way for a line of a preserve. -/
def slotKey' (d : Dev) (s a : Nat) : Option (Nat × LineKind) :=
  match preserveOf d a with
  | none => none
  | some (id, p, slot) =>
    let set := (p.s0 + slot) % 640
    (freePinned d s set).map fun w => (16 * set + w, .preserved id slot)

/-- Lines of a range that stand in a slice as ordinary homed lines. -/
def homedIn (d : Dev) (s base size : Nat) : List Nat :=
  ((sliceOf d s).lines.filter fun e => e.2.kind == .homed && inSpan (1024 * e.2.idx) base size).map (·.1)

/-- Slot ways that still hold ordinary lines are emptied. -/
def clearSlots (d : Dev) (s : Nat) : Dev :=
  ((sliceOf d s).lines.filter fun e => !isPinned e.2.kind && !nmem (e.1 % 16) (unpinnedWays d s (e.1 / 16))).foldl
    (fun d e => evictNow d s e.1) d

/-- Every line of a preserve that is present moves into its slot, and slot ways are freed (R305). -/
def placePreserve (d : Dev) (base size : Nat) : Dev :=
  (d.slices.map (·.1)).foldl (fun d s =>
    let d := ((sliceOf d s).fills.filter fun f => !isTl f.kind).foldl (fun d f => landFill d s f) d
    let d := (homedIn d s base size).foldl (fun d k => match tfind (sliceOf d s).lines k with
      | some l => match slotKey' d s (1024 * l.idx) with
        | some (key, kind) => moveLine d s k key kind
        | none => d
      | none => d) d
    clearSlots d s) d

/-- Fetch the lines of a range that are not present (LOAD 1). -/
def loadRange (d : Dev) (base size : Nat) : Dev :=
  (List.range (size / 1024)).foldl (fun d i =>
    let a := base + 1024 * i
    match servingSlice d (homeSlice a) with
    | none => d
    | some s =>
      let idx := a / 1024
      if (findLine (sliceOf d s) idx false).isSome || nmem idx (sliceOf d s).stones then d
      else
        let d := finishWb d s idx false
        match allocLine d s a false with
        | none => d
        | some (d, key) =>
          let kind := match tfind (sliceOf d s).lines key with
            | some l => l.kind
            | none => .homed
          let f : Fill := { idx := idx, kind := kind, key := key, reqs := 1, writes := [], spent := false, hue := d.hue }
          landFill (modSlice d s fun sl => { sl with fills := sl.fills ++ [f] }) s f) d

/-- Lines of preserve `id` in a slice. -/
def linesOf (d : Dev) (s id : Nat) : List (Nat × Line) :=
  (sliceOf d s).lines.filter fun e => match e.2.kind with
    | .preserved j _ => j == id
    | _ => false

/-- Free a preserve: its lines go back to their sets, or are written back and invalidated (R306). -/
def freePreserveEntry (d : Dev) (id : Nat) (mode1 : Bool) : Dev :=
  let d := (d.slices.map (·.1)).foldl (fun d s =>
    let d := ((sliceOf d s).fills.filter fun f => !isTl f.kind).foldl (fun d f => landFill d s f) d
    (linesOf d s id).foldl (fun d e =>
      if mode1 then evictNow d s e.1
      else match victimKey d s (homeSet (1024 * e.2.idx)) with
        | some k => moveLine d s e.1 k .homed
        | none => evictNow d s e.1) d) d
  packPins { d with preserves := tdel d.preserves id }

/-! ### Commands (R303 to R306) -/

/-- The range of an open pip session meets a range of whole 1 KiB lines (R304). -/
def hitsSession (d : Dev) (a n : Nat) : Bool :=
  d.sessions.any fun e => !(e.2.st == .queued) && (List.range (n / 1024)).any fun i => sessHas d e.2 (a + 1024 * i)

/-- The checks of a create. -/
def createCheck (d : Dev) (base size : Nat) : Option Half :=
  if base % 1024 ≠ 0 || size % 1024 ≠ 0 || size = 0 || size > 1920 * 1048576 || !backed d base size then some stPreserveField
  else if hitsPreserve d base size || hitsTlr d base size || hitsSpill d base size || hitsSession d base size then
    some stPreserveOverlap
  else none

/-- PRESERVE_CREATE: the checks at acceptance, then its entry and pins at once. -/
def handlePreserveCreate : Handler := fun d c op =>
  let base := c.args.getD 0 0
  let size := c.args.getD 1 0
  match createCheck d base size with
  | some st => (some st, d)
  | none => match takePreserve d base size none (c.args.getD 2 0 == 1) op with
    | some (d, _) => (some stOk, d)
    | none => (some stPreserveLimit, d)

/-- PRESERVE_CREATE: the receipt read of a record with its opcode (R447). -/
def execPreserveCreate (w : Win) (s : State) : Result :=
  act s fun d => submitAs d w 0x14 handlePreserveCreate

/-- PRESERVE_CREATE_DONE: every slice has placed the lines. -/
def execPreserveCreateDone (id : Nat) (s : State) : Result :=
  act s fun d => match tfind d.preserves id with
    | none => d
    | some p => match p.createOp with
      | none => d
      | some op =>
        if d.creset.active then d else
        let d := placePreserve (withHue d (opHue d op)) p.base p.size
        let d := if p.load then loadRange d p.base p.size else d
        let d := { d with preserves := tput d.preserves id { p with createOp := none } }
        complete d op stOk id

/-- PRESERVE_RELEASE: a release names a preserve of software that no release has named yet.
DESIGN CHOICE, unsafe (log 25). -/
def handlePreserveRelease : Handler := fun d c op =>
  let a := c.args.getD 0 0
  let id := bits a 7 0
  match tfind d.preserves id with
  | none => (some stPreserveId, d)
  | some p =>
    if p.canvas.isSome || p.releaseOp.isSome then (some stPreserveId, d)
    else (some stOk, { d with preserves := tput d.preserves id { p with releaseOp := op, mode1 := bitAt a 8 } })

/-- PRESERVE_RELEASE: the receipt read of a record with its opcode (R447). -/
def execPreserveRelease (w : Win) (s : State) : Result :=
  act s fun d => submitAs d w 0x15 handlePreserveRelease

/-- PRESERVE_RELEASE_DONE. -/
def execPreserveReleaseDone (id : Nat) (s : State) : Result :=
  act s fun d => match tfind d.preserves id with
    | none => d
    | some p => match p.releaseOp, p.createOp with
      | some op, none => if d.creset.active then d else complete (freePreserveEntry d id p.mode1) op stOk
      | _, _ => d

/-! ### The thrash monitor (R307, R316, R317) -/

/-- THRASH_WINDOW_END: the window of a slice is full. -/
def execThrashWindowEnd (slice : Nat) (s : State) : Result :=
  act s fun d =>
    let sl := sliceOf d slice
    if slice ≥ 256 || sl.winAcc < 2 ^ (regField d .krThrashCfg [] 19 16 + 10) then d
    else
      let flag := regBit d .krThrashCfg [] 0 && decide (sl.winHits * 256 < sl.winAcc * regField d .krThrashCfg [] 31 24)
      let d := putSlice d slice { sl with winHits := 0, winAcc := 0 }
      if !flag then d
      else
        let d := if regBit d .krThrashFlag [slice / 64] (slice % 64) then d else logErr d stKrThrash ukSlice slice 3
        regSetBit d .krThrashFlag [slice / 64] (slice % 64)

end Sys2Proof.Machine
end

