-- ==== Sys2Proof/Machine/CanvasImage.lean ====
section
/-! DEFINITION. The canvas image (R69 to R74): its tables, and the ordered checks of a load. -/
namespace Sys2Proof.Machine
open Sys2Proof

/-- An image with its tables read out. -/
structure Image where
  bytes    : List Byte
  size     : Nat
  canvas   : Canvas
deriving Repr

def hdr (l : List Byte) (off n : Nat) : Nat := leAt l off n

/-! ### Tables -/

def stageEnt (l : List Byte) (o : Nat) : StageEnt :=
  let w (i : Nat) : Nat := leAt l (o + 8 * i) 8
  { groups := bits (w 0) 55 48, tiles := bits (w 0) 47 32, hue := bits (w 0) 23 16, progSize := bits (w 1) 63 32,
    progAt := bits (w 1) 31 0, segCount := bits (w 2) 63 48, segFirst := bits (w 2) 47 32, barTimeout := bits (w 2) 31 0,
    intAcc := bits (w 3) 41 40, fillRows := bits (w 3) 39 32, fillHold := bits (w 3) 31 0 }

def seatEnt (l : List Byte) (o : Nat) : SeatEnt :=
  let w (i : Nat) : Nat := leAt l (o + 8 * i) 8
  { order := bits (w 0) 39 32, stage := bits (w 0) 31 16, y := bits (w 0) 15 8, x := bits (w 0) 7 0,
    minSeat := bits (w 1) 63 32, offset := bits (w 1) 31 0, swapSize := bits (w 2) 41 31, swapBase := bits (w 2) 30 21,
    keptSize := bits (w 2) 20 10, keptBase := bits (w 2) 9 0, yieldWin := bits (w 3) 47 32, lead := bits (w 3) 31 0 }

def streamEnt (l : List Byte) (o : Nat) : StreamEnt :=
  let w (i : Nat) : Nat := leAt l (o + 8 * i) 8
  { multicast := bits (w 0) 57 56 == 1, flits := bits (w 0) 55 48, fmt := bits (w 0) 47 40, hue := bits (w 0) 39 32,
    producer := bits (w 0) 31 16, landingAt := bits (w 1) 33 24, slots := bits (w 1) 23 16, consumer := bits (w 1) 15 0,
    cols := bits (w 2) 31 16, rows := bits (w 2) 15 0 }

def segEnt (l : List Byte) (o : Nat) : SegEnt :=
  let w (i : Nat) : Nat := leAt l (o + 8 * i) 8
  { stage := bits (w 0) 63 48, addr := bits (w 0) 47 0, place := bits (w 1) 42 41, size := bits (w 1) 40 0 }

/-- Offset, count and entry size of the four tables. -/
def tablesOf (l : List Byte) : List (Nat × Nat × Nat) :=
  [(hdr l 0x20 4, hdr l 0x10 2, 32), (hdr l 0x24 4, hdr l 0x14 2, 32), (hdr l 0x28 4, hdr l 0x12 2, 32),
   (hdr l 0x2C 4, hdr l 0x16 2, 16)]

/-- Entries of table `k`. -/
def table {α : Type} (l : List Byte) (k : Nat) (f : List Byte → Nat → α) : List α :=
  let t := (tablesOf l).getD k (0, 0, 0)
  (List.range t.2.1).map fun i => f l (t.1 + t.2.2 * i)

/-- The tables of an image. CANVAS_ID is kept for the contexts of its seats; no record has a field that could echo it.
DEDUCED, unsafe (log 28).
DESIGN CHOICE, unsafe (log 116). -/
def parseImage (l : List Byte) (size : Nat) : Image :=
  let stages := table l 0 stageEnt
  let po := hdr l 0x30 4
  { bytes := l, size := size,
    canvas := {
      st := .loading, id := BitVec.ofNat 64 (hdr l 0x08 8), period := hdr l 0x18 4, seatHue := hdr l 0x1C 1,
      seatWays := hdr l 0x1D 1, spillBase := hdr l 0x38 8, spillSize := hdr l 0x40 8, stages := stages,
      seats := table l 1 seatEnt, streams := table l 2 streamEnt, segments := table l 3 segEnt,
      programs := stages.map fun s => (l.drop (po + s.progAt)).take s.progSize } }

/-! ### Reserved fields (R53) -/

/-- Reserved bits of each word of a table's entries, by table. -/
def rsvMasks : List (List Nat) :=
  [[0xFF000000FF000000, 0, 0, 0xFFFFFC0000000000],
   [0xFFFFFF0000000000, 0, 0xFFFFFC0000000000, 0xFFFF000000000000],
   [0xFC00000000000000, 0xFFFFFFFC00000000, 0xFFFFFFFF00000000, 0xFFFFFFFFFFFFFFFF],
   [0, 0xFFFFF80000000000]]

/-- A reserved field of the image is not zero; entries count where they lie within the image.
DESIGN CHOICE, unsafe (log 27). -/
def imageReserved (l : List Byte) (size : Nat) : Bool :=
  bits (hdr l 0 4) 31 24 ≠ 0 || hdr l 0x1E 2 ≠ 0 || hdr l 0x34 4 ≠ 0 || ((l.drop 0x48).take 0x34).any (· ≠ 0) ||
  (List.range 4).any fun k =>
    let t := (tablesOf l).getD k (0, 0, 0)
    decide (t.1 + t.2.1 * t.2.2 ≤ size) &&
      (List.range t.2.1).any fun i => ((rsvMasks.getD k []).mapIdx fun j m => Nat.land (leAt l (t.1 + t.2.2 * i + 8 * j) 8) m).any (· ≠ 0)

/-! ### Step 3: fields (R69 to R73) -/

def stageOk (c : Canvas) (size po i : Nat) (no : Nat) (s : StageEnt) : Bool :=
  decide (1 ≤ s.groups ∧ s.groups ≤ 48 ∧ 1 ≤ s.tiles ∧ s.tiles ≤ 256 ∧ s.hue ≤ 15 ∧ no = i) &&
  decide (64 ≤ s.progSize ∧ s.progSize ≤ 262144) && s.progSize % 64 == 0 && s.progAt % 64 == 0 &&
  decide (po + s.progAt + s.progSize ≤ size) &&
  (s.segCount == 0 || (decide (s.segFirst + s.segCount ≤ c.segments.length) &&
    (List.range s.segCount).all fun k => (c.segments.getD (s.segFirst + k) ⟨0, 0, 0, 0⟩).stage == i)) &&
  decide (1 ≤ s.barTimeout ∧ s.intAcc ≤ 1 ∧ s.fillRows ≤ 128) && (s.fillRows != 0 || s.fillHold == 0)

def segOk (c : Canvas) (k : Nat) (g : SegEnt) : Bool :=
  (match c.stages[g.stage]? with
    | some s => decide (s.segFirst ≤ k ∧ k < s.segFirst + s.segCount)
    | none => false) &&
  g.addr % 1024 == 0 && g.place != 3 && g.size % 1024 == 0 && decide (1024 ≤ g.size ∧ g.size ≤ 2 ^ 40)

def seatOk (c : Canvas) (e : SeatEnt) : Bool :=
  decide (e.order ≤ 63 ∧ e.stage < c.stages.length ∧ e.x ≤ 15 ∧ e.y ≤ 15 ∧ e.swapSize ≤ 1024 ∧ e.keptSize ≤ 1024 ∧
    e.swapBase + e.swapSize ≤ 1024 ∧ e.keptBase + e.keptSize ≤ 1024)

def streamOk (c : Canvas) (i mode no : Nat) (t : StreamEnt) : Bool :=
  let w := fmtWidth t.fmt
  decide (w ≠ 0 ∧ mode ≤ 1 ∧ 1 ≤ t.flits ∧ t.flits ≤ 64 ∧ t.hue ≤ 15 ∧ no = i ∧ t.producer < c.stages.length ∧
    t.consumer < c.stages.length ∧ t.producer ≠ t.consumer ∧ 1 ≤ t.slots ∧ t.slots ≤ 255 ∧ 1 ≤ t.cols ∧ 1 ≤ t.rows ∧
    t.rows * t.cols * w ≤ t.flits * 512) && t.cols * w % 8 == 0

def fieldsOk (m : Image) (arg : Nat) : Bool :=
  let l := m.bytes
  let c := m.canvas
  let po := hdr l 0x30 4
  let at_ (k i j : Nat) : Nat := let t := (tablesOf l).getD k (0, 0, 0); leAt l (t.1 + t.2.2 * i + 8 * j) 8
  decide (hdr l 0x04 4 = arg ∧ 128 ≤ arg) &&
  decide (1 ≤ c.stages.length ∧ c.stages.length ≤ 4096 ∧ c.streams.length ≤ 16384 ∧ 1 ≤ c.seats.length ∧
    c.seats.length ≤ 16384 ∧ c.seatHue ≤ 15 ∧ 1 ≤ c.seatWays ∧ c.seatWays ≤ 12) &&
  po % 64 == 0 && decide (po ≤ arg) && c.spillBase % 1048576 == 0 && c.spillSize % 1048576 == 0 &&
  (c.spillSize != 0 || c.spillBase == 0) &&
  ((tablesOf l).all fun t => t.1 % 64 == 0 && decide (t.1 + t.2.1 * t.2.2 ≤ arg)) &&
  ((c.stages.mapIdx fun i s => stageOk c arg po i (bits (at_ 0 i 0) 15 0) s).all id) &&
  ((c.segments.mapIdx fun k g => segOk c k g).all id) && (c.seats.all (seatOk c)) &&
  ((c.streams.mapIdx fun i t => streamOk c i (bits (at_ 2 i 0) 57 56) (bits (at_ 2 i 0) 15 0) t).all id)

/-! ### Steps 4 to 6 -/

def seatTile (e : SeatEnt) : Nat := 16 * e.y + e.x

/-- Tiles that a canvas names, rising. -/
def seatTiles (c : Canvas) : List Nat := c.seats.foldl (fun acc e => nadd (seatTile e) acc) []

/-- Seat entries of a tile, in ascending ORDER. -/
def tileSeats (c : Canvas) (t : Nat) : List SeatEnt := sortBy (·.order) (c.seats.filter fun e => seatTile e == t)

def stageSeatEnts (c : Canvas) (n : Nat) : List SeatEnt := c.seats.filter fun e => e.stage == n

/-- Endpoints that a tile needs (R62). -/
def endpointsAt (c : Canvas) (t : Nat) : Nat :=
  let on (n : Nat) : Nat := if (stageSeatEnts c n).any fun e => seatTile e == t then 1 else 0
  c.streams.foldl (fun a s => a + on s.producer + on s.consumer) 0

/-- Bytes of the programs of the stages seated on a tile, counted once each. -/
def programBytes (c : Canvas) (t : Nat) : Nat :=
  ((tileSeats c t).foldl (fun acc e => nadd e.stage acc) []).foldl (fun a n => a + (c.stages.getD n ⟨1, 1, 0, 64, 0, 0, 0, 1, 0, 0, 0⟩).progSize) 0

/-- Bytes of a tile's seat area (R78). -/
def seatArea (c : Canvas) : Nat := c.seatWays * 640 * 1024

def limitsOk (c : Canvas) : Bool :=
  ((seatTiles c).all fun t =>
    let es := tileSeats c t
    decide (endpointsAt c t ≤ 64) && (es.foldl (fun acc e => nadd e.stage acc) []).length == es.length &&
      decide (programBytes c t ≤ seatArea c)) &&
  ((c.stages.mapIdx fun i s => (stageSeatEnts c i).length == s.tiles).all id) &&
  (c.streams.all fun t =>
    let need := (stageSeatEnts c t.producer).length * t.slots * t.flits * 64
    (stageSeatEnts c t.consumer).all fun e => decide (t.landingAt * 1024 + need ≤ e.keptSize * 1024))

/-- Rising strictly. -/
def rising : List Nat → Bool
  | [] => true
  | [_] => true
  | a :: b :: t => decide (a < b) && rising (b :: t)

/-- OFFSET lies below PERIOD where there are sittings at all.
DEDUCED, unsafe (log 26). -/
def scheduleOk (c : Canvas) : Bool :=
  (seatTiles c).all fun t =>
    let es := tileSeats c t
    let offs := es.map (·.offset)
    (c.period != 0 || es.length == 1) && es.map (·.order) == List.range es.length && rising offs &&
      (c.period == 0 || offs.all fun o => decide (o < c.period)) && offs.headD 0 == 0

def overlapFree (c : Canvas) : Bool :=
  (seatTiles c).all fun t =>
    let es := tileSeats c t
    es.all fun a => es.all fun b => a.order == b.order ||
      !(overlaps a.keptBase a.keptSize b.keptBase b.keptSize || overlaps a.keptBase a.keptSize b.swapBase b.swapSize)

/-! ### Reservations (R78, R80) -/

/-- The worst-case mid-step context of a seat. -/
def reservation (c : Canvas) (e : SeatEnt) : Nat :=
  4096 + 16384 + 8192 * (c.stages.getD e.stage ⟨1, 1, 0, 64, 0, 0, 0, 1, 0, 0, 0⟩).groups + 1024 * e.swapSize

/-- Where the reservations of a tile's seats lie: in the seat area while they fit, from the first that does not on at
an offset of the tile's spill part. Answers the places and the part's size.
DEDUCED, unsafe (log 28). -/
def placeSeats (c : Canvas) (t : Nat) : List (SeatEnt × Option Nat) × Nat :=
  let r := (tileSeats c t).foldl (fun (acc : List (SeatEnt × Option Nat) × Nat × Nat) e =>
    let n := reservation c e
    if acc.2.2 = 0 && decide (n ≤ acc.2.1) then (acc.1 ++ [(e, none)], acc.2.1 - n, 0)
    else (acc.1 ++ [(e, some acc.2.2)], acc.2.1, acc.2.2 + n)) ([], seatArea c - programBytes c t, 0)
  (r.1, ceilDiv r.2.2 1024 * 1024)

/-- The tiles' parts of the spill area, in ascending slice number: (tile, offset); and the spill need.
DEDUCED, unsafe (log 28). -/
def spillParts (c : Canvas) : List (Nat × Nat) × Nat :=
  (seatTiles c).foldl (fun acc t => (acc.1 ++ [(t, acc.2)], acc.2 + (placeSeats c t).2)) ([], 0)

/-! ### Steps 7 to 10 -/

/-- A tile is absent, belongs to another canvas, or its quadrant is gated. -/
def tileTaken (d : Dev) (t : Nat) : Bool := !(tileOf d t).present || (tileOf d t).canvas.isSome

def heldSegments (c : Canvas) : List SegEnt := c.segments.filter fun g => g.place == 0

/-- Take the canvas's number, tiles and seats. -/
def occupy (d : Dev) (n : Nat) (c : Canvas) : Dev :=
  let d := { d with canvases := tput d.canvases n c }
  let parts := (spillParts c).1
  parts.foldl (fun d p =>
    let mk (x : SeatEnt × Option Nat) : Nat × Seat :=
      let e := x.1
      let rank := ((stageSeatEnts c e.stage).takeWhile fun q => !(seatTile q == p.1)).length
      (e.order, { canvas := n, order := e.order, stage := e.stage, rank := rank, minSeat := e.minSeat, offset := e.offset,
                  swapSize := e.swapSize, swapBase := e.swapBase, keptSize := e.keptSize, keptBase := e.keptBase,
                  yieldWin := e.yieldWin, lead := e.lead, spillAt := x.2.map (· + p.2) })
    modTile d p.1 fun tl => { tl with canvas := some n, cur := none, sw := .none, leaving := false, rotArmed := false,
                                      pendingSw := [], seats := (placeSeats c p.1).1.map mk }) d

/-- Pin the held segments in table order; `none` where R302 fails.
DESIGN CHOICE, unsafe (log 25). -/
def pinSegments (d : Dev) (n : Nat) (c : Canvas) : Option Dev :=
  (heldSegments c).foldl (fun acc g => acc.bind fun d => (takePreserve d g.addr g.size (some n) false none).map fun x =>
    { x.1 with canvases := tput x.1.canvases n { tget c x.1.canvases n with pins := (tget c x.1.canvases n).pins ++ [x.2] } })
    (some d)

/-- Step 10: the spill area. -/
def spillOk (d : Dev) (c : Canvas) : Bool :=
  decide ((spillParts c).2 ≤ c.spillSize) && (c.spillSize == 0 ||
    (backed d c.spillBase c.spillSize && !hitsValidTlr d c.spillBase c.spillSize && !hitsPipr d c.spillBase c.spillSize &&
      !hitsPreserve d c.spillBase c.spillSize && !hitsFixed d c.spillBase c.spillSize &&
      !(heldSegments c).any (fun g => overlaps c.spillBase c.spillSize g.addr g.size) &&
      !d.canvases.any fun x => overlaps c.spillBase c.spillSize x.2.spillBase x.2.spillSize))

/-- Every check of R74, in order; what the load takes when all pass.
DESIGN CHOICE, unsafe (log 27).
DESIGN CHOICE, unsafe (log 29). -/
def loadCanvas (d : Dev) (l : List Byte) (arg : Nat) (op : Option Nat) : Except Half (Dev × Nat) :=
  let m := parseImage l arg
  let c := { m.canvas with loadOp := op }
  match checkPrefix 0x0201 (hdr l 0 4) with
  | some st => .error st
  | none =>
    if imageReserved l arg then .error stReserved
    else if crc32 (l.take 0x7C ++ List.replicate (min 4 (l.length - 0x7C)) 0 ++ l.drop 0x80) ≠ hdr l 0x7C 4 then .error stCanvasCrc
    else if !fieldsOk m arg then .error stCanvasField
    else if !limitsOk c then .error stCanvasLimit
    else if !scheduleOk c then .error stCanvasSchedule
    else if !overlapFree c then .error stCanvasOverlap
    else if (seatTiles c).any (tileTaken d) then .error stTileBusy
    else if (seatTiles c).any fun t => !blkAccepts d (quadOf t) then .error stBlockGated
    else match (List.range 16).find? fun n => (tfind d.canvases n).isNone with
    | none => .error stCanvasSlots
    | some n =>
      let d1 := occupy d n c
      if maxPins d1 > 12 then .error stPreserveLimit
      else match pinSegments d1 n c with
      | none => .error stPreserveLimit
      | some d2 => if spillOk d c then .ok (d2, n) else .error stCanvasSpill

end Sys2Proof.Machine
end

