-- ==== Sys2Proof/Machine/ContextImage.lean ====
section
/-! DEFINITION. Context images (format 0x0202, R142 to R146): laying out a saved context, reading one back, its checks;
and where the device keeps the saved contexts: in a tile's seat area or in its part of the spill area (R78, R285,
R354). -/
namespace Sys2Proof.Machine
open Sys2Proof

/-! ### Sizes and traffic -/

/-- Bytes of a context (R80). -/
def ctxBytes (mid : Bool) (groups swapKib : Nat) : Nat :=
  4096 + (if mid then 16384 + 8192 * groups else 0) + 1024 * swapKib

def groupsOfSeat (d : Dev) (s : Seat) : Nat := match canvasOf d s.canvas with
  | some c => (stageOf c s.stage).groups
  | none => 0

def seatHueOf (d : Dev) (s : Seat) : Nat := match canvasOf d s.canvas with
  | some c => c.seatHue
  | none => 0

/-- Save or restore traffic at the tile's own slice, under SEAT_HUE (R82, R387), in grants of up to 1,024 B (R395). A
spilled context is counted sector by sector as it is read or stored. -/
def grantSeat (d : Dev) (t : Nat) (s : Seat) (mid : Bool) : Dev :=
  if s.spillAt.isSome then d else hueGrants d (.slice t) (seatHueOf d s) (ctxBytes mid (groupsOfSeat d s) s.swapSize) 1024

/-! ### Laying out (R143 to R145) -/

/-- The saved context of a parked seat; a seat halted by a fault keeps the one that it was restored from.
DESIGN CHOICE, safe (log 32). -/
def savedOf (s : Seat) : Ctx := s.saved.getD s.ctx

/-- The 64-bit words that two tables of registers make: word `i` holds registers `2i` and `2i + 1`. -/
def regWords (n : Nat) (f : Nat → Reg32) : List (DWord × Bool) :=
  (List.range (n / 2)).map fun i =>
    let a := f (2 * i)
    let b := f (2 * i + 1)
    (BitVec.ofNat 64 (a.val.toNat + b.val.toNat * 2 ^ 32), a.poison || b.poison)

/-- Plain words of bytes. -/
def plainWords (l : List Byte) : List (DWord × Bool) :=
  (List.range (ceilDiv l.length 8)).map fun i => (BitVec.ofNat 64 (leAt l (8 * i) 8), false)

def barrierBytes (b : Barrier) : List Byte :=
  leBytes 8 (b.groupMask % 2 ^ 48) ++
  leBytes 8 (b.arrived.length % 2048 + ((b.named.length % 2048) <<< 11) + (b.phase.toNat <<< 30) + (b.valid.toNat <<< 31) +
    ((b.laneMask % 2 ^ 32) <<< 32)) ++
  leBytes 8 (if b.arrived.isEmpty then 0 else b.elapsed % 2 ^ 32) ++ leBytes 8 0

/-- One bit per lane of a group that has arrived. -/
def arrivalMask (b : Barrier) (g : Nat) : Nat := ofBitList ((List.range 32).filter fun l => nmem (32 * g + l) b.arrived)

def maskWhere (gr : Group) (p : Lane → Bool) : Nat := ofBitList ((List.range 32).filter fun l => p (laneAt gr l))

def waitsBarrier (l : Lane) : Bool := match l.wait with
  | .barrier _ => true
  | _ => false
def waitsCue (l : Lane) : Bool := match l.wait with
  | .cue _ => true
  | _ => false

/-- The 80 bytes of a group control entry. -/
def groupBytes (gr : Group) : List Byte :=
  ((List.range 32).flatMap fun l => leBytes 2 ((laneAt gr l).pc % 32768 + (laneAt gr l).live.toNat * 32768)) ++
  leBytes 8 (maskWhere gr waitsBarrier + (maskWhere gr waitsCue <<< 32)) ++
  leBytes 8 (gr.pathPc % 32768 + ((gr.pathRun % 64) <<< 16) + (maskWhere gr (·.yielded) <<< 32))

/-- Size of an image (R143). -/
def imageSize (c : Ctx) (groups swapKib : Nat) : Nat := ctxBytes c.mid groups swapKib

/-- Bytes 0 to 0x3F with IMAGE_CRC as given. -/
def ctxHeader (cv : Canvas) (s : Seat) (t : Nat) (c : Ctx) (groups crc : Nat) : List Byte :=
  let tile := c.fromTile.getD (t % 16 + 256 * (t / 16))
  leBytes 4 0x10202 ++ leBytes 1 c.mid.toNat ++ leBytes 1 c.gen ++ leBytes 1 c.lanesW ++ leBytes 1 groups ++
  leBytes 8 cv.id.toNat ++ leBytes 2 s.stage ++ leBytes 2 s.rank ++ leBytes 2 tile ++ leBytes 2 s.swapSize ++
  leBytes 8 c.stepCount ++ leBytes 8 c.savedAt ++ leBytes 4 (imageSize c groups s.swapSize) ++ List.replicate 16 0 ++
  leBytes 4 crc

/-- Bytes 0x40 to 0xFFF. -/
def ctxScalars (c : Ctx) : List (DWord × Bool) :=
  plainWords ((List.range 16).flatMap fun i => leBytes 4 (tget 0 c.release i)) ++
  regWords 64 (fun i => let r := sReg c (i / 2); if i % 2 = 0 then r.lo else r.hi) ++
  plainWords (((List.range 16).flatMap fun b => if c.mid then barrierBytes (barOf c b) else List.replicate 32 0) ++
    ((List.range 768).flatMap fun i => leBytes 4 (tget 0 c.consumed i)) ++ List.replicate 128 0)

/-- The swapped region as words. -/
def swapWords (m : Mem) (kib : Nat) : List (DWord × Bool) := (List.range (128 * kib)).map fun w => memVal m w

/-- Everything after the header, as words with poison marks. -/
def ctxBody (c : Ctx) (groups kib : Nat) : List (DWord × Bool) :=
  ctxScalars c ++
  (if c.mid then
    regWords 2048 (fun k => tget {} c.vregs k) ++
    plainWords (((List.range 16).flatMap fun b => (List.range 48).flatMap fun g => leBytes 4 (arrivalMask (barOf c b) g)) ++
      ((List.range 48).flatMap fun g => if g < groups then groupBytes (groupOf c g) else List.replicate 80 0) ++
      List.replicate 1280 0) ++
    (List.range groups).flatMap (fun g => regWords 2048 fun k => tget {} (groupOf c g).regs k)
  else []) ++ swapWords c.swap kib

def wordBytes (ws : List (DWord × Bool)) : List Byte := ws.flatMap fun w => leBytes 8 w.1.toNat

/-- The image of a saved context: its words, with IMAGE_CRC. -/
def ctxImage (cv : Canvas) (s : Seat) (t : Nat) : List (DWord × Bool) :=
  let c := savedOf s
  let groups := (stageOf cv s.stage).groups
  let body := ctxBody c groups s.swapSize
  let crc := crc32 (ctxHeader cv s t c groups 0 ++ wordBytes body)
  plainWords (ctxHeader cv s t c groups crc.toNat) ++ body

/-! ### Reading back -/

/-- An image as words. -/
def imgBytes (ws : List (DWord × Bool)) : List Byte := wordBytes ws

/-- A 32-bit register at byte offset `o`, with the poison of its word. -/
def imgReg (l : List Byte) (ps : List Bool) (o : Nat) : Reg32 := mkReg (leAt l o 4) (ps.getD (o / 8) false)

/-- A table of the entries that are not at their default. -/
def packTab {α : Type} [DecidableEq α] (dflt : α) (n : Nat) (f : Nat → α) : Tab α :=
  (List.range n).filterMap fun i => if f i = dflt then none else some (i, f i)

/-- Registers of an image that are not zero. -/
def imgRegs (l : List Byte) (ps : List Bool) (o n : Nat) : Tab Reg32 := packTab {} n fun k => imgReg l ps (o + 4 * k)

/-- Barriers at which an image shows lane `i` of group `g` as arrived. -/
def imgArrivals (l : List Byte) (g i : Nat) : List Nat :=
  (List.range 16).filter fun b => bitAt (leAt l (0x3000 + 192 * b + 4 * g) 4) i

/-- A lane of an image. What it waits on is the operand of the instruction that it stands at, whose encoding no rule gives
(R126): a barrier at which it has arrived, which one is free where there are several; a free release line.
DESIGN CHOICE, safe (log 18). -/
def imgLane (canvas stage : Nat) (l : List Byte) (g i : Nat) : Lane :=
  let o := 0x3C00 + 80 * g
  let v := leAt l (o + 2 * i) 2
  let pc := v % 32768
  let n := Config.importedWait canvas stage pc
  let bs := imgArrivals l g i
  { live := bitAt v 15, pc := pc, yielded := bitAt (leAt l (o + 76) 4) i,
    wait := if bitAt (leAt l (o + 64) 4) i then .barrier (bs.getD (n % bs.length) (n % 16))
      else if bitAt (leAt l (o + 68) 4) i then .cue (n % 16) else .ready }

def imgGroup (canvas stage : Nat) (l : List Byte) (ps : List Bool) (g : Nat) : Group :=
  let o := 0x3C00 + 80 * g
  { lanes := (List.range 32).map (imgLane canvas stage l g), regs := imgRegs l ps (0x5000 + 8192 * g) 2048,
    pathPc := leAt l (o + 72) 4 % 32768, pathRun := bits (leAt l (o + 72) 4) 21 16 }

def imgArrived (l : List Byte) (b : Nat) : List Nat :=
  (List.range 48).flatMap fun g =>
    ((List.range 32).filter fun k => bitAt (leAt l (0x3000 + 192 * b + 4 * g) 4) k).map fun k => 32 * g + k

/-- Barrier `b` of a context image (R145).
DESIGN CHOICE, safe (log 18). -/
def imgBarrier (l : List Byte) (c : Ctx) (groups b : Nat) : Barrier :=
  let o := 0x180 + 32 * b
  let w1 := leAt l (o + 8) 8
  let gm := fieldAt l o 47 0
  { valid := bitAt w1 31, phase := bitAt w1 30, groupMask := gm, laneMask := bits w1 63 32,
    named := if bitAt w1 31 then namedSet c groups gm (bits w1 63 32) else [], arrived := imgArrived l b,
    elapsed := if (imgArrived l b).isEmpty then 0 else leAt l (o + 16) 4 }

/-- The swapped region of an image. -/
def imgSwap (ws : List (DWord × Bool)) (kib : Nat) : Mem :=
  (List.range (128 * kib)).foldl (fun m i =>
    match ws[i]? with
    | some (v, p) => if v = 0 && !p then m else memPutWord m i v p
    | none => m) {}

/-- The context that an image holds. -/
def imgCtx (cv : Nat) (s : Seat) (groups : Nat) (ws : List (DWord × Bool)) : Ctx :=
  let l := imgBytes ws
  let ps := ws.map (·.2)
  let mid := leAt l 4 1 == 1
  let sregs := packTab {} 32 fun j => ({ lo := imgReg l ps (0x80 + 8 * j), hi := imgReg l ps (0x84 + 8 * j) } : SReg)
  let base : Ctx := {
    mid := mid, gen := leAt l 5 1, lanesW := leAt l 6 1, fromTile := some (leAt l 0x14 2), stepCount := leAt l 0x18 8,
    savedAt := leAt l 0x20 8, release := packTab 0 16 fun i => leAt l (0x40 + 4 * i) 4, sregs := sregs,
    consumed := packTab 0 768 fun i => leAt l (0x380 + 4 * i) 4,
    swap := imgSwap (ws.drop ((if mid then 0x5000 + 8192 * groups else 0x1000) / 8)) s.swapSize }
  if mid then
    let c := { base with vregs := imgRegs l ps 0x1000 2048,
                         groups := (List.range groups).map fun g => (g, imgGroup cv s.stage l ps g) }
    { c with barriers := packTab {} 16 fun b => imgBarrier l c groups b }
  else base

/-! ### Checks (R53, R146) -/

/-- A reserved field is not zero. -/
def ctxReserved (l : List Byte) : Bool :=
  bits (leAt l 0 4) 31 24 != 0 || ((l.drop 0x2C).take 16).any (· != 0) || ((l.drop 0xF80).take 128).any (· != 0) ||
  (List.range 16).any (fun b =>
    let o := 0x180 + 32 * b
    fieldAt l o 63 48 != 0 || fieldAt l (o + 8) 29 22 != 0 || fieldAt l (o + 16) 63 32 != 0 || leAt l (o + 24) 8 != 0) ||
  (leAt l 4 1 == 1 &&
    (((l.drop 0x4B00).take 1280).any (· != 0) ||
      (List.range 48).any fun g => fieldAt l (0x3C00 + 80 * g + 72) 31 22 != 0 || fieldAt l (0x3C00 + 80 * g + 72) 15 15 != 0))

/-- Step 4 of R146. -/
def ctxFieldsOk (cv : Canvas) (s : Seat) (groups : Nat) (l : List Byte) : Bool :=
  let kind := leAt l 4 1
  decide (kind ≤ 1) && decide (1 ≤ leAt l 5 1 ∧ leAt l 5 1 ≤ 3) && leAt l 8 8 == cv.id.toNat && leAt l 0x10 2 == s.stage &&
  leAt l 0x12 2 == s.rank && leAt l 7 1 == groups && leAt l 0x16 2 == s.swapSize &&
  leAt l 0x28 4 == ctxBytes (kind == 1) groups s.swapSize &&
  (List.range 16).all fun b =>
    let w := leAt l (0x188 + 32 * b) 8
    decide (bits w 10 0 ≤ bits w 21 11)

/-- Every check of an image in order; `l` is its bytes. -/
def ctxCheck (cv : Canvas) (s : Seat) (groups : Nat) (l : List Byte) : Option Half :=
  match checkPrefix 0x0202 (leAt l 0 4) with
  | some st => some st
  | none =>
    if ctxReserved l then some stReserved
    else if (crc32 (l.take 0x3C ++ List.replicate 4 0 ++ l.drop 0x40)).toNat ≠ leAt l 0x3C 4 then some stContextCrc
    else if leAt l 4 1 = 1 && leAt l 6 1 ≠ 32 then some stLaneMismatch
    else if !ctxFieldsOk cv s groups l then some stContextField
    else none

/-- Write words with their poison marks: all of them, or nothing while some sector waits.
DESIGN CHOICE, unsafe (log 33). -/
def putWords (d : Dev) (ag : Agent) (a : Nat) (ws : List (DWord × Bool)) : Option Dev :=
  let (d1, ok) := devWrite d ag a (wordBytes ws)
  if !ok then none
  else (ws.mapIdx fun i w => (i, w)).foldl (fun acc e =>
    if e.2.2 then acc.bind fun d =>
      let (d, ok) := devWrite d ag (a + 8 * e.1) (leBytes 8 e.2.1.toNat) true
      if ok then some d else none
    else acc) (some d1)

/-- A word of an image whose poison an import does not keep with a register or the swapped region.
DESIGN CHOICE, unsafe (log 33). -/
def controlPoison (ws : List (DWord × Bool)) : Bool :=
  let l := imgBytes ws
  let mid := leAt l 4 1 == 1
  (ws.mapIdx fun i w => (8 * i, w.2)).any fun e =>
    e.2 && (decide (e.1 < 0x80) || (decide (0x180 ≤ e.1) && decide (e.1 < 0x1000)) ||
      (mid && decide (0x3000 ≤ e.1) && decide (e.1 < 0x5000)))

/-! ### The seat area (R78, R285, R354, R356)

The lines of kind seat in a tile's slice hold the programs of its stages and the saved contexts of its seats. What these
words encode is held as `Canvas.programs` and `Seat.ctx`; `Slice.seat` holds, by word of the seat area, the bits in which
the stored codeword differs from the fresh codeword of its word. -/

/-- The stages seated on a tile, in ascending number: their programs come first. -/
def seatedStages (c : Canvas) (t : Nat) : List Nat := (tileSeats c t).foldl (fun acc e => nadd e.stage acc) []

/-- The bytes of the programs of a tile.
DEDUCED, unsafe (log 28). -/
def programArea (c : Canvas) (t : Nat) : List Byte := (seatedStages c t).flatMap fun n => c.programs.getD n []

/-- The places of the contexts that a seat area holds: ORDER, first word, words reserved. -/
def seatPlaces (c : Canvas) (t : Nat) : List (Nat × Nat × Nat) :=
  ((placeSeats c t).1.foldl (fun (acc : List (Nat × Nat × Nat) × Nat) e => match e.2 with
    | some _ => acc
    | none => (acc.1 ++ [(e.1.order, acc.2, reservation c e.1 / 8)], acc.2 + reservation c e.1 / 8))
    ([], ceilDiv (programBytes c t) 8)).1

def placeOf (c : Canvas) (t order : Nat) : Nat × Nat :=
  (((seatPlaces c t).find? fun x => x.1 == order).map (·.2)).getD (0, 0)

/-- The stored codeword of word `n` of a seat area that encodes `v` and `p` (R354). -/
def seatCode (d : Dev) (t n : Nat) (v : DWord) (p : Bool) : Codeword := encodeWord v p ^^^ tget 0 (sliceOf d t).seat n

def putSeat (d : Dev) (t n : Nat) (e : Codeword) : Dev :=
  modSlice d t fun sl => { sl with seat := if e = 0 then tdel sl.seat n else tput sl.seat n e }

/-- Apply the word smudge of a slice to the word of its seat area just written (R384). -/
def smudgeSeat (d : Dev) (t n : Nat) : Dev :=
  let ctl := regGet d .smudgeCtlKr [t]
  if bitAt ctl 16 then
    let mask : Codeword := BitVec.ofNat 80 (regGet d .smudgeDataKr [t] + (bits ctl 15 0 <<< 64))
    regClearBit (putSeat d t n (tget 0 (sliceOf d t).seat n ^^^ mask)) .smudgeCtlKr [t] 16
  else d

/-- Read word `n` of a seat area, which encodes `v` and `p`: decode, correct, count and log (R356). Line j of the area lies
in set j mod 640.
DEDUCED, unsafe (log 28). -/
def seatRead (d : Dev) (t n : Nat) (v : DWord) (p : Bool) : Dev × DWord × Bool :=
  if tget 0 (sliceOf d t).seat n = 0 then (d, v, p)
  else
    let c := seatCode d t n v p
    let det := wordDetail (syndromes c) (n % 16)
    let put (v' : DWord) (p' : Bool) : Dev := smudgeSeat (putSeat d t n (encodeWord v p ^^^ encodeWord v' p')) t n
    match decodeWord c with
    | .clean v' p' => (d, v', p')
    | .corrected v' p' => (logCorrected (regBump (put v' p') .integCe [] 31 0 1) ukSlice t 0 det, v', p')
    | .uncorrectable v' =>
      (krUe (logErr (regBump (put v' true) .integUe [] 47 32 1) stUncorrectable ukSlice t 1 0 det) t (n / 128 % 640), v',
        true)

/-- Read an image from word `base` of a seat area on; words without flipped bits read as they are. -/
def seatImage (d : Dev) (t base : Nat) (ws : List (DWord × Bool)) : Dev × List (DWord × Bool) :=
  ((sliceOf d t).seat.filter fun e => decide (base ≤ e.1 ∧ e.1 < base + ws.length)).foldl (fun acc e =>
    let x := ws.getD (e.1 - base) (0, false)
    let r := seatRead acc.1 t e.1 x.1 x.2
    (r.1, acc.2.set (e.1 - base) r.2)) (d, ws)

/-- Nothing can stand between a saved context and its restore: it lies in a seat area without a flipped bit, the tile has a
vertical port, and no sector of its restore is lost. -/
def seatIntact (d : Dev) (t : Nat) (s : Seat) : Bool :=
  !cutOff d t && s.spillAt.isNone && (sliceOf d t).seat.isEmpty && d.lost.isEmpty

/-- The address of a spilled context. -/
def spillAddr (c : Canvas) (off : Nat) : Nat := c.spillBase + off

/-- The saved context of a seat as its storage gives it: from the seat area, or from the spill area through the tile's own
slice; `none` while a line of the spill area must wait (R78, R84, R288). -/
def storedImage (d : Dev) (cv : Canvas) (t : Nat) (s : Seat) : Dev × Option (List (DWord × Bool)) :=
  let img := ctxImage cv s t
  match s.spillAt with
  | none => let r := seatImage d t (placeOf cv t s.order).1 img; (r.1, some r.2)
  | some off => devReadWords (withHue d cv.seatHue) (.tile t) (spillAddr cv off) (8 * img.length) false

/-- Write the saved context of a seat whose place is the seat area: fresh codewords. -/
def storeSeat (d : Dev) (cv : Canvas) (t : Nat) (s : Seat) : Dev :=
  let p := placeOf cv t s.order
  smudgeSeat (modSlice d t fun sl => { sl with seat := sl.seat.filter fun e => !decide (p.1 ≤ e.1 ∧ e.1 < p.1 + p.2) }) t p.1

/-- Write the sectors of a spilled context that are not stored yet, as stores of the tile, until one must wait; whether all
are stored. -/
def storeSpilled (d : Dev) (cv : Canvas) (t : Nat) (s : Seat) (off : Nat) : Dev × Bool :=
  let img := ctxImage cv s t
  let h := d.hue
  let r := ((List.range (ceilDiv img.length 16)).drop (tileOf d t).storeAt).foldl (fun (acc : Dev × Bool) i =>
    if !acc.2 then acc
    else match putWords acc.1 (.tile t) (spillAddr cv off + 128 * i) ((img.drop (16 * i)).take 16) with
      | some d => (modTile d t fun tl => { tl with storeAt := i + 1 }, true)
      | none => (acc.1, false)) (withHue d cv.seatHue, true)
  (withHue (if r.2 then modTile r.1 t fun tl => { tl with storeAt := 0 } else r.1) h, r.2)

/-- Write the saved context of a seat to its storage: fresh codewords in the seat area, or stores of the tile to the spill
area; whether it is stored. -/
def storeImage (d : Dev) (cv : Canvas) (t : Nat) (s : Seat) : Dev × Bool :=
  match s.spillAt with
  | none => (storeSeat d cv t s, true)
  | some off => storeSpilled d cv t s off

/-- The lines of a spilled context are to be read into the tile's slice (R84). -/
def fetchSpilled (d : Dev) (cv : Canvas) (t : Nat) (s : Seat) : Dev :=
  match s.spillAt with
  | none => d
  | some off =>
    let n := ctxBytes (savedOf s).mid (stageOf cv s.stage).groups s.swapSize
    let lo := spillAddr cv off / 1024
    pumpFetch (modTile d t fun tl => { tl with fetch := (List.range (ceilDiv n 1024)).map (lo + ·) }) t

/-- The context that a restore takes from its image: the saved one where the storage gives it back unchanged, else what the
image holds when it passes the checks of R146; the status of the first that fails otherwise. -/
def contextOf (d : Dev) (cv : Canvas) (t : Nat) (s : Seat) (ws : List (DWord × Bool)) : Dev × Except Half Ctx :=
  if ws = ctxImage cv s t then (d, .ok (savedOf s))
  else match poisonVerdict d (controlPoison ws) with
    | (some st, d) => (d, .error st)
    | (none, d) => match ctxCheck cv s (stageOf cv s.stage).groups (imgBytes ws) with
      | some st => (d, .error st)
      | none => (d, .ok (imgCtx s.canvas s (stageOf cv s.stage).groups ws))

end Sys2Proof.Machine
end

