-- ==== Sys2Proof/Machine/MoverCheck.lean ====
section
/-! DEFINITION. Tensor descriptors and mover commands: their layouts (R255 to R259), where an element lies, the checks of
R260 and R274, and the entry of a transfer in a mover (R276). -/
namespace Sys2Proof.Machine
open Sys2Proof

/-! ### Where elements lie (R258, R259) -/

/-- PITCH and PANEL_BYTES of the panel layout by element width (R259). -/
def panelShape (w : Nat) : Nat × Nat :=
  if w ≤ 4 then (64, 8192) else if w ≤ 8 then (128, 16384) else if w = 16 then (256, 32768) else (512, 65536)

/-- What an index of dimension `k` counts along the stride: elements, or panels in the first two dimensions of a panel
layout. -/
def strideIndex (panel : Bool) (k : Nat) (i : Int) : Int := if panel && decide (k < 2) then i / 128 else i

/-- Sum of index times stride. -/
def strideSum (x : Desc) (ix : List Int) : Int :=
  ((x.dims.zip ix).mapIdx fun k e => strideIndex x.panel k e.2 * e.1.stride).foldl (· + ·) 0

/-- Bit address of an element. -/
def descBit (x : Desc) (ix : List Int) : Int :=
  let w : Int := (fmtWidth x.fmt : Int)
  if x.panel then
    let (pitch, size) := panelShape (fmtWidth x.fmt)
    8 * ((x.base : Int) + (size : Int) * strideSum x ix + (ix.getD 1 0 % 128) * (pitch : Int)) + ix.getD 0 0 % 128 * w
  else 8 * (x.base : Int) + w * strideSum x ix

/-- Indices of a dimension that can reach its least or greatest place. -/
def edgeIndices (panel : Bool) (k extent : Nat) : List Nat :=
  let last := extent - 1
  if panel && decide (k < 2) then [0, min last 127, last / 128 * 128 - 1, last / 128 * 128, last] else [0, last]

/-- Least and greatest of a dimension's part of the bit address over its extent. -/
def dimSpan (x : Desc) (k : Nat) (e : Dim) : Int × Int :=
  let w : Int := (fmtWidth x.fmt : Int)
  let (pitch, size) := panelShape (fmtWidth x.fmt)
  let part (i : Nat) : Int :=
    let j : Int := (i : Int)
    if x.panel then
      8 * (size : Int) * (strideIndex true k j * e.stride) +
        (if k = 0 then j % 128 * w else if k = 1 then 8 * (j % 128 * (pitch : Int)) else 0)
    else w * (j * e.stride)
  let ps := ((edgeIndices x.panel k e.extent).filter fun i => decide (i < e.extent)).map part
  (ps.foldl min (ps.headD 0), ps.foldl max (ps.headD 0))

/-- First and last byte that the elements within the extents occupy. -/
def descSpan (x : Desc) : Int × Int :=
  let ss := x.dims.mapIdx fun k e => dimSpan x k e
  let b : Int := 8 * (x.base : Int)
  ((b + (ss.map (·.1)).foldl (· + ·) 0) / 8, (b + (ss.map (·.2)).foldl (· + ·) 0 + (fmtWidth x.fmt : Int) - 1) / 8)

/-- The alignment rules of R258 and R259. -/
def descAligned (x : Desc) : Bool :=
  let w := fmtWidth x.fmt
  if x.panel then x.base % (panelShape w).2 == 0
  else if w ≥ 8 then x.base % (w / 8) == 0
  else
    (match x.dims with
     | e :: t => e.stride == 1 && w * e.extent % 8 == 0 && t.all fun q => (w : Int) * q.stride % 8 == 0
     | [] => true)

/-- The aliasing rule of R263.
DEDUCED, unsafe (log 43). -/
def descAliases (x : Desc) : Bool := x.dims.any fun e => e.stride == 0 && decide (e.extent > 1)

/-! ### Parsing and checking descriptors (R255, R256, R260) -/

/-- Assigned element format codes (R204). -/
def fmtAssigned (code : Nat) : Bool := decide (code ≤ 0x10)

/-- Formats that SUM and MAX take (R260). -/
def combineFmt (code : Nat) : Bool := nmem code [0x01, 0x02, 0x03, 0x09, 0x0A]

/-- Check a 160 B descriptor (R260); `dst` says that it is a destination.
DEDUCED, unsafe (log 43).
DEDUCED, unsafe (log 44). -/
def checkDesc (l : List Byte) (dst : Bool) : Except Half Desc :=
  let b (o : Nat) : Nat := leAt l o 1
  let ext (k : Nat) : Nat := leAt l (0x20 + 16 * k) 4
  let str (k : Nat) : Int := sext 64 (leAt l (0x28 + 16 * k) 8)
  let rank := b 4
  let fmt := b 5
  match checkPrefix 0x0301 (leAt l 0 4) with
  | some st => .error st
  | none =>
    if b 3 ≠ 0 || leAt l 0x0B 5 ≠ 0 || leAt l 0x18 8 ≠ 0 || (List.range 8).any fun k => leAt l (0x24 + 16 * k) 4 != 0 then
      .error stReserved
    else if rank = 0 || rank > 8 || b 6 > 1 || (b 6 = 1 && decide (rank < 2)) || b 8 > 1 || b 7 > 3 || !fmtAssigned fmt
        || b 9 > 15 || b 0xA > 15 || (b 8 = 0 && (b 9 != 0 || b 0xA != 0)) || leAt l 0x10 8 ≥ 2 ^ 48
        || (List.range rank).any (fun k => ext k == 0 || decide (str k < -(2 ^ 47 : Nat)) || decide (str k ≥ (2 ^ 47 : Nat)))
        || (List.range 8).any (fun k => decide (k ≥ rank) && (ext k != 0 || str k != 0))
        || (dst && (b 7 == 1 || b 7 == 2) && !combineFmt fmt) then
      .error stDescField
    else
      let x : Desc := { rank := rank, fmt := fmt, panel := b 6 == 1, combine := b 7, sb := b 8 == 1, x := b 9, y := b 0xA,
                        base := leAt l 0x10 8, dims := (List.range rank).map fun k => { extent := ext k, stride := str k } }
      let (lo, hi) := descSpan x
      if !descAligned x then .error stDescAlign
      else if dst && x.combine == 0 && descAliases x then .error stDescAlias
      else if decide (lo < 0) || decide (hi ≥ (if x.sb then 0x100000 else 2 ^ 48 : Nat)) then .error stDescRange
      else .ok x

/-! ### Mover commands (R269 to R272, R274) -/

/-- Operation codes (R271). -/
abbrev opCopy : Nat := 1
abbrev opFill : Nat := 2
abbrev opPrefetch : Nat := 3

/-- The parts of a command before its own fields are checked. -/
structure MoverParts where
  l   : List Byte
  src : Option Desc
  dst : Option Desc
deriving DecidableEq, Repr

def allZero (l : List Byte) : Bool := l.all (· == 0)

/-- A descriptor of a command: unused, used but all zero, or checked. -/
inductive DescUse where
  | unused
  | zero
  | ok (x : Desc)
deriving DecidableEq, Repr

def useDesc (l : List Byte) (used dst : Bool) : Except Half DescUse :=
  if !used then .ok .unused
  else if allZero l then .ok .zero
  else match checkDesc l dst with
    | .ok x => .ok (.ok x)
    | .error st => .error st

def DescUse.desc : DescUse → Option Desc
  | .ok x => some x
  | _ => none

def moverOp (l : List Byte) : Nat := leAt l 4 1
def srcBytes (l : List Byte) : List Byte := (l.drop 0x0C0).take 160
def dstBytes (l : List Byte) : List Byte := (l.drop 0x160).take 160
def usesSrc (op : Nat) : Bool := op == opCopy || op == opPrefetch
def usesDst (op : Nat) : Bool := op == opCopy || op == opFill

/-- The command that the bytes spell. -/
def moverCmd (l : List Byte) (src dst : Option Desc) : MoverCmd :=
  let b (o : Nat) : Nat := leAt l o 1
  let rank := match src, dst with
    | some x, _ => x.rank
    | none, some x => x.rank
    | none, none => 0
  let ks := List.range rank
  { op := b 4, hue := b 5, peerSide := b 6, spent := bitAt (b 7) 0, peer := leAt l 8 2, complMode := b 0xA,
    complScope := b 0xB, complSb := b 0xC == 1, complX := b 0xD, complY := b 0xE, complAddr := leAt l 0x10 8,
    tag := leAt l 0x18 4, fill := BitVec.ofNat 64 (leAt l 0x20 8), counts := ks.map fun k => leAt l (0x40 + 16 * k) 4,
    srcOrigin := ks.map fun k => sext 32 (leAt l (0x44 + 16 * k) 4),
    dstOrigin := ks.map fun k => sext 32 (leAt l (0x48 + 16 * k) 4), src := src, dst := dst }

/-- Reserved fields of the header and the shape entries. -/
def moverReserved (l : List Byte) : Bool :=
  leAt l 3 1 != 0 || leAt l 7 1 / 2 != 0 || leAt l 0xF 1 != 0 || leAt l 0x1C 4 != 0 || !allZero ((l.drop 0x28).take 24) ||
    (List.range 8).any fun k => leAt l (0x4C + 16 * k) 4 != 0

/-- The header fields break R269. -/
def headerBad (l : List Byte) : Bool :=
  let b (o : Nat) : Nat := leAt l o 1
  let op := b 4
  !(nmem op [1, 2, 3]) || b 5 > 15 || b 6 > 2 || b 0xA > 2 || !(nmem (b 0xB) [2, 3]) || b 0xC > 1 || b 0xD > 15
    || b 0xE > 15 || (b 6 = 0 && leAt l 8 2 != 0) || (b 0xC = 0 && (b 0xD != 0 || b 0xE != 0))
    || leAt l 0x10 8 ≥ 2 ^ 48 || (b 0xA = 0 && leAt l 0x10 8 != 0)
    || (b 0xA != 0 && (leAt l 0x10 8 % 8 != 0 || (b 0xC == 1 && decide (leAt l 0x10 8 + 8 > 0x100000))))

/-- The shape entries break R270. -/
def shapeBad (l : List Byte) (rank : Nat) : Bool :=
  let cnt (k : Nat) : Nat := leAt l (0x40 + 16 * k) 4
  let so (k : Nat) : Nat := leAt l (0x44 + 16 * k) 4
  let dO (k : Nat) : Nat := leAt l (0x48 + 16 * k) 4
  ((List.range rank).any fun k => cnt k == 0) ||
  ((List.range 8).any fun k => decide (k ≥ rank) && (cnt k != 0 || so k != 0 || dO k != 0)) ||
  decide (((List.range rank).map cnt).foldl (· * ·) 1 > 2 ^ 40) ||
  (moverOp l == opFill && (List.range 8).any fun k => so k != 0) ||
  (moverOp l == opPrefetch && (List.range 8).any fun k => dO k != 0)

/-- The command breaks R271 or R272. -/
def opBad (own : Nat) (c : MoverCmd) : Bool :=
  (c.op == opPrefetch && (match c.src with
    | some x => x.sb
    | none => true)) ||
  (c.op == opCopy && (match c.src, c.dst with
    | some a, some b => fmtWidth a.fmt != fmtWidth b.fmt || ((b.combine == 1 || b.combine == 2) && a.fmt != b.fmt)
    | _, _ => true)) ||
  (match c.dst with
    | some b =>
      let w := fmtWidth b.fmt
      decide (w < 8) && (c.dstOrigin.headD 0 * (w : Int) % 8 != 0 || c.counts.headD 0 * w % 8 != 0)
    | none => false) ||
  (match c.op == opFill, c.dst with
    | true, some b => decide (c.fill.toNat ≥ 2 ^ fmtWidth b.fmt)
    | _, _ => c.fill != 0) ||
  (c.peerSide != 0 && (match (if c.peerSide = 1 then c.dst else c.src) with
    | some x => x.sb || c.complScope != 3 || c.peer == own
    | none => true))

/-- Tiles whose stage buffer the command names. -/
def namedTiles (c : MoverCmd) : List Nat :=
  ([c.src, c.dst].filterMap fun o => o.bind fun x => if x.sb then some (16 * x.y + x.x) else none) ++
    (if c.complMode ≠ 0 && c.complSb then [16 * c.complY + c.complX] else [])

/-- Transfers that hold an entry of the queue of a mover: reserved and queued ones (R268, R282). -/
def queueUsed (d : Dev) (r : Nat) : Nat :=
  (d.xfers.filter fun x => x.rind == r && (x.st == .reserved || x.st == .queued)).length

/-- R274 steps 2 to 6 on the 512 bytes of a command; `tiles` are those of the issuing stage's canvas. -/
def checkMover (d : Dev) (r : Nat) (l : List Byte) (tiles : Option (List Nat)) : Except Half MoverCmd :=
  let op := moverOp l
  match checkPrefix 0x0302 (leAt l 0 4) with
  | some st => .error st
  | none =>
    if moverReserved l then .error stReserved
    else match useDesc (srcBytes l) (usesSrc op) false with
    | .error st => .error st
    | .ok s => match useDesc (dstBytes l) (usesDst op) true with
      | .error st => .error st
      | .ok t =>
        let c := moverCmd l s.desc t.desc
        let rank := c.counts.length
        let ranksBad := match s.desc, t.desc with
          | some a, some b => a.rank != b.rank
          | _, _ => false
        if headerBad l || s == .zero || t == .zero || ranksBad || (!usesSrc op && !allZero (srcBytes l))
            || (!usesDst op && !allZero (dstBytes l)) || shapeBad l rank || opBad (regField d .xrCfg [] 15 0) c then
          .error stMoverField
        else if d.creset.active && !(namedTiles c).isEmpty then .error stResetBusy
        else if (match tiles with
            | some ts => (namedTiles c).any fun t => !nmem t ts
            | none => false) then .error stMoverTile
        else if queueUsed d r ≥ 256 then .error stMoverFull
        else .ok c

/-! ### Entries (R275, R276) -/

/-- Add a transfer to a mover. -/
def addXfer (d : Dev) (r : Nat) (st : XferSt) (c : MoverCmd) (o : XferOrigin) : Dev × Nat :=
  let x : Transfer := { id := d.nextXfer, rind := r, st := st, cmd := c, origin := o,
                        held := blkState d (blkMover r) == .onPending }
  ({ d with xfers := d.xfers ++ [x], nextXfer := d.nextXfer + 1 }, d.nextXfer)

/-- Read a command in device-local memory and check it (R274 step 1, R608): `none` while the read waits. The read of a
command that no stage starts carries CORE_HUE.
DESIGN CHOICE, unsafe (log 131).
DESIGN CHOICE, unsafe (log 46).
DESIGN CHOICE, unsafe (log 47). -/
def fetchMover (d : Dev) (r addr : Nat) (tiles : Option (List Nat)) : Dev × Option (Except Half MoverCmd) :=
  if !blkAccepts d (blkMover r) then (d, some (.error stBlockGated))
  else if addr % 64 ≠ 0 then (d, some (.error stMoverField))
  else if !backed d addr 512 then (d, some (.error stUnbacked))
  else match readWhole (if tiles.isSome then d else withHue d (coreHue d)) (.mover r) addr 512 with
    | (d', none) => (withHue d' d.hue, none)
    | (d', some (l, p)) =>
      let d := withHue d' d.hue
      match poisonVerdict d p with
      | (some st, d) => (d, some (.error st))
      | (none, d) => (d, some (checkMover d r l tiles))

/-- Submit a command in device-local memory: its status, or `none` while its read waits. -/
def submitMover (d : Dev) (r addr : Nat) (o : XferOrigin) (tiles : Option (List Nat)) (hue : Option Nat) (st : XferSt) :
    Dev × Option (Half × Option Nat) :=
  match fetchMover d r addr tiles with
  | (d, none) => (d, none)
  | (d, some (.error e)) => (d, some (e, none))
  | (d, some (.ok c)) =>
    let (d, id) := addXfer d r st { c with hue := hue.getD c.hue } o
    (d, some (stOk, some id))

end Sys2Proof.Machine
end

