-- ==== Sys2Proof/Machine/TimeBase.lean ====
section
/-! DEFINITION. The device time base (R89 to R99): locking, slewing, holdover, its registers and pins, and TIME.READ. -/
namespace Sys2Proof.Machine
open Sys2Proof

/-! ### Offsets and corrections -/

def tbRole (d : Dev) : Nat := regField d .tbConfig [] 2 0

/-- Record a measured offset: OFFSET, and LOCKED when it is within one tick (R98). -/
def putOffset (d : Dev) (o : Int) : Dev :=
  let d := regSetField d .tbStatus [] 47 16 (wrapInt 32 o)
  regSetField d .tbStatus [] 5 5 (decide (o.natAbs ≤ 1)).toNat

/-- Correct an offset by slewing (R91). A correction of a time base that has locked leaves STEP_REFUSED as it is: no step
was asked for.
DESIGN CHOICE, unsafe (log 111). -/
def slewBy (d : Dev) (o : Int) : Dev :=
  let d := putOffset d o
  regSetField { d with tb := { d.tb with slew := -o } } .tbStatus [] 7 7 (decide (o ≠ 0)).toNat

/-- No cue is armed in the device and no canvas is ARMED or RUNNING (R93). A rotation cue is an armed cue, and a cue that
waits PENDING counts as one.
DESIGN CHOICE, unsafe (log 110). -/
def mayStep (d : Dev) : Bool :=
  d.cues.isEmpty && (d.tiles.all fun e => !e.2.rotArmed) &&
    d.canvases.all fun e => !(e.2.st == .armed || e.2.st == .running)

/-- Correct the offset from a reference value by R93: step at the first lock where a step is allowed, else slew. -/
def correctTo (d : Dev) (ref : Nat) : Dev :=
  let o : Int := (d.tb.now : Int) - (ref : Int)
  let first := !d.tb.locked1
  let d := { d with tb := { d.tb with locked1 := true } }
  if first && mayStep d then
    let d := putOffset { d with tb := { d.tb with now := ref, slew := 0, spanPos := 0 } } 0
    regClearBit d .tbStatus [] 7
  else
    let d := slewBy d o
    if o = 0 then d else regSetBit d .tbStatus [] 4

/-- TB_FIRST_LOCK (R93): a time base with a reference locks to it. -/
def execTbFirstLock (ref : DWord) (s : State) : Result :=
  act s fun d =>
    if tbRole d = 0 || d.tb.locked1 then d else correctTo d ref.toNat

/-- The reference is lost (R94). -/
def loseReference (d : Dev) : Dev :=
  if tbRole d = 0 || regBit d .tbStatus [] 6 then d
  else logErr (regSetBit d .tbStatus [] 6) stTbHoldover ukStem 0 3

/-- REFERENCE_LOST (R94). -/
def execReferenceLost (s : State) : Result := act s loseReference

/-- The reference returns (R94): the offset is corrected by R93 and HOLDOVER clears. -/
def returnReference (d : Dev) (ref : Nat) : Dev :=
  if regBit d .tbStatus [] 6 then regClearBit (correctTo d ref) .tbStatus [] 6 else d

/-- REFERENCE_RETURNS (R94). -/
def execReferenceReturns (ref : DWord) (s : State) : Result := act s fun d => returnReference d ref.toNat

/-- Ticks of one second. -/
abbrev secTicks : Nat := 2000000000

/-- Offset of a counter value from the nearest multiple of one second. -/
def ppsOffset (now : Nat) : Int :=
  let r := now % secTicks
  if 2 * r ≤ secTicks then (r : Int) else (r : Int) - (secTicks : Int)

/-- PPS_IN_EDGE (R92): a locked grandmaster aligns a multiple of 2,000,000,000 to the edge by slewing. -/
def execPpsInEdge (s : State) : Result :=
  act s fun d =>
    if tbRole d = 1 && d.tb.locked1 && !regBit d .tbStatus [] 6 then slewBy d (ppsOffset d.tb.now) else d

/-- SLEW_END (R91): the correction is complete. -/
def execSlewEnd (s : State) : Result :=
  act s fun d =>
    if d.tb.slew = 0 && regBit d .tbStatus [] 7 then regClearBit (putOffset d 0) .tbStatus [] 7 else d

/-- PPS_OUT_PULSE (R96). -/
def execPpsOutPulse (s : State) : Result :=
  act s fun d =>
    if regBit d .tbConfig [] 3 && decide (d.tb.now % secTicks = 0) && !d.tb.ppsHigh then
      emit { d with tb := { d.tb with ppsHigh := true } } (.pin "PPS_OUT" true)
    else d

/-! ### Registers -/

def latchOf (d : Dev) (r : Req) : Option Word := match r with
  | .host => d.tb.latch.host
  | .core c => tfind d.tb.latch.cores c

def setLatch (d : Dev) (r : Req) (v : Option Word) : Dev :=
  let l := d.tb.latch
  let l : TbLatch := match r with
    | .host => { l with host := v }
    | .core c => match v with
      | some x => { l with cores := tput l.cores c x }
      | none => { l with cores := tdel l.cores c }
  { d with tb := { d.tb with latch := l } }

/-- A read of TB_NOW (R97). -/
def readTbNow (d : Dev) (r : Req) (part : RegPart) : Dev :=
  let now := d.tb.now % 2 ^ 64
  let off := regOff .tbNow []
  match part with
  | .full => emit d (.regRead r off (BitVec.ofNat 64 now))
  | .lo => emit (setLatch d r (some (BitVec.ofNat 32 (now / 2 ^ 32)))) (.regRead r off (BitVec.ofNat 64 (now % 2 ^ 32)))
  | .hi =>
    let v := match latchOf d r with
      | some x => x.toNat
      | none => now / 2 ^ 32
    emit (setLatch d r none) (.regRead r (off + 4) (BitVec.ofNat 64 v))

/-- TB_NOW_READ (R97). -/
def execTbNowRead (r : Req) (part : RegPart) (s : State) : Result := act s fun d => readTbNow d r part

/-- The role takes effect (R92, R99): free-run locks at once; another role waits for its first lock. -/
def setRole (d : Dev) (role : Nat) : Dev :=
  let d := { d with tb := { d.tb with locked1 := false, slew := 0, spanPos := 0, offsets := [] } }
  let d := regClearBit (regClearBit (regSetField d .tbStatus [] 2 0 role) .tbStatus [] 7) .tbStatus [] 6
  if role = 0 then putOffset d 0 else regClearBit d .tbStatus [] 5

/-- The rule of TB_CONFIG (R92, R99). -/
def writeTbConfig (d : Dev) (r : Req) (off bytes : Nat) (v : DWord) : Dev :=
  withWrite d r off bytes v fun d t ix mask val =>
    let x := newValue d t ix mask val
    if bits x 2 0 ≥ 3 || bits x 15 8 ≥ 64 then logAccess d r stTbRole off false true bytes
    else
      let old := tbRole d
      let d := regPut d .tbConfig [] x
      if bits x 2 0 = old then d else setRole d (bits x 2 0)

/-- TB_CONFIG_WRITE (R99). -/
def execTbConfigWrite (r : Req) (off bytes : Nat) (v : DWord) (s : State) : Result :=
  act s fun d => if off / 8 * 8 = regOff .tbConfig [] then writeTbConfig d r off bytes v else d

/-! ### TIME.READ -/

/-- TIME_READ (R100): the tile's counter copy to a register pair. -/
def execTimeRead (t g dst : Nat) (s : State) : Result :=
  act s fun d => issue d t g [] fun d i =>
    guardOk (dstOk (.pair dst)) (.done (writeAll d i (.pair dst) (copyAt d.tb i.t)))

end Sys2Proof.Machine
end

