-- ==== Sys2Proof/Machine/Cues.lean ====
section
/-! DEFINITION. Cues (R100 to R109): records, arming, cancelling, firing, and the cue instructions that cancel and wait. -/
namespace Sys2Proof.Machine
open Sys2Proof

/-! ### Records (R101) -/

/-- The 32 bytes of a cue record as four words. -/
structure CueWords where
  w0 : Nat
  w1 : Nat
  w2 : Nat
  w3 : Nat
deriving DecidableEq, Repr

def CueWords.hue (c : CueWords) : Nat := bits c.w0 55 48
def CueWords.action (c : CueWords) : Nat := bits c.w0 39 32
def CueWords.kind (c : CueWords) : Nat := bits c.w2 55 48
def CueWords.x (c : CueWords) : Nat := bits c.w2 47 40
def CueWords.y (c : CueWords) : Nat := bits c.w2 39 32
def CueWords.tag (c : CueWords) : Nat := bits c.w2 31 16
def CueWords.stage (c : CueWords) : Nat := bits c.w2 15 0
def CueWords.reserved (c : CueWords) : Bool :=
  bits c.w0 63 56 != 0 || bits c.w0 47 40 != 0 || bits c.w0 31 24 != 0 || bits c.w2 63 56 != 0

/-- Action codes (R102). -/
abbrev actStepStart : Nat := 1
abbrev actMoverStart : Nat := 3
abbrev actCollOpen : Nat := 4
abbrev actTelemetry : Nat := 5

/-- The cue unit that kind, x and y name (R101). -/
def cueUnit (kind x y : Nat) : Option CueUnit :=
  if kind = 0 then (if x < 16 && y < 16 then some (.tile (16 * y + x)) else none)
  else if kind = 1 then (if x < 8 && y == 0 then some (.rind x) else none)
  else if kind = 2 then (if x == 0 && y == 0 then some .stem else none)
  else none

/-- Actions that a unit accepts (R100). -/
def unitAccepts : CueUnit → Nat → Bool
  | .tile _, a => a == actStepStart
  | .rind _, a => a == actMoverStart || a == actCollOpen
  | .stem, a => a == actTelemetry

def unitEntries : CueUnit → Nat
  | .stem => 256
  | _ => 64

/-- Number of a unit, for its fairness pointer and its counter copy. -/
def unitNo : CueUnit → Nat
  | .tile t => t
  | .rind r => 256 + r
  | .stem => 264

/-- The time base as a unit sees it: the copy nearest to it, and on the stem die the master (R89). -/
def unitNow (d : Dev) : CueUnit → Nat
  | .stem => d.tb.now
  | u => copyAt d.tb (unitNo u)

/-- The tile has a rotation cue, which holds an entry (R77). -/
def hasRotation (d : Dev) : CueUnit → Bool
  | .tile t => decide ((tileOf d t).seats.length > 1)
  | _ => false

/-- Cues of a unit: every one of them holds an entry. -/
def cuesOf (d : Dev) (u : CueUnit) : List Cue := d.cues.filter fun c => c.unit == u

def freeEntries (d : Dev) (u : CueUnit) : Bool :=
  decide ((cuesOf d u).length + (hasRotation d u).toNat < unitEntries u)

/-- The lowest entry of a unit that holds no cue: the entry that a cue takes when it is armed.
DESIGN CHOICE, unsafe (log 112). -/
def cueEntry (d : Dev) (u : CueUnit) : Nat :=
  ((List.range (unitEntries u)).find? fun n => (cuesOf d u).all fun c => c.entry != n).getD 0

/-- The stage has a seat on the tile, in the canvas loaded there (R103): from its acceptance on and until it is unloaded.
DESIGN CHOICE, unsafe (log 113). -/
def stageSeated (d : Dev) (t stage : Nat) : Bool :=
  let tl := tileOf d t
  tl.present && tl.canvas.isSome && tl.seats.any fun e => e.2.stage == stage

/-- Block that a cue's action works on (R507, R509). -/
def cueBlock (u : CueUnit) (action : Nat) : Option Nat := match u with
  | .tile t => some (quadOf t)
  | .rind r => if action = actCollOpen then some (blkColl r) else none
  | .stem => some blkTelem

def tileUnit : CueUnit → Bool
  | .tile _ => true
  | _ => false

/-- R103 steps 1 to 6, in order. A compute reset turns away a cue that names a tile (R556) once the unit is known, and a
gated block the command (R509) after step 6.
DESIGN CHOICE, unsafe (log 114). -/
def cueChecks (d : Dev) (c : CueWords) : Except Half CueUnit :=
  match checkPrefix 0x0203 (c.w0 % 2 ^ 32) with
  | some st => .error st
  | none =>
    if c.reserved then .error stReserved
    else if !(nmem c.action [actStepStart, actMoverStart, actCollOpen, actTelemetry]) || c.hue > 15 then .error stCueAction
    else match cueUnit c.kind c.x c.y with
      | none => .error stCueTarget
      | some u =>
        if d.creset.active && tileUnit u then .error stResetBusy
        else if !unitAccepts u c.action || (c.action == actStepStart && c.w3 / 16 != 0)
            || (c.action == actCollOpen && c.w3 / 65536 != 0) then .error stCueTarget
        else if !(match u with
            | .tile t => stageSeated d t c.stage
            | _ => c.stage == 0) then .error stCueTarget
        else if (cuesOf d u).any fun q => q.stage == c.stage && q.tag == c.tag then .error stCueTagBusy
        else if !freeEntries d u then .error stCueFull
        else match cueBlock u c.action with
          | some k => if blkAccepts d k then .ok u else .error stBlockGated
          | none => .ok u

/-- The cue that an accepted record makes. -/
def cueOf (d : Dev) (u : CueUnit) (c : CueWords) (xfer : Option Nat) : Cue :=
  { unit := u, hue := c.hue, action := c.action, due := c.w1, stage := c.stage, tag := c.tag, arg := BitVec.ofNat 64 c.w3,
    xfer := xfer, entry := cueEntry d u, past := decide (c.w1 < unitNow d u) }

def putCue (d : Dev) (c : Cue) : Dev := { d with cues := d.cues ++ [c] }

/-- Arm a cue (R103): its status, or `none` while the read of a mover command waits. -/
def storeCue (d : Dev) (c : CueWords) : Dev × Option Half :=
  match cueChecks d c with
  | .error st => (d, some st)
  | .ok u =>
    match u, c.action == actMoverStart with
    | .rind r, true =>
      match submitMover d r c.w3 .cue none none .reserved with
      | (d, none) => (d, none)
      | (d, some (st, id)) => if st = stOk then (putCue d (cueOf d u c id), some stOk) else (d, some st)
    | _, _ => (putCue d (cueOf d u c none), some stOk)

/-- Free a cue's reserved transfer (R276). -/
def dropReserved (d : Dev) (c : Cue) : Dev := match c.xfer with
  | some id => { d with xfers := d.xfers.filter fun x => !(x.id == id && x.st == .reserved) }
  | none => d

def removeCue (d : Dev) (c : Cue) : Dev :=
  { d with cues := d.cues.filter fun q => !(q.unit == c.unit && q.entry == c.entry) }

/-- Discard the cues that satisfy `p` (R107). -/
def discardCues (d : Dev) (p : Cue → Bool) : Dev :=
  (d.cues.filter p).foldl (fun d c => removeCue (dropReserved d c) c) d

/-- The tile of a unit is absent (R544). -/
def unitAbsent (d : Dev) : CueUnit → Bool
  | .tile t => !(tileOf d t).present
  | _ => false

/-! ### Firing (R104, R105, R107) -/

/-- The cue of a unit that fires next: the earliest DUE reached, then the tie rule (R105, R110). -/
def nextCue (d : Dev) (u : CueUnit) : Option Cue :=
  let due := (cuesOf d u).filter fun c => !c.pending && decide (c.due ≤ unitNow d u)
  match due.map (·.due) with
  | [] => none
  | x :: t =>
    let m := t.foldl min x
    let same := due.filter fun c => c.due == m
    (arbitrate (tget 0 d.cuePtr (unitNo u)) (unitEntries u) (same.map fun c => (c.entry, huePriority d c.hue))).bind fun e =>
      same.find? fun c => c.entry == e

/-- The pointer moves past the entry that was granted (R110), and the unit has fired at this tick.
DESIGN CHOICE, unsafe (log 112). -/
def moveCuePtr (d : Dev) (c : Cue) : Dev :=
  { d with cuePtr := tput d.cuePtr (unitNo c.unit) ((c.entry + 1) % unitEntries c.unit),
           cueFired := tput d.cueFired (unitNo c.unit) d.tb.now }

/-- A cue is the one that its unit fires in this tick: the first in order, where no pace cycle stands between it and the
cue that the unit fired last (R105). A pace cycle is longer than one tick and shorter than three.
DESIGN CHOICE, safe (log 107). -/
def firesNow (d : Dev) (c : Cue) : Bool × Dev :=
  if nextCue d c.unit != some c then (false, d)
  else match tfind d.cueFired (unitNo c.unit) with
    | none => (true, d)
    | some n => if d.tb.now = n then (false, d) else if d.tb.now ≥ n + 3 then (true, d) else drawBool d

/-- Cancel a cue (R106): an ARMED cue is freed unless it fires in this tick. -/
def cancelCue (d : Dev) (kind x y stage tag : Nat) : Half × Dev :=
  match cueUnit kind x y with
  | none => (stCueTarget, d)
  | some u =>
    if d.creset.active && tileUnit u then (stResetBusy, d)
    else if unitAbsent d u then (stCueTarget, d)
    else match (cuesOf d u).find? fun c => c.stage == stage && c.tag == tag && !c.pending with
      | none => (stCueNotFound, d)
      | some c =>
        let (now, d) := firesNow d c
        if now then (stCueNotFound, d) else (stOk, removeCue (dropReserved d c) c)


/-- Count a late cue of a unit (R104, R625, R626). -/
def countLate (d : Dev) (u : CueUnit) (n : Nat) : Dev := match u with
  | .tile t => regBump d .tileEvents [t] 63 32 n
  | .rind r => regBump d .cueLate [r] 31 0 n
  | .stem => regBump d .cueLate [8] 31 0 n

/-- A cue begins: late when DUE was past at arming, or when the fire window is over (R100, R104). One pace cycle of a
tile is more than one and less than three ticks, so at four ticks past DUE it is free.
DESIGN CHOICE, safe (log 107). -/
def noteFire (d : Dev) (c : Cue) : Dev :=
  let late_ := unitNow d c.unit - c.due
  match c.unit with
  | .tile _ =>
    if c.past || decide (late_ ≥ 5) then countLate d c.unit 1
    else if late_ = 4 then
      let (b, d) := drawBool d
      if b then countLate d c.unit 1 else d
    else d
  | .rind _ => if c.past || decide (late_ > 4) then countLate d c.unit 1 else d
  | .stem => if c.past || decide (late_ > 8) then countLate d c.unit 1 else d

/-- Take the cue out of its unit as it fires. -/
def takeCue (d : Dev) (c : Cue) : Dev := removeCue (moveCuePtr (noteFire d c) c) c

def wakeCueLane (line : Nat) (l : Lane) : Lane := if l.wait == .cue line then { l with wait := .ready } else l

/-- Lanes that wait for a release line whose count allows it issue their CUE.WAIT again, which consumes (R109). -/
def releaseGroup (line : Nat) (c : Ctx) (g : Nat) : Ctx :=
  if tget 0 c.release line > tget 0 c.consumed (16 * g + line) then
    modGroup c g fun gr => { gr with lanes := gr.lanes.map (wakeCueLane line) }
  else c

/-- Add to a release line (R102, R109). -/
def releaseLine (c : Ctx) (line : Nat) : Ctx :=
  let c := { c with release := tmod 0 c.release line fun n => (n + 1) % 2 ^ 32 }
  (c.groups.map (·.1)).foldl (releaseGroup line) c

/-- The seat of a stage on a tile. -/
def seatOfStage (d : Dev) (t stage : Nat) : Option (Nat × Seat) := (tileOf d t).seats.find? fun e => e.2.stage == stage

/-- A STEP_START of a tile fires, or waits PENDING while its stage is unseated (R102, R107). -/
def fireStep (d : Dev) (t : Nat) (c : Cue) : Dev :=
  match seatOfStage d t c.stage with
  | none => d
  | some (k, st) =>
    if st.st == .seated && (tileOf d t).cur == some k then
      modCtx (takeCue d c) t k fun x => releaseLine x (c.arg.toNat % 16)
    else
      let hold (q : Cue) : Cue := { q with pending := true }
      { moveCuePtr d c with cues := lmod (fun q => q.unit == c.unit && q.entry == c.entry) hold d.cues }

/-- STEP_START_FIRES (R102, R107): the next cue of a tile fires. -/
def execStepStartFires (t : Nat) (s : State) : Result :=
  act s fun d => (nextCue d (.tile t)).elim d (fireStep d t)

/-- A reserved transfer joins its mover's queue (R276), after those that joined before it.
DESIGN CHOICE, unsafe (log 48). -/
def queueReserved (d : Dev) (id : Nat) : Dev :=
  match d.xfers.find? fun x => x.id == id && x.st == .reserved with
  | none => d
  | some x => { d with xfers := (d.xfers.filter fun y => !(y.id == id)) ++ [{ x with st := .queued }] }

/-- Entries of a rind die's collectives. -/
def collKey (r n : Nat) : Nat := 16 * r + n
def collOf (d : Dev) (r n : Nat) : Coll := tget {} d.colls (collKey r n)

/-- The state that an entry has once what is held for it acts (R508). -/
def collTarget (c : Coll) : CollSt := match c.held with
  | some h => h.st
  | none => c.st

/-- Open an entry (R425); `false` where it is not ARMED. While the unit is ON_PENDING the opening is held. -/
def openColl (d : Dev) (r n : Nat) : Dev × Bool :=
  let c := collOf d r n
  if n < 16 && blkState d (blkColl r) == .onPending then
    if collTarget c == .armed then
      let h : CollHeld := match c.held with
        | some h => { h with st := .openSt }
        | none => { st := .openSt, arm := false, next := none }
      ({ d with colls := tput d.colls (collKey r n) { c with held := some h } }, true)
    else (d, false)
  else if n < 16 && c.st == .armed then ({ d with colls := tput d.colls (collKey r n) { c with st := .openSt } }, true)
  else (d, false)

/-- A COLLECTIVE_OPEN fires (R425). -/
def fireColl (d : Dev) (r : Nat) (c : Cue) : Dev :=
  let n := c.arg.toNat % 65536
  let (d, ok) := openColl (takeCue d c) r n
  if ok then d else logErr d stCollState ukRind r 2 0 n

/-- COLLECTIVE_OPEN_FIRES (R425). -/
def execCollectiveOpenFires (r : Nat) (s : State) : Result :=
  act s fun d => match nextCue d (.rind r) with
    | none => d
    | some c => if c.action ≠ actCollOpen then d else fireColl d r c

/-! ### Cue instructions (R106, R109) -/

/-- CUE.CANCEL at issue: a tile cue of the executing stage, or a rind or stem cue of stage 0. -/
def doCueCancel (dst : Nat) (kind x y tag : Opnd) (d : Dev) (i : Iss) : Issued :=
  guardOk (dstOk (.reg dst) && [kind, x, y, tag].all opndOk) <|
    orFault (consumed i [kind, x, y, tag] [i.low]) <|
      let v (o : Opnd) : Nat := (opndVal i i.low o).val
      let (st, d) := cancelCue d (v kind) (v x) (v y) (if v kind = 0 then i.seat.stage else 0) (v tag % 65536)
      .done (writeAll d i (.reg dst) st.toNat)

/-- CUE_CANCEL_INSTR (R106). -/
def execCueCancelInstr (t g dst : Nat) (kind x y tag : Opnd) (s : State) : Result :=
  act s fun d => issue d t g [] (doCueCancel dst kind x y tag)

/-- CUE.WAIT at issue (R109): passes, or blocks the lanes. -/
def doCueWait (line : Opnd) (d : Dev) (i : Iss) : Issued :=
  guardOk (opndOk line) <|
    orFault (consumed i [line] [i.low]) <|
      let n := (opndVal i i.low line).val
      if n > 15 then .fault stCueTarget 0
      else if tget 0 i.seat.ctx.release n > tget 0 i.seat.ctx.consumed (16 * i.g + n) then
        .done (modCtx d i.t i.key fun c => { c with consumed := tmod 0 c.consumed (16 * i.g + n) fun x => (x + 1) % 2 ^ 32 })
      else .stay (modCtx d i.t i.key fun c => modGroup c i.g fun gr =>
        modLanes gr i.lanes fun l => { l with wait := .cue n })

/-- CUE_WAIT (R109). -/
def execCueWait (t g : Nat) (line : Opnd) (s : State) : Result := act s fun d => issue d t g [] (doCueWait line)

end Sys2Proof.Machine
end

