-- ==== Sys2Proof/Machine/FirmwareUnit.lean ====
section
/-! DEFINITION. Firmware images, slots and their record, staging, and Grapevine reception (R563, R566 to R579). -/
namespace Sys2Proof.Machine
open Sys2Proof

/-! ### Slots and their record (R575, R577) -/

def fwStCode : FwSt → Nat
  | .empty => 0
  | .staging => 1
  | .staged => 2
  | .pendingSt => 3
  | .trial => 4
  | .good => 5

def fwStOf (n : Nat) : FwSt :=
  if n = 1 then .staging else if n = 2 then .staged else if n = 3 then .pendingSt else if n = 4 then .trial
  else if n = 5 then .good else .empty

def fwSlot (d : Dev) (n : Nat) : FwSlot := tget {} d.fw.slots n
def modFw (d : Dev) (f : Firmware → Firmware) : Dev := { d with fw := f d.fw }
def setFwSlot (n : Nat) (x : FwSlot) (f : Firmware) : Firmware := { f with slots := tput f.slots n x }
def inactiveSlot (d : Dev) : Nat := 1 - d.fw.active

/-- Bytes 0x00 to 0x6F of the slot record. -/
def recordBody (f : Firmware) : List Byte :=
  let s (n : Nat) : FwSlot := tget {} f.slots n
  let fields (x : FwSlot) : List Byte := fitBytes 12 x.iv ++ leBytes 1 x.keySlot ++ leBytes 3 0 ++ fitBytes 16 x.tag
  leBytes 4 f.recSeq ++ leBytes 1 f.active ++ leBytes 1 (fwStCode (s 0).st) ++ leBytes 1 (fwStCode (s 1).st) ++ leBytes 1 0 ++
    leBytes 2 (s 0).svn ++ leBytes 2 (s 1).svn ++ leBytes 4 0 ++ leBytes 8 f.ttime ++ fields (s 0) ++ fields (s 1) ++
    List.replicate 24 0

/-- The whole slot record under the record key. -/
def slotRecord (key : List Byte) (f : Firmware) : List Byte :=
  let b := recordBody f
  b ++ kmac256 key b [] 16

def recordAddr (copy : Nat) : Nat := 0x120000 + 0x1000 * copy

/-- Write the slot record: the other copy, the next SEQ. A device with no record key writes none. -/
def writeRecord (d : Dev) : Dev :=
  match deviceKey d "VZ1 SLOTREC" 32 with
  | none => d
  | some k =>
    let f := { d.fw with recSeq := (d.fw.recSeq + 1) % 2 ^ 32, recCopy := 1 - d.fw.recCopy }
    nvmWrite { d with fw := f } (recordAddr f.recCopy) (slotRecord k f)

def setMeasure (d : Dev) (i : Nat) (v : List Byte) : Dev := modFw d fun f => { f with measures := tput f.measures i v }

/-- Measurements 6 and 7 (R565). -/
def measureSlots (d : Dev) : Dev :=
  let other := fwSlot d (inactiveSlot d)
  let d := match deviceKey d "VZ1 SLOTREC" 32 with
    | some k => setMeasure d 6 (shake256 (slotRecord k d.fw) 64)
    | none => d
  setMeasure d 7 (if other.st == .staged || other.st == .pendingSt then fitBytes 64 other.digest else List.replicate 64 0)

/-- A change of slots: the record is written, vector 67 is sent and a PLDM event raised (R577). -/
def changeSlots (d : Dev) (f : Firmware → Firmware) : Dev :=
  emit (sendMsix (measureSlots (writeRecord (modFw d f))) 67) (.pldmEvent 0)

def changeSlot (d : Dev) (n : Nat) (g : FwSlot → FwSlot) : Dev := changeSlots d fun f => setFwSlot n (g (tget {} f.slots n)) f

/-- A failure of this unit: LAST_STATUS and the error log. -/
def fwFail (d : Dev) (st : Half) : Dev := logErr (modFw d fun f => { f with lastStatus := st }) st ukStem 0 2

/-! ### Images (R566, R567) -/

def slotBase (n : Nat) : Nat := 0x200000 + 0x1000000 * n

def slice (l : List Byte) (a n : Nat) : List Byte := (l.drop a).take n
def zeroed (l : List Byte) (a n : Nat) : List Byte := l.take a ++ List.replicate n 0 ++ l.drop (a + n)
def allZeroAt (l : List Byte) (a n : Nat) : Bool := (slice l a n).all (· == 0)

structure Prelude where
  size    : Nat
  svn     : Nat
  form    : Nat
  keySlot : Nat
  gen     : Nat
  entry   : Nat
  healthS : Nat
  role    : Nat
  iv      : List Byte
  tag     : List Byte
  digest  : List Byte
deriving DecidableEq, Repr

def parsePrelude (l : List Byte) : Prelude :=
  { size := leAt l 4 4, svn := leAt l 8 2, form := leAt l 0xA 1, keySlot := leAt l 0xB 1, gen := leAt l 0xC 1,
    entry := leAt l 0x18 4, healthS := leAt l 0x1C 4, role := leAt l 0x179 1, iv := slice l 0x20 12, tag := slice l 0x30 16,
    digest := slice l 0x40 64 }

/-- The bytes that IMAGE_SIG signs. -/
def signedBytes (l : List Byte) : List Byte :=
  zeroed (zeroed (zeroed (l.take 0x200) 0xA 2) 0x20 12) 0x30 16

/-- Additional data of the body's encryption. -/
def imageAad (l : List Byte) : List Byte := zeroed (l.take 0x100) 0x30 16

/-- The signer block holds for a role (R566). -/
def signerOk (l : List Byte) : Bool :=
  (shake256 (slice l 0x100 57) 32 == Config.rootDigest) &&
    Config.ed448Verify (slice l 0x100 57) (slice l 0x140 0x40) (slice l 0x180 114)

/-- Checks 1 to 4 of R567, on the prelude; `stored` for an image in a slot. -/
def imageChecks (d : Dev) (l : List Byte) (declared : Nat) : Option Half :=
  let p := parsePrelude l
  match checkPrefix 0x0702 (leAt l 0 4) with
  | some st => some st
  | none =>
    if leAt l 3 1 ≠ 0 || !(allZeroAt l 0xD 3 && allZeroAt l 0x2C 4 && allZeroAt l 0x80 0x80 && allZeroAt l 0x139 7 &&
        allZeroAt l 0x17A 6 && allZeroAt l 0x1F2 0xE && allZeroAt l 0x272 0x18E) then some stReserved
    else if p.size < 1040 || p.size > 0x1000000 || p.size % 16 ≠ 0 || p.form ≠ 1 || p.keySlot > 3 || p.gen ≠ 1
        || p.entry % 4 ≠ 0 || p.entry ≥ p.size - 1024 || (p.healthS ≠ 0 && (p.healthS < 60 || p.healthS > 86400))
        || p.role ≠ 1 || p.size ≠ declared then some stFwField
    else if !signerOk l || !Config.ed448Verify (slice l 0x140 57) (signedBytes l) (slice l 0x200 114) then some stFwSignature
    else if p.svn < d.fw.svnFloor then some stFwRollback
    else if (tfind d.fw.fleetKeys p.keySlot).isNone then some stFwKey
    else none

/-! ### Staging (R570, R571, R573) -/

/-- Acceptance of a staging (R573). -/
def stagingRefused (d : Dev) : Option Half :=
  if (fwSlot d (inactiveSlot d)).st == .pendingSt || (fwSlot d d.fw.active).st == .trial then some stFwState
  else if d.fw.staging.isSome then some stFwBusy
  else none

def eraseSlot (d : Dev) (n : Nat) : Dev := { d with nvm := memClear d.nvm (slotBase n) 0x1000000 }

/-- A staging begins: counter 1 rises, the slot is erased (R577).
DESIGN CHOICE, unsafe (log 98). -/
def beginStaging (d : Dev) (x : Staging) : Dev :=
  let n := inactiveSlot d
  let d := modFw (eraseSlot d n) fun f => { f with storeCnt := (f.storeCnt + 1) % 2 ^ 32, staging := some x, offersLeft := 0 }
  changeSlot d n fun _ => { st := .staging }

/-- A staging ends without an image. -/
def failStaging (d : Dev) (st : Half) : Dev :=
  match d.fw.staging with
  | none => d
  | some x =>
    let d := changeSlot (fwFail d st) (inactiveSlot d) fun _ => { st := .empty }
    completeOpt (modFw d fun f => { f with staging := none }) x.op st

/-- The prelude of the stored form (R571).
DESIGN CHOICE, unsafe (log 101). -/
def storedPrelude (d : Dev) (l tag : List Byte) : List Byte :=
  let iv := leBytes 4 d.fw.storeCnt ++ List.replicate 8 0
  l.take 0xA ++ leBytes 1 2 ++ leBytes 1 0 ++ slice l 0xC 0x14 ++ iv ++ slice l 0x2C 4 ++ fitBytes 16 tag ++ slice l 0x40 0x3C0

/-- The whole image is at hand: decrypt, check, store (R567 step 5, R570, R571).
DESIGN CHOICE, unsafe (log 98). -/
def finishStaging (d : Dev) (x : Staging) (image : List Byte) : Dev :=
  let p := parsePrelude image
  let n := inactiveSlot d
  match tfind d.fw.fleetKeys p.keySlot, deviceKey d "VZ1 STORE" 32 with
  | some k, some sk =>
    match Config.aesGcmOpen k p.iv p.tag (imageAad image) (slice image 0x400 (p.size - 0x400)) with
    | none => failStaging d stFwAuth
    | some body =>
      if shake256 body 64 ≠ p.digest then failStaging d stFwAuth
      else
        let head := storedPrelude d image []
        let (ct, tag) := Config.aesGcmSeal sk (slice head 0x20 12) (imageAad head) body
        let d := nvmWrite d (slotBase n) (storedPrelude d image tag ++ ct)
        let d := changeSlot d n fun _ =>
          { st := .staged, svn := p.svn, iv := p.iv, keySlot := p.keySlot, tag := p.tag, digest := p.digest,
            healthS := if p.healthS = 0 then 600 else p.healthS, size := p.size }
        completeOpt (modFw d fun f => { f with staging := none, offersLeft := 10, offerAt := d.tb.now, fromPort := x.port })
          x.op stOk
  | _, _ => failStaging d stFwAuth

/-- Start staging an image held in device memory: the status at acceptance, `none` while its read waits.
DESIGN CHOICE, unsafe (log 98). -/
def stageFrom (d : Dev) (addr : Nat) (size : Option Nat) (op : Option Nat) : Option Half × Dev :=
  match stagingRefused d with
  | some st => (some st, d)
  | none =>
    if addr % 64 ≠ 0 then (some stFwField, d)
    else if !backed d addr (max 1024 (size.getD 1024)) then (some stUnbacked, d)
    else match readWhole d (.core 0) addr 1024 with
    | (d, none) => (none, d)
    | (d, some (l, _)) =>
      let n := size.getD (leAt l 4 4)
      match imageChecks d l n with
      | some st => (some stOk, completeOpt (fwFail d st) op st)
      | none => (some stOk, beginStaging d { image := l, src := some addr, op := op, port := none, tag := 0, size := n })

/-! ### Grapevine reception (R579) -/

/-- The reception is abandoned. The spec names no status for it, so the logged one is free.
DESIGN CHOICE, safe (log 66). -/
def abandon (d : Dev) : Dev :=
  let (n, d) := drawNat d
  failStaging (modFw d fun f => { f with abandoned := (f.abandoned + 1) % 256 }) (BitVec.ofNat 16 n)

/-- A port leaves ACTIVE. -/
def lostSource (d : Dev) (p : Nat) : Dev := match d.fw.staging with
  | some x => if x.port = some p then abandon d else d
  | none => d

def dropChunk (d : Dev) : Dev := modFw d fun f => { f with dropped := (f.dropped + 1) % 256 }

/-- A slot holds an image with this body. -/
def holdsDigest (d : Dev) (dg : List Byte) : Bool := [0, 1].any fun n =>
  let s := fwSlot d n
  s.st != .empty && s.st != .staging && s.digest == dg

/-- A chunk at ADDR 0. -/
def firstChunk (d : Dev) (p tag : Nat) (bs : List Byte) : Dev :=
  let d := match d.fw.staging with
    | some x => if x.port.isSome && x.tag == tag && decide (x.image.length < x.size) then abandon d else d
    | none => d
  if holdsDigest d (slice bs 0x40 64) then modFw d fun f => { f with dups := (f.dups + 1) % 256 }
  else if (stagingRefused d).isSome then dropChunk d
  else
    let n := leAt bs 4 4
    match imageChecks d (fitBytes 1024 bs) n with
    | some st => fwFail d st
    | none => beginStaging d { image := bs, src := none, op := none, port := some p, tag := tag, size := n, heard := d.tb.now }

/-- A relay chunk reaches the stem die. -/
def grapevineChunk (d : Dev) (p tag addr : Nat) (bs : List Byte) : Dev :=
  if addr = 0 then firstChunk d p tag bs
  else match d.fw.staging with
    | some x =>
      if x.port = some p && x.tag == tag && x.image.length == addr then
        modFw d fun f => { f with staging := some { x with image := x.image ++ bs, heard := d.tb.now } }
      else dropChunk d
    | none => dropChunk d

end Sys2Proof.Machine
end

