-- ==== Sys2Proof/Machine/Sequencers.lean ====
section
/-! DEFINITION. The sequencers of the clocked rails (R490, R501, R502), and how the device leaves deep (R505). -/
namespace Sys2Proof.Machine
open Sys2Proof

def railKey : Rail → Nat
  | .rind => 0
  | .stem => 1
  | .serdes => 2

/-- AVSBus rail of a sequencer (R488). -/
def railAvs : Rail → Nat
  | .rind => 2
  | .stem => 4
  | .serdes => 3

/-- Rail number of a sequencer in the order of R488. -/
def railNo : Rail → Nat := railAvs

/-- Voltage of a point in mV. -/
def pointMv (r : Rail) (p : Nat) : Nat := match r with
  | .rind => if p = 0 then 650 else if p = 1 then 720 else 800
  | .stem => if p = 0 then 650 else if p = 1 then 750 else 820
  | .serdes => if p = 0 then 750 else 800

/-- The rails rise at their boot voltages (R591): those of RP1, SP1 and of lane rate codes 1 and 2.
DESIGN CHOICE, unsafe (log 83). -/
def bootSeq (r : Rail) : Sequencer := match r with
  | .rind => { point := 1, mv := 720, goal := 720, target := 1 }
  | .stem => { point := 1, mv := 750, goal := 750, target := 1 }
  | .serdes => { point := 0, mv := 750, goal := 750, target := 0 }

def seqOf (d : Dev) (r : Rail) : Sequencer := (tfind d.seqs (railKey r)).getD (bootSeq r)
def putSeq (d : Dev) (r : Rail) (x : Sequencer) : Dev := { d with seqs := tput d.seqs (railKey r) x }

/-- Highest point of a clocked domain up to a frequency: points of 1,000, 1,500 and 2,000 MHz (rind), 600, 1,200 and
1,600 MHz (stem). -/
def topPoint (r : Rail) (mhz : Nat) : Nat := match r with
  | .rind => if mhz ≥ 2000 then 2 else if mhz ≥ 1500 then 1 else 0
  | .stem => if mhz ≥ 1600 then 2 else if mhz ≥ 1200 then 1 else 0
  | .serdes => 0

/-- A port is in EQUALIZE or a later state. -/
def equalizing (st : PortSt) : Bool := match st with
  | .equalize => true
  | .measure => true
  | .negotiate => true
  | .active => true
  | .retrain => true
  | _ => false

/-- The highest clocked points that the thermal levers allow (R521, R531). -/
def rindCap (d : Dev) : Nat := regField d .thermStatus [] 17 16
def stemCap (d : Dev) : Nat := regField d .thermStatus [] 19 18

/-- The point that R501, the thermal levers and the port rates call for. -/
def wantedPoint (d : Dev) (r : Rail) : Nat := match r with
  | .rind => if d.deep || d.limits.safe then 0 else min (rindCap d) (topPoint .rind d.limits.rindMhz)
  | .stem => if d.deep || d.limits.safe then 0 else min (stemCap d) (topPoint .stem d.limits.stemMhz)
  | .serdes => if d.ports.any fun e => equalizing e.2.st && e.2.rate == 0 then 1 else 0

/-- One write of a rail on its way to its target voltage: by at most 10 mV, at most once in 1 µs (R490). -/
def stepRail (d : Dev) (r : Rail) : Dev :=
  let x := seqOf d r
  if x.mv = x.goal || (x.avsAt.any fun t => decide (t ≤ d.tb.now ∧ d.tb.now < t + usTicks)) then d
  else
    let v := if x.mv < x.goal then min x.goal (x.mv + 10) else max x.goal (x.mv - 10)
    emit (putSeq d r { x with mv := v, avsAt := some d.tb.now }) (.avsWrite (railAvs r) v)

/-- The steps of every sequenced rail that are due. -/
def stepRails (d : Dev) : Dev := [Rail.rind, .stem, .serdes].foldl stepRail d

/-- A rail is to reach a target voltage: the first write goes out, the others follow. -/
def writeRail (d : Dev) (r : Rail) (mv : Nat) : Dev := stepRail (putSeq d r { seqOf d r with goal := mv }) r

/-- STABLE with a new target. -/
def seqStart (d : Dev) (r : Rail) (p : Nat) : Dev :=
  let x := seqOf d r
  let d := putSeq d r { x with target := p, retry := none }
  if x.point < p then
    let d := writeRail d r (pointMv r p)
    putSeq d r { seqOf d r with st := .raiseV }
  else if p < x.point then putSeq d r { seqOf d r with st := .lowerF }
  else d

/-- STABLE, then toward any pending target. -/
def seqStable (d : Dev) (r : Rail) : Dev :=
  let x := seqOf d r
  let d := putSeq d r { x with st := .stable, pending := none }
  match x.pending with
  | some p => seqStart d r p
  | none => d

/-- A new target (R502).
DESIGN CHOICE, unsafe (log 83). -/
def seqTarget (d : Dev) (r : Rail) (p : Nat) : Dev :=
  let x := seqOf d r
  if x.st == .stable then
    if x.retry == some p || (x.retry.isNone && x.point == p) then d else seqStart (putSeq d r { x with pending := none }) r p
  else if x.pending.isNone && x.target == p then d
  else putSeq d r { x with pending := some p }

/-- VSER follows the states and rates of the ports (R501). -/
def noteSerdes (d : Dev) : Dev := seqTarget d .serdes (wantedPoint d .serdes)

/-- The device leaves deep (R505): the points come back; tiles and stacks wake on demand.
DESIGN CHOICE, unsafe (log 84). -/
def leaveDeep (d : Dev) : Dev :=
  if !d.deep then d
  else
    let d := { d with deep := false }
    seqTarget (seqTarget d .rind (wantedPoint d .rind)) .stem (wantedPoint d .stem)

end Sys2Proof.Machine
end

