-- ==== Sys2Proof/Machine/XeostUnit.lean ====
section
/-! DEFINITION. What Xeost ports, routes and requests share (R402 to R424): descriptors, routing, sending with credits and
the retry buffer, ports going down, and transfers that end with an error. -/
namespace Sys2Proof.Machine
open Sys2Proof

/-! ### Descriptors (R416, R417) -/

abbrev xoWrite : Nat := 1
abbrev xoCombine : Nat := 2
abbrev xoRead : Nat := 3
abbrev xoWriteAck : Nat := 0x10
abbrev xoReadData : Nat := 0x11
abbrev xoRelay : Nat := 0x20

def isResponse (op : Nat) : Bool := op == xoWriteAck || op == xoReadData

/-- Data sectors of a range (R416). -/
def dataSectors (addr len : Nat) : Nat := (addr % 128 + len + 127) / 128

/-- The op carries data. -/
def carriesData (op status : Nat) : Bool :=
  op == xoWrite || op == xoCombine || op == xoRelay || (op == xoReadData && status == 0)

def msgSectors (m : XMsg) : Nat := if carriesData m.op m.status then dataSectors m.addr m.len else 0

/-- The four words of a descriptor. -/
def descWords (m : XMsg) : List DWord :=
  [BitVec.ofNat 64 (((m.dst % 65536) <<< 48) + ((m.src % 65536) <<< 32) + ((m.hue % 256) <<< 24) + ((m.hops % 32) <<< 19) +
      ((m.channel % 8) <<< 16) + m.op % 256),
   BitVec.ofNat 64 ((m.release.toNat <<< 57) + ((m.fmt % 256) <<< 48) + m.addr % 2 ^ 48),
   BitVec.ofNat 64 (((m.combine % 4) <<< 48) + ((m.coll % 65536) <<< 32) + m.tag % 2 ^ 32),
   BitVec.ofNat 64 (((m.status % 65536) <<< 48) + m.len % 8192)]

/-- The descriptor that four words spell; its data is still to come. -/
def parseDesc (ws : List DWord) : XMsg :=
  let w (i : Nat) : Nat := (ws.getD i 0).toNat
  { dst := bits (w 0) 63 48, src := bits (w 0) 47 32, hue := bits (w 0) 31 24, hops := bits (w 0) 23 19,
    channel := bits (w 0) 18 16, op := bits (w 0) 7 0,
    rsv := bits (w 0) 15 8 != 0 || bits (w 1) 63 58 != 0 || bitAt (w 1) 56 || bits (w 2) 63 50 != 0 || bits (w 3) 47 13 != 0,
    release := bitAt (w 1) 57, fmt := bits (w 1) 55 48, addr := bits (w 1) 47 0, combine := bits (w 2) 49 48,
    coll := bits (w 2) 47 32, tag := bits (w 2) 31 0, status := bits (w 3) 63 48, len := bits (w 3) 12 0,
    data := [], poison := [] }

/-- The bytes of the range that a message carries, and the poison bit of the word of each. -/
def rangeBytes (m : XMsg) : List Byte := (m.data.drop (m.addr % 128)).take m.len
def wordPoison (m : XMsg) (i : Nat) : Bool := m.poison.getD ((m.addr % 128 + i) / 8) false

/-- Bytes laid out in the data sectors of a range (R416). -/
def layData (addr : Nat) (bs : List Byte) : List Byte :=
  fitBytes (128 * dataSectors addr bs.length) (List.replicate (addr % 128) 0 ++ bs)

/-! ### Numbers and states -/

def ownNo (d : Dev) : Nat := regField d .xrCfg [] 15 0
def portEnabled (d : Dev) (p : Nat) : Bool := regBit d .xpCtl [p / 8, p % 8] 0
def portActive (d : Dev) (p : Nat) : Bool := (portOf d p).st == .active

def portStCode : PortSt → Nat
  | .disabled => 0
  | .bypassed => 1
  | .detect => 2
  | .equalize => 3
  | .measure => 4
  | .negotiate => 5
  | .active => 6
  | .retrain => 7
  | .failed => 8

/-- Set fields of XP_STATUS. -/
def putXpStatus (d : Dev) (p hi lo v : Nat) : Dev := regSetField d .xpStatus [p / 8, p % 8] hi lo v

/-! ### Frames to send (R406, R409, R410, R428) -/

/-- A time at this port's pins as a stamp: the copy of its rind die in 1/16 tick with a fraction, and then the internal
transmit delay (R407, R428). -/
def stampAt (d : Dev) (p frac : Nat) : Nat :=
  (16 * copyAt d.tb (256 + p / 8) + frac % 16 + (d.board.portDelays.getD p (0, 0)).1) % 2 ^ 64

/-- The time of a TRAIN frame; its fraction is free.
DESIGN CHOICE, safe (log 65). -/
def stampNow (d : Dev) (p : Nat) : Nat × Dev :=
  let (f, d) := drawNat d
  (stampAt d p f, d)

/-- Cumulative slots freed, as a CREDIT header carries them. -/
def freedWord (x : Port) : Nat :=
  ((List.range 5).map fun c => (tget 0 x.freedRx c % 1024) <<< (10 * c)).foldl (· + ·) 0

/-- The CRC of a slot: its 128 bytes, then its poison bits (R358, R409). -/
def slotCrc (bytes : List Byte) (poison : Nat) : Nat := (crc32c (bytes ++ leBytes 2 poison)).toNat

/-- The bytes of a frame, its header formed from the port as it stands. -/
def frameBytes (x : Port) (kind seq word1 : Nat) (slots : List FrameSlot) : List Byte :=
  let l := (List.range 4).map fun k => slots.getD k {}
  let codes := (l.mapIdx fun k s => (s.code % 4) <<< (2 * k)).foldl (· + ·) 0
  let word0 := (codes <<< 56) + (kind <<< 53) + (x.nak.toNat <<< 52) + ((x.lastOk % 1024) <<< 42) + ((seq % 1024) <<< 32) +
    0x00010601
  leBytes 8 word0 ++ leBytes 8 word1 ++ l.flatMap (fun s => fitBytes 128 s.bytes) ++
    l.flatMap fun s => leBytes 4 (slotCrc (fitBytes 128 s.bytes) s.poison)

/-- A frame leaves the port; its header has carried NAK. -/
def putFrame (d : Dev) (p kind seq word1 : Nat) (slots : List FrameSlot) : Dev :=
  let d := emit d (.frame p (frameBytes (portOf d p) kind seq word1 slots))
  modPort d p fun x => { x with nak := false }

/-- A sequenced frame leaves: KIND 1 carries its poison bits where it has any, else KIND 0 the slots freed. -/
def putTxFrame (d : Dev) (p : Nat) (f : TxFrame) : Dev :=
  if f.slots.any fun s => s.poison != 0 then
    putFrame d p 1 f.seq ((f.slots.mapIdx fun k s => (s.poison % 65536) <<< (16 * k)).foldl (· + ·) 0) f.slots
  else putFrame d p 0 f.seq (freedWord (portOf d p)) f.slots

/-- An idle frame tells the partner what an ACTIVE port has to tell. An ACTIVE port sends frames without a gap (R402);
of its idle frames the model sends those whose header differs from the last.
DESIGN CHOICE, safe (log 132). -/
def sendIdle (d : Dev) (p : Nat) : Dev :=
  let x := portOf d p
  if x.st = .active then putFrame d p 0 x.txSeq (freedWord x) [] else d

/-- The lowest rate code that this side can use: MAX_RATE and the ordering code allow it (R405). -/
def lowestRate (d : Dev) (p : Nat) : Nat := max (regField d .xpCtl [p / 8, p % 8] 10 8) d.limits.maxRate

/-- The rate that this side proposes (R405). -/
def ownProposal (d : Dev) (p : Nat) : Nat := max (lowestRate d p) (portOf d p).triedRate

/-- STEP of a state in which TRAIN frames go out. A retrain measures again.
DESIGN CHOICE, unsafe (log 65). -/
def trainStep : PortSt → Nat
  | .equalize => 1
  | .measure => 2
  | .retrain => 2
  | .negotiate => 3
  | _ => 0

/-- The receive-buffer slots of channels 0 to 4 (R414). -/
def ownCredits : List Nat := [512, 256, 512, 256, 64]

/-- This device's training record (R406). -/
def trainRecord (d : Dev) (p tTx : Nat) : List Byte :=
  let x := portOf d p
  let flags := (regBit d .tbStatus [] 5).toNat + 2 * (regBit d .xpCtl [p / 8, p % 8] 1).toNat + 4 * (regBit d .xrCfg [] 16).toNat
  leBytes 2 (ownNo d) ++ leBytes 1 p ++ leBytes 1 1 ++ leBytes 2 1 ++ leBytes 1 (lowestRate d p) ++ leBytes 1 (ownProposal d p) ++
    leBytes 1 (trainStep x.st) ++ leBytes 1 flags ++ List.replicate 6 0 ++
    leBytes 8 tTx ++ leBytes 8 ((x.echo.map (·.1)).getD 0) ++
    leBytes 8 ((x.echo.map fun e => tTx + 2 ^ 64 - e.2).getD 0) ++
    ownCredits.flatMap (leBytes 2) ++ List.replicate 14 0 ++
    (List.range 4).flatMap (fun i => leBytes 2 (x.rxSkew.getD i 0)) ++ List.replicate 56 0

/-- A TRAIN frame leaves: on entering a state of training, and in answer to a record (R405 to R407). Its slot 0 is marked
as a data sector.
DESIGN CHOICE, safe (log 132). -/
def sendTrain (d : Dev) (p : Nat) : Dev :=
  let (t, d) := stampNow d p
  putFrame d p 3 (portOf d p).txSeq 0 [{ code := 2, bytes := trainRecord d p t }]

/-- Enter a state; entries to DETECT and RETRAIN are counted (R434), and VSER follows (R501). -/
def enterPort (d : Dev) (p : Nat) (st : PortSt) : Dev :=
  let d := putXpStatus (modPort d p fun x => { x with st := st }) p 3 0 (portStCode st)
  let d := noteSerdes (putXpStatus d p 39 32 (st == .active).toNat)
  if st = .detect then regBump d .xpErrs [p / 8, p % 8] 47 32 1
  else if st = .retrain then regBump d .xpErrs [p / 8, p % 8] 63 48 1
  else d

/-! ### Routes (R418, R419) -/

/-- Ports of a route entry. -/
def entryPorts (v : Nat) : List Nat :=
  let bs := (List.range 4).map fun i => bits v (8 * i + 7) (8 * i)
  if bits v 63 41 ≠ 0 || bits v 39 32 ≠ 0 || bs.any fun b => decide (64 ≤ b) && decide (b ≤ 254) then []
  else bs.filter fun b => b != 0xFF

def noRoute : Nat := 0xFFFFFFFF

/-- Keep a route entry in a rind die's cache of 256; which entry gives way is free.
DESIGN CHOICE, safe (log 66). -/
def cacheRoute (d : Dev) (r dev v : Nat) : Dev :=
  let mine := d.routes.filter fun e => e.1 / 65536 == r
  let d := if mine.length < 256 then d
    else
      let (n, d) := drawNat d
      match mine[n % mine.length]? with
      | some e => { d with routes := tdel d.routes e.1 }
      | none => d
  { d with routes := tput d.routes (65536 * r + dev) (BitVec.ofNat 64 v) }

/-- The route entry of a device as rind die `r` sees it; `none` while its read waits. -/
def routeEntry (d : Dev) (r dev : Nat) : Dev × Option Nat :=
  let x := regGet d .xrRoute
  if !bitAt x 63 then (d, some noRoute)
  else match tfind d.routes (65536 * r + dev) with
    | some v => (d, some v.toNat)
    | none =>
      let a := (bits x 47 19 <<< 19) + 8 * dev
      match readWhole d (.mover r) a 8 with
      | (d, none) => (d, none)
      | (d, some (l, _)) => (cacheRoute d r dev (leNat l), some (leNat l))

/-- The port that an entry gives a message. -/
def choosePort (d : Dev) (v addr src : Nat) : Option Nat :=
  let ps := (entryPorts v).filter (portActive d)
  ps[Nat.xor (bits addr 47 10) src % ps.length]?

/-- The dateline moves class 0 to class 1. -/
def dateline (v ch : Nat) : Nat := if bitAt v 40 && (ch == 0 || ch == 2) then ch + 1 else ch

/-! ### Sending (R412 to R415) -/

def slotsOf (m : XMsg) : Nat := 1 + msgSectors m

/-- Credits left in a channel of a port. -/
def creditsLeft (x : Port) (ch : Nat) : Nat :=
  tget 0 x.credits ch - (tget 0 x.sentSlots ch + 1024 - tget 0 x.freedTx ch) % 1024

/-- A message of this device with RELEASE waits for every earlier message to its device to have its response (R424); one
that is forwarded does not. -/
def releaseReady (d : Dev) (m : XMsg) : Bool :=
  !m.release || decide (m.hops > 0) || (d.requests.takeWhile fun q => q.tag != m.tag).all fun q => q.dst != m.dst

/-- The first message of each channel that the port holds. -/
def heads (out : List XMsg) : List XMsg :=
  (out.foldl (fun (acc : List XMsg × List Nat) m =>
    if nmem m.channel acc.2 then acc else (acc.1 ++ [m], m.channel :: acc.2)) ([], [])).1

/-- The message that the port starts next: of the first of each channel, those that have their credits, room in the retry
buffer and no release to wait for ask, and R110 chooses. The channels are the requesters.
DESIGN CHOICE, unsafe (log 133). -/
def nextSend (d : Dev) (p : Nat) : Option XMsg :=
  let x := portOf d p
  if x.st ≠ .active then none
  else
    let ms := (heads x.outbox).filter fun m =>
      decide (creditsLeft x m.channel ≥ slotsOf m) && decide (x.txFrames.length + (slotsOf m + 3) / 4 ≤ 256) && releaseReady d m
    (arbitrate x.txPtr 5 (ms.map fun m => (m.channel, effectivePriority d (.xtx p) (m.hue % 16)))).bind fun c =>
      ms.find? fun m => m.channel == c

/-- The poison bits of a sector as a number. -/
def poisonBits (l : List Bool) : Nat := (l.mapIdx fun i b => b.toNat <<< i).foldl (· + ·) 0

/-- Slots of a message: its descriptor sector and its data sectors. -/
def msgSlots (m : XMsg) : List FrameSlot :=
  { code := 1, bytes := fitBytes 128 ((descWords m).flatMap fun w => leBytes 8 w.toNat), hue := m.hue % 16 } ::
    (pieces 128 (fitBytes (128 * msgSectors m) m.data)).mapIdx fun k bs =>
      { code := 2, bytes := bs, poison := poisonBits ((m.poison.drop (16 * k)).take 16), hue := m.hue % 16 }

/-- Number frames from a sequence number on. -/
def numberFrames : Nat → List (List FrameSlot) → List TxFrame
  | _, [] => []
  | n, f :: t => { seq := n % 1024, slots := f, sent := 1 } :: numberFrames (n + 1) t

/-- The slots that a message came in are free (R414), and the port they belong to says so. -/
def freeHold (d : Dev) (m : XMsg) : Dev := match m.hold with
  | some (p, ch, n) => sendIdle (modPort d p fun x => { x with freedRx := tmod 0 x.freedRx ch fun k => (k + n) % 1024 }) p
  | none => d

/-- Start one message: its frames join the retry buffer and leave, its slots take credits. -/
def startMsg (d : Dev) (p : Nat) (m : XMsg) : Dev :=
  let d := hueGrants d (.xtx p) (m.hue % 16) (128 * slotsOf m) 128
  let fs := numberFrames (portOf d p).txSeq (pieces 4 (msgSlots m))
  let upd (x : Port) : Port := { x with
    outbox := x.outbox.erase m, txFrames := x.txFrames ++ fs, txSeq := (x.txSeq + fs.length) % 1024,
    txPtr := (m.channel + 1) % 5, sentSlots := tmod 0 x.sentSlots m.channel fun n => (n + slotsOf m) % 1024 }
  freeHold (fs.foldl (fun d f => putTxFrame d p f) (modPort d p upd)) m

/-- Start what can be started. -/
def pumpPort (d : Dev) (p : Nat) : Dev :=
  iterOpt (fun d => (nextSend (rollWindow d) p).map (startMsg d p)) (portOf d p).outbox.length d

def queueMsg (d : Dev) (p : Nat) (m : XMsg) : Dev := pumpPort (modPort d p fun x => { x with outbox := x.outbox ++ [m] }) p

/-! ### Transfers that fail, requests that end (R276, R278, R422, R423) -/

def modXfer (d : Dev) (id : Nat) (f : Transfer → Transfer) : Dev := { d with xfers := lmod (fun x => x.id == id) f d.xfers }

/-- A transfer ends with an error: it issues nothing more. -/
def failXfer (d : Dev) (id : Nat) (st : Half) : Dev :=
  modXfer d id fun x => if x.st == .active then { x with st := .failing, status := st } else x

/-- A request has ended. -/
def dropRequest (d : Dev) (q : XReq) : Dev :=
  modXfer { d with requests := d.requests.filter fun x => !(x.tag == q.tag) } q.xfer fun x => { x with waiting := x.waiting - 1 }

/-- A request ends with an error. -/
def endRequest (d : Dev) (q : XReq) (st : Half) : Dev := failXfer (dropRequest d q) q.xfer st

/-- Every message that waits for a response may now be releasable: each port starts what it can. -/
def pumpAll (d : Dev) : Dev := (d.ports.map (·.1)).foldl pumpPort d

/-- The port's link state is forgotten. -/
def clearLink (x : Port) : Port :=
  { x with txFrames := [], outbox := [], credits := [], sentSlots := [], freedTx := [], freedRx := [], asm := [], asmNeed := 0,
           asmData := [], asmPoison := [], nak := false, txSeq := 0, expectSeq := 0, lastOk := 1023,
           ackSeen := 1023, exchanges := [] }

/-- A message no longer counts slots of port `p`. -/
def unhold (p : Nat) (m : XMsg) : XMsg := if m.hold.any fun h => h.1 == p then { m with hold := none } else m

/-- Slots that messages came in at port `p` are gone with the link. -/
def forgetHolds (d : Dev) (p : Nat) : Dev :=
  { d with ports := d.ports.map fun e =>
      (e.1, { e.2 with inbox := e.2.inbox.map (unhold p), outbox := e.2.outbox.map (unhold p) }) }

/-- A port goes down (R423, R429): requests end, what it was to forward is dropped. -/
def linkDown (d : Dev) (p : Nat) (next : PortSt) : Dev :=
  let d := (d.requests.filter fun q => q.port == p).foldl (fun d q => endRequest d q stLinkDown) d
  let gone := (portOf d p).outbox.map (unhold p)
  let d := forgetHolds (modPort d p clearLink) p
  let d := putXpStatus d p 31 16 stLinkDown.toNat
  let d := lostSource (logErr (enterPort d p next) stLinkDown ukXeost p 3) p
  let d := pumpAll (gone.foldl freeHold d)
  if tbRole d = 2 && regField d .tbConfig [] 15 8 == p then loseReference d else d

/-! ### Requests of this device (R418, R422) -/

/-- Send a request for a transfer: `none` while the route's read waits; a failed route ends the transfer. -/
def sendRequest (d : Dev) (x : Transfer) (op addr : Nat) (m : XMsg) (first count : Nat) : Option Dev :=
  match routeEntry d x.rind m.dst with
  | (_, none) => none
  | (d, some v) => match choosePort d v addr m.src with
    | none => some (failXfer d x.id stLinkRoute)
    | some p =>
      let q : XReq := { tag := m.tag, rind := x.rind, xfer := x.id, port := p, dst := m.dst, addr := addr, len := m.len,
                        sent := d.tb.now, isRead := op == xoRead, first := first, count := count }
      let d := modXfer { d with requests := d.requests ++ [q], nextTag := (d.nextTag + 1) % 2 ^ 32 } x.id fun x =>
        { x with waiting := x.waiting + 1 }
      some (queueMsg d p { m with channel := dateline v m.channel })

/-- Channel of a response (R414). -/
def respChannel (ch : Nat) : Nat := if ch = 1 || ch = 3 then 3 else 2

/-- A response that cannot be delivered is dropped (R418). -/
def undelivered (d : Dev) : Dev := regBump d .xrCounts [] 31 16 1

/-- The response to a message. -/
def respMsg (d : Dev) (m : XMsg) (st : Half) (data : List Byte) : XMsg :=
  { dst := m.src, src := ownNo d, hue := m.hue, hops := 0, channel := respChannel m.channel,
    op := if m.op = xoRead then xoReadData else xoWriteAck, rsv := false, release := false, fmt := 0, addr := m.addr,
    combine := 0, coll := 0xFFFF, tag := m.tag, status := st.toNat, len := m.len, data := layData m.addr data, poison := [] }

/-- Answer a message that arrived at port `p`; `none` while the route's read waits. -/
def answer (d : Dev) (p : Nat) (m : XMsg) (st : Half) (data : List Byte) : Option Dev :=
  let d := if st = stOk then d else regBump d .xrCounts [] 63 32 1
  match routeEntry d (p / 8) m.src with
  | (_, none) => none
  | (d, some v) =>
    let r := respMsg d m st data
    match choosePort d v r.addr r.src with
    | none => some (undelivered d)
    | some q => some (queueMsg d q { r with channel := dateline v r.channel })

end Sys2Proof.Machine
end

