-- ==== Sys2Proof/Machine/Mover.lean ====
section
/-! DEFINITION. Mover transfers (R261 to R264, R271 to R279): the walk over the transfer shape, sector reads and writes,
combining, the messages of peer transfers, completion and errors; and the commands that start transfers. -/
namespace Sys2Proof.Machine
open Sys2Proof

/-! ### Elements (R261, R262, R264, R270) -/

/-- Transfer indices of a flat index. -/
def xferIndex : List Nat → Nat → List Nat
  | [], _ => []
  | n :: t, f => f % n :: xferIndex t (f / n)

def elemCount (c : MoverCmd) : Nat := c.counts.foldl (· * ·) 1

/-- Indices of a descriptor for a transfer element. -/
def elemIndex (c : MoverCmd) (origin : List Int) (f : Nat) : List Int :=
  List.zipWith (fun (j : Nat) (o : Int) => (j : Int) + o) (xferIndex c.counts f) origin

/-- Clamp the indices of a read (R261). -/
def clampIndex (x : Desc) (ix : List Int) : List Int :=
  List.zipWith (fun (e : Dim) (i : Int) => clampInt 0 ((e.extent : Int) - 1) i) x.dims ix

/-- A write index lies within the extents (R262). -/
def inExtents (x : Desc) (ix : List Int) : Bool :=
  (x.dims.zip ix).all fun e => decide (0 ≤ e.2) && decide (e.2 < (e.1.extent : Int))

/-- Bit address of a source element, and whether it is clamped. -/
def srcBit (c : MoverCmd) (x : Desc) (f : Nat) : Nat × Bool :=
  let ix := elemIndex c c.srcOrigin f
  ((descBit x (clampIndex x ix)).toNat, clampIndex x ix != ix)

/-- Bit address of a destination element, unless the write is discarded. -/
def dstBit (c : MoverCmd) (x : Desc) (f : Nat) : Option Nat :=
  let ix := elemIndex c c.dstOrigin f
  if inExtents x ix then some (descBit x ix).toNat else none

/-- The parts of `n` bits from bit `b` on that lie in blocks of `size` bits: (bit, bits, offset in the value). -/
def bitPieces (size b n : Nat) : List (Nat × Nat × Nat) :=
  if b / size = (b + n - 1) / size then [(b, n, 0)]
  else let k := size - b % size; [(b, k, 0), (b + k, n - k, k)]

/-- Combining two elements (R216, R228, R263): SUM or MAX. -/
def combineElem (mode fmt old new : Nat) : Nat :=
  if fmt = 0x09 then (if mode = 1 then wrapInt 32 (sext 32 old + sext 32 new) else wrapInt 32 (max (sext 32 old) (sext 32 new)))
  else if fmt = 0x0A then (if mode = 1 then wrapInt 8 (sext 8 old + sext 8 new) else wrapInt 8 (max (sext 8 old) (sext 8 new)))
  else if mode = 1 then (toElem fmt .rne false (vadd (elemVal fmt old) (elemVal fmt new))).x
  else (toElem fmt .rne false (fp32Val (fmax32 (fp32Round (elemVal fmt old)) (fp32Round (elemVal fmt new))))).x

/-! ### Sector accesses -/

/-- The stage buffer of a tile answers: its block is powered and the tile is there (R509, R544). -/
def sbServes (d : Dev) (t : Nat) : Bool := blkServes d (quadOf t) && (tileOf d t).present

/-- A data-path access to a gated block (R509, R510). -/
def gateHit (d : Dev) : Dev := regBump d .gateCount [] 31 0 1

def descTile (x : Desc) : Nat := 16 * x.y + x.x

/-- What an access comes to: a value, a wait, or an end of the transfer. -/
inductive MovRes (α : Type) where
  | ok (v : α)
  | wait
  | stop (st : Half)

/-- Read the sector at `a`. -/
def moverSector (d : Dev) (r : Nat) (x : Desc) (a : Nat) (spent : Bool) : Dev × MovRes (List (DWord × Bool)) :=
  let grant (d : Dev) : Dev := hueGrant d (.mover r) d.hue 128
  if x.sb then
    let t := descTile x
    if !sbServes d t then (gateHit (grant d), .ok ((poisonWords a 128).map fun _ => (0, false)))
    else
      let cut := cutOff d t
      let (d, bs, ps) := sbWords d t a 128
      (grant (if cut then loseCut d t 1 0 else d),
        .ok ((List.range 16).map fun i => (BitVec.ofNat 64 (leAt bs (8 * i) 8), cut || ps.getD i false)))
  else if !backed d a 128 then (d, .stop stUnbacked)
  else match sectorRead d (.mover r) a 128 { spent := spent } with
    | (d, none) => (d, .wait)
    | (d, some ws) => (grant d, .ok ws)

/-- The bits of a sector as one number. -/
def sectorNat (ws : List (DWord × Bool)) : Nat := ws.foldr (fun w acc => w.1.toNat + acc * 2 ^ 64) 0

/-- Take a device as it is after a further part of one sector access: the access is counted once. -/
def oneAccess (d d' : Dev) (r a : Nat) : Dev :=
  let keep (s : Nat) : Dev :=
    let d' := regPut d' .krSliceAcc [s] (regGet d .krSliceAcc [s])
    let (br, bx) := (Regulator.hbm (hbmLoc d a).stack).bytesReg d.hue
    let d' := regPut d' br bx (regGet d br bx)
    let k := 16 * (Regulator.hbm (hbmLoc d a).stack).no + d.hue
    modSlice { d' with hueWin := tput d'.hueWin k (tget 0 d.hueWin k) } s fun sl =>
      { sl with winAcc := (sliceOf d s).winAcc, winHits := (sliceOf d s).winHits }
  match route d (.mover r) a with
  | .line s _ => keep s
  | .hbm s => keep s
  | _ => d'

/-! ### The walk -/

/-- A walk over elements: the device now and as it was when the effects before element `start` were complete, the sector
last read, the destination bits gathered and not yet written, and counts since `start`. -/
structure Walk where
  d      : Dev
  base   : Dev
  xfer   : Transfer
  next   : Nat
  start  : Nat
  /-- Line and flat index of the last access to it. -/
  lasts  : Tab Nat := []
  rsec   : Option (Nat × List (DWord × Bool)) := none
  /-- Destination bits: first bit of the block, width of the block in bits, value, mask, poisoned words. -/
  wblk   : Option Nat := none
  wval   : Nat := 0
  wmask  : Nat := 0
  wpois  : List Nat := []
  /-- Sector of the last combine. -/
  csec   : Option Nat := none
  /-- Source bits of a READ being gathered: first bit, bits, first element. -/
  req    : Option (Nat × Nat × Nat) := none
  clamped   : Nat := 0
  discarded : Nat := 0
  poisoned  : Nat := 0
  lastPois  : Option Nat := none
  /-- Last element that is not discarded. -/
  lastKept  : Nat := 0
  halt   : Bool := false

def Walk.cmd (w : Walk) : MoverCmd := w.xfer.cmd
def Walk.rind (w : Walk) : Nat := w.xfer.rind

/-- The effects so far are complete: counts go to MOVER_COUNTS (R283). -/
def commit (w : Walk) : Walk :=
  let r := [w.rind]
  let d := regBump (regBump (regBump w.d .moverCounts r 63 40 w.discarded) .moverCounts r 39 16 w.clamped)
    .moverCounts r 15 0 w.poisoned
  let upd (x : Transfer) : Transfer := { x with moved := w.next, poisoned := x.poisoned || w.poisoned != 0 }
  let d := modXfer d w.xfer.id upd
  { w with d := d, base := d, start := w.next, clamped := 0, discarded := 0, poisoned := 0 }

/-- An access waits: everything since `start` is undone, but for the snoops it must wait for.
DESIGN CHOICE, unsafe (log 45). -/
def waitAt (w : Walk) (a n : Nat) (write : Bool) : Walk :=
  { w with d := startSnoops w.base (.mover w.rind) a n write, halt := true }

/-- The transfer ends here with an error. -/
def stopAt (w : Walk) (st : Half) : Walk :=
  let w := commit w
  { w with d := failXfer w.d w.xfer.id st, halt := true }

/-! ### Writing what is gathered -/

/-- Maximal runs of bytes that are written, each with one poison mark: (offset, bytes, poison). -/
def writeRuns (n : Nat) (covered poisoned : Nat → Bool) (byte : Nat → Byte) : List (Nat × List Byte × Bool) :=
  (((List.range n).foldl (fun (acc : List (Nat × List Byte × Bool) × Bool) i =>
    if !covered i then (acc.1, false)
    else match acc.2, acc.1 with
      | true, (o, bs, p) :: t =>
        if p == poisoned i then ((o, bs ++ [byte i], p) :: t, true) else ((i, [byte i], poisoned i) :: (o, bs, p) :: t, true)
      | _, l => ((i, [byte i], poisoned i) :: l, true)) ([], false)).1).reverse

/-- The byte of the destination as it stands, for a byte that is written in part. -/
def oldByte (d : Dev) (r : Nat) (x : Desc) (a : Nat) : Byte :=
  if x.sb then memByte (tileOf d (descTile x)).sb a else (peekBytes d (.mover r) a 1).headD 0

/-- Byte `i` of the gathered block, merged with what stands there.
DESIGN CHOICE, unsafe (log 45). -/
def gatheredByte (w : Walk) (x : Desc) (a i : Nat) : Byte :=
  let m := bits w.wmask (8 * i + 7) (8 * i)
  let v := bits w.wval (8 * i + 7) (8 * i)
  if m = 255 then BitVec.ofNat 8 v
  else BitVec.ofNat 8 (Nat.lor (Nat.land v m) (Nat.land (oldByte w.d w.rind x (a + i)).toNat (255 - m)))

/-- Write runs of one sector to memory; `none` while one waits. -/
def writeSector (d : Dev) (r a : Nat) (runs : List (Nat × List Byte × Bool)) : Option Dev :=
  (runs.foldl (fun (acc : Option Dev × Bool) (e : Nat × List Byte × Bool) =>
    match acc.1 with
    | none => acc
    | some d =>
      let (d', ok) := sectorWrite d (.mover r) (a + e.1) e.2.1 e.2.2
      if ok then (some (if acc.2 then d' else oneAccess d d' r (a + e.1)), false) else (none, false)) (some d, true)).1

/-- Write the gathered sector to its local destination. -/
def flushLocal (w : Walk) (x : Desc) : Walk :=
  match w.wblk with
  | none => commit w
  | some b =>
    let a := b / 8
    let runs := writeRuns 128 (fun i => bits w.wmask (8 * i + 7) (8 * i) != 0) (fun i => nmem (i / 8) w.wpois)
      (gatheredByte w x a)
    let n := (runs.map fun e => e.2.1.length).foldl (· + ·) 0
    let grant (d : Dev) : Dev := hueGrant d (.mover w.rind) d.hue n
    let clear (d : Dev) : Walk := commit { w with d := d, wblk := none, wval := 0, wmask := 0, wpois := [] }
    if x.sb then
      let t := descTile x
      if !sbServes w.d t then clear (gateHit (grant w.d))
      else if cutOff w.d t then stopAt { w with d := loseCut w.d t 2 0, wblk := none } stCrcFinal
      else clear (grant (runs.foldl (fun d e => sbWrite d t (a + e.1) e.2.1 e.2.2) w.d))
    else if !backed w.d a 128 then stopAt { w with wblk := none } stUnbacked
    else match writeSector w.d w.rind a runs with
      | none => waitAt w a 128 true
      | some d => clear (grant d)

/-- The message that carries gathered bits to the peer (R272, R416): bytes written in part take free bits. -/
def peerMsg (w : Walk) (x : Desc) (b : Nat) (release : Bool) : XMsg × Dev :=
  let n := if w.wmask = 0 then 1 else Nat.log2 w.wmask + 1
  let lo := b / 8
  let hi := (b + n + 7) / 8
  let (free, d) := if b % 8 = 0 && n % 8 == 0 then (0, w.d) else drawNat w.d
  let k := b % 8
  let v := free % 2 ^ k + w.wval * 2 ^ k + ((free / 2 ^ k) * 2 ^ (k + n))
  let len := hi - lo
  let bs := leBytes len v
  let c := w.cmd
  let comb := x.combine = 1 || x.combine = 2
  ({ dst := c.peer, src := ownNo d, hue := c.hue, hops := 0, channel := 0, op := if comb then xoCombine else xoWrite,
     rsv := false, release := release, fmt := if comb then x.fmt else 0, addr := lo, combine := if comb then x.combine else 0,
     coll := 0xFFFF, tag := d.nextTag, status := 0, len := len, data := layData lo bs,
     poison := (List.range (16 * dataSectors lo len)).map fun i => nmem (lo / 128 * 16 + i) w.wpois }, d)

/-- Send the gathered bits to the peer. -/
def flushPeer (w : Walk) (x : Desc) : Walk :=
  match w.wblk with
  | none => commit w
  | some b =>
    let (m, d) := peerMsg w x b (decide (w.lastKept < w.next))
    match sendRequest d w.xfer m.op m.addr m 0 0 with
    | none => { w with d := (sendRequest w.base w.xfer m.op m.addr m 0 0).elim (routeEntry w.base w.rind m.dst).1 id, halt := true }
    | some d =>
      let failed := (d.xfers.find? fun y => y.id == w.xfer.id).any fun y => y.st == .failing
      let w := commit { w with d := d, wblk := none, wval := 0, wmask := 0, wpois := [] }
      { w with halt := failed }

/-- The local side of the transfer's destination. -/
def flush (w : Walk) : Walk :=
  match w.cmd.dst with
  | none => commit w
  | some x => if w.cmd.peerSide = 1 then flushPeer w x else flushLocal w x

/-! ### Elements -/

/-- Read one sector of the source, once for consecutive elements. -/
def fetchSector (w : Walk) (x : Desc) (k : Nat) (spent : Bool) : Walk × Option (List (DWord × Bool)) :=
  match w.rsec with
  | some (j, ws) => if j = k then (w, some ws) else go w
  | none => go w
where
  go (w : Walk) : Walk × Option (List (DWord × Bool)) :=
    match moverSector w.d w.rind x (128 * k) spent with
    | (d, .ok ws) => ({ w with d := d, rsec := some (k, ws) }, some ws)
    | (_, .wait) =>
      let w := flush w
      (if w.halt then w else { w with d := startSnoops w.d (.mover w.rind) (128 * k) 128 false, halt := true }, none)
    | (_, .stop st) =>
      let w := flush w
      (if w.halt then w else stopAt w st, none)

/-- Count the poisoned source words of an element, a word once for consecutive elements (R278). -/
def notePoison (w : Walk) (bad : List Nat) : Walk :=
  { w with poisoned := w.poisoned + (bad.filter fun i => some i != w.lastPois).length
           lastPois := match bad.getLast? with
             | some i => some i
             | none => w.lastPois }

/-- The value of a source element with its poison mark; poisoned words count once for consecutive elements (R278). -/
def readElem (w : Walk) (x : Desc) (b : Nat) : Walk × Option (Nat × Bool) :=
  let ps := bitPieces 1024 b (fmtWidth x.fmt)
  let twoInLine := match ps with
    | [p, q] => p.1 / 8192 == q.1 / 8192
    | _ => false
  let last (p : Nat × Nat × Nat) : Bool :=
    w.cmd.spent && !x.sb && tfind w.lasts (p.1 / 8192) == some w.next && !(twoInLine && p.2.2 == 0)
  ps.foldl (fun (acc : Walk × Option (Nat × Bool)) p =>
    match acc.2 with
    | none => acc
    | some (v, q) =>
      match fetchSector acc.1 x (p.1 / 1024) (last p) with
      | (w, none) => (w, none)
      | (w, some ws) =>
        let o := p.1 % 1024
        let part := bits (sectorNat ws) (o + p.2.1 - 1) o
        let words := (List.range 16).filter fun i => decide (i / 1 * 64 < o + p.2.1) && decide (o < i * 64 + 64)
        let bad := words.filter fun i => (ws.getD i (0, false)).2
        let w := notePoison w (bad.map (p.1 / 1024 * 16 + ·))
        (w, some (v + part * 2 ^ p.2.2, q || !bad.isEmpty))) (w, some (0, false))

/-- Combine one element into memory (R263): the word that holds it is left poisoned where either word is.
DESIGN CHOICE, unsafe (log 46). -/
def combineLocal (w : Walk) (x : Desc) (b v : Nat) (poison : Bool) : Walk :=
  let a := b / 8
  let n := fmtWidth x.fmt / 8
  let grant (d : Dev) : Dev := hueGrant d (.mover w.rind) d.hue n
  let same (d' : Dev) : Dev := if w.csec = some (a / 128) then oneAccess w.d d' w.rind a else d'
  let done (d : Dev) (k : Nat) : Walk := { w with d := d, csec := some (a / 128), poisoned := w.poisoned + k }
  if x.sb then
    let t := descTile x
    if !sbServes w.d t then done (gateHit (grant w.d)) 0
    else if cutOff w.d t then stopAt { w with d := loseCut w.d t 2 0 } stCrcFinal
    else
      let (d, old, q) := sbRead w.d t a n
      if q || poison then done (grant (sbWrite d t a old true)) (if poison then 0 else 1)
      else done (grant (sbWrite d t a (leBytes n (combineElem x.combine x.fmt (leNat old) v)) false)) 0
  else if !backed w.d a n then stopAt w stUnbacked
  else if poison then
    match sectorWrite w.d (.mover w.rind) a (peekBytes w.d (.mover w.rind) a n) true with
    | (d, true) => done (grant (same d)) 0
    | (_, false) => waitAt w a n true
  else match devAtomic w.d (.mover w.rind) a n (fun old => combineElem x.combine x.fmt old v) false with
    | (d, some (_, q)) => done (grant (same d)) q.toNat
    | (_, none) => waitAt w a n true

/-- Add bits to the gathered block. Poisoned words are noted by their number: in the block for a local sector, in memory for
a message. -/
def gather (w : Walk) (b n v : Nat) (poison : Bool) (base : Nat) : Walk :=
  let o := b - base
  let mask := (2 ^ n - 1) <<< o
  let word (i : Nat) : Nat := if w.cmd.peerSide = 1 then i else i % 16
  { w with wblk := some base, wval := putBits w.wval (o + n - 1) o v, wmask := Nat.lor w.wmask mask,
           wpois := if poison then (List.range (((b + n - 1) / 64) - b / 64 + 1)).foldl (fun l i => nadd (word (b / 64 + i)) l) w.wpois
             else w.wpois }

/-- Put one part of an element into the block that holds it, writing the block before it where it is another. -/
def putPart (w : Walk) (b n v : Nat) (poison : Bool) : Walk :=
  if w.halt then w
  else if w.cmd.peerSide = 1 then
    match w.wblk with
    | some s =>
      if s + (Nat.log2 w.wmask + 1) = b && s / 32768 == b / 32768 then gather w b n v poison s
      else
        let w := flush w
        if w.halt then w else gather w b n v poison b
    | none => gather w b n v poison b
  else
    let blk := b / 1024 * 1024
    if w.wblk = some blk then gather w b n v poison blk
    else
      let w := flush w
      if w.halt then w else gather w b n v poison blk

/-- Write one element. -/
def writeElem (w : Walk) (x : Desc) (b v : Nat) (poison : Bool) : Walk :=
  if w.cmd.peerSide ≠ 1 && (x.combine = 1 || x.combine = 2) then combineLocal w x b v poison
  else
    let size := if w.cmd.peerSide = 1 then 32768 else 1024
    (bitPieces size b (fmtWidth x.fmt)).foldl (fun w p => putPart w p.1 p.2.1 (bits v (p.2.2 + p.2.1 - 1) p.2.2) poison) w

/-- Element done. -/
def stepOn (w : Walk) (clamped discarded : Bool) : Walk :=
  if w.halt then w
  else { w with next := w.next + 1, clamped := w.clamped + clamped.toNat, discarded := w.discarded + discarded.toNat }

/-- One element of COPY or FILL with its source here. -/
def moveElem (w : Walk) : Walk :=
  let c := w.cmd
  let (w, got, cl) := match c.src with
    | none => (w, some (if c.words.isEmpty then c.fill.toNat else c.words.getD w.next 0, false), false)
    | some x =>
      let (b, cl) := srcBit c x w.next
      let (w, r) := readElem w x b
      (w, r, cl)
  match got, c.dst with
  | none, _ => w
  | some _, none => w
  | some (v, p), some x => match dstBit c x w.next with
    | none => stepOn w cl true
    | some b => stepOn (writeElem w x b v p) cl false

/-- Send the READ being gathered (R272). -/
def flushReq (w : Walk) : Walk :=
  match w.req with
  | none => commit w
  | some (b, n, first) =>
    let lo := b / 8
    let len := (b + n + 7) / 8 - lo
    let m (d : Dev) : XMsg :=
      { dst := w.cmd.peer, src := ownNo d, hue := w.cmd.hue, hops := 0, channel := 0, op := xoRead, rsv := false,
        release := false, fmt := 0, addr := lo, combine := 0, coll := 0xFFFF, tag := d.nextTag, status := 0, len := len,
        data := [], poison := [] }
    match sendRequest w.d w.xfer xoRead lo (m w.d) first (w.next - first + 1) with
    | none => { w with d := (routeEntry w.base w.rind w.cmd.peer).1, halt := true }
    | some d =>
      let failed := (d.xfers.find? fun y => y.id == w.xfer.id).any fun y => y.st == .failing
      let w := commit { w with d := d, req := none }
      { w with halt := failed }

/-- Add source bits to the READ being gathered. -/
def reqPart (w : Walk) (b n : Nat) : Walk :=
  if w.halt then w
  else match w.req with
    | some (s, k, first) =>
      if s + k = b && s / 32768 == b / 32768 then { w with req := some (s, k + n, first) }
      else
        let w := flushReq w
        if w.halt then w else { w with req := some (b, n, w.next) }
    | none => { w with req := some (b, n, w.next) }

/-- One element of a transfer whose source is on the peer. -/
def requestElem (w : Walk) : Walk :=
  match w.cmd.src with
  | none => w
  | some x =>
    let (b, cl) := srcBit w.cmd x w.next
    let gone := match w.cmd.dst with
      | some y => (dstBit w.cmd y w.next).isNone
      | none => false
    stepOn ((bitPieces 32768 b (fmtWidth x.fmt)).foldl (fun w p => reqPart w p.1 p.2.1) w) cl gone

/-- One element of a PREFETCH: its sector is read where its line is not present (R271). -/
def prefetchElem (w : Walk) : Walk :=
  match w.cmd.src with
  | none => w
  | some x =>
    let (b, cl) := srcBit w.cmd x w.next
    let w := (bitPieces 1024 b (fmtWidth x.fmt)).foldl (fun w p =>
      if w.halt then w
      else
        let a := p.1 / 1024 * 128
        let here := match route w.d (.mover w.rind) a with
          | .line s tl => (findLine (sliceOf w.d s) (a / 1024) tl).isNone
          | .wait => true
          | _ => false
        if here then (fetchSector { w with rsec := none } x (p.1 / 1024) false).1
        else if backed w.d a 128 then w else stopAt w stUnbacked) w
    stepOn w cl false

/-- Line and flat index of the last sector access to it, from element `f` on, over `n` elements. -/
def lastAccesses (c : MoverCmd) (x : Desc) (f n : Nat) : Tab Nat :=
  ((List.range n).foldl (fun (acc : Tab Nat × Option Nat) i =>
    (bitPieces 1024 (srcBit c x (f + i)).1 (fmtWidth x.fmt)).foldl (fun acc p =>
      if acc.2 = some (p.1 / 1024) then acc else (tput acc.1 (p.1 / 8192) (f + i), some (p.1 / 1024))) acc)
    ([], none)).1

def isFailing (d : Dev) (id : Nat) : Bool := (d.xfers.find? fun y => y.id == id).any fun y => y.st == .failing

/-- Walk a transfer from where it stands to before element `lim`.
DESIGN CHOICE, unsafe (log 45). -/
def walkXfer (d : Dev) (x : Transfer) (lim : Nat) : Dev :=
  let h := d.hue
  let d := withHue d x.cmd.hue
  let c := x.cmd
  let n := min lim (elemCount c) - x.moved
  let lasts := match c.src with
    | some y => if c.spent && c.peerSide ≠ 2 && !y.sb then lastAccesses c y x.moved (elemCount c - x.moved) else []
    | none => []
  let kept := match c.dst with
    | some y => ((List.range (elemCount c - x.moved)).filter fun i => (dstBit c y (x.moved + i)).isSome).getLast?.elim 0 (x.moved + ·)
    | none => 0
  let w : Walk := { d := d, base := d, xfer := x, next := x.moved, start := x.moved, lasts := lasts, lastKept := kept }
  let elem (w : Walk) : Walk :=
    if w.halt then w
    else if c.peerSide = 2 then requestElem w
    else if c.op = opPrefetch then prefetchElem w
    else moveElem w
  let w := iter elem n w
  let w := if w.halt then w else if c.peerSide = 2 then flushReq w else flush w
  withHue w.d h

/-! ### Data that a READ brings (R272, R417) -/

/-- Write the elements of a READ's data to the local destination, counting the poisoned words it carries (R278); `none`
while a write waits. -/
def landRead (d : Dev) (x : Transfer) (q : XReq) (data : Nat → Nat) (bad : Nat → Bool) : Option Dev :=
  match x.cmd.src, x.cmd.dst with
  | some sx, some dx =>
    let c := x.cmd
    let w : Walk := { d := withHue d c.hue, base := withHue d c.hue, next := 0, start := 0,
                      xfer := { x with cmd := { c with peerSide := 0 } } }
    let one (w : Walk) (f : Nat) : Walk :=
      if w.halt then w
      else match dstBit c dx f with
        | none => w
        | some b =>
          (bitPieces 32768 (srcBit c sx f).1 (fmtWidth sx.fmt)).foldl (fun w p =>
            if w.halt || p.1 / 8 < q.addr || p.1 / 8 ≥ q.addr + q.len then w
            else
              let v := (List.range p.2.1).foldl (fun acc i =>
                acc + bits (data ((p.1 + i) / 8 - q.addr)) ((p.1 + i) % 8) ((p.1 + i) % 8) * 2 ^ i) 0
              let words := (List.range ((p.1 + p.2.1 - 1) / 64 - p.1 / 64 + 1)).map (p.1 / 64 + ·)
              let pois := words.filter fun i => bad (max (8 * i) (p.1 / 8) - q.addr)
              let w := notePoison w pois
              if dx.combine = 1 || dx.combine = 2 then combineLocal w dx b v (!pois.isEmpty)
              else (bitPieces 1024 (b + p.2.2) p.2.1).foldl (fun w r =>
                putPart w r.1 r.2.1 (bits v (r.2.2 + r.2.1 - 1) r.2.2) (!pois.isEmpty)) w) w
    let w := (List.range q.count).foldl (fun w i => one w (q.first + i)) w
    let w := if w.halt then w else flushLocal w dx
    -- the count of elements moved is that of the walk that sent the READs
    let keep (y : Transfer) : Transfer := { y with moved := x.moved }
    let d' := modXfer (withHue w.d d.hue) x.id keep
    if w.halt && !isFailing d' x.id then none else some d'
  | _, _ => some d

/-! ### Ends of transfers (R273, R276) -/

/-- Completion record of R273. -/
def complRecord (st : Half) (poisoned : Bool) (tag : Nat) : Nat := (st.toNat <<< 48) + (poisoned.toNat <<< 47) + tag % 2 ^ 32

/-- Act on COMPL_MODE: `none` while the write waits, else the status after it.
DESIGN CHOICE, unsafe (log 47). -/
def writeCompl (d : Dev) (x : Transfer) (st : Half) : Dev × Option Half :=
  let c := x.cmd
  let rec_ := complRecord st x.poisoned c.tag
  let add : Nat := if st = stOk then 1 else 0x100000000
  if c.complMode = 0 then (d, some st)
  else if c.complSb then
    let t := 16 * c.complY + c.complX
    if !sbServes d t then (gateHit d, some st)
    else if cutOff d t then (loseCut d t 2 0, some (if st = stOk then stCrcFinal else st))
    else if c.complMode = 1 then (sbWrite d t c.complAddr (leBytes 8 rec_) false, some st)
    else
      let (d, l, p) := sbRead d t c.complAddr 8
      (if p then d else sbWrite d t c.complAddr (leBytes 8 ((leNat l + add) % 2 ^ 64)) false, some st)
  else if !backed d c.complAddr 8 then (d, some (if st = stOk then stUnbacked else st))
  else if c.complMode = 1 then
    match devWrite d (.mover x.rind) c.complAddr (leBytes 8 rec_) with
    | (d, true) => (d, some st)
    | (d, false) => (d, none)
  else match devAtomic d (.mover x.rind) c.complAddr 8 (fun v => (v + add) % 2 ^ 64) false with
    | (d, some _) => (d, some st)
    | (_, none) => (startSnoops d (.mover x.rind) c.complAddr 8 true, none)

/-- Record a failed transfer (R284): the first, while VALID is 0; MORE stands until it is cleared. -/
def moverErr (d : Dev) (r : Nat) (st : Half) (tag : Nat) : Dev :=
  if regBit d .moverErr [r] 63 then regSetBit d .moverErr [r] 62
  else regSetField (regSetField (regSetBit d .moverErr [r] 63) .moverErr [r] 47 16 tag) .moverErr [r] 15 0 st.toNat

/-- Free a transfer and tell who started it. -/
def freeXfer (d : Dev) (x : Transfer) (st : Half) : Dev :=
  let d := { d with xfers := d.xfers.filter fun y => !(y.id == x.id) }
  let d := if st = stOk then d else moverErr d x.rind st x.cmd.tag
  match x.origin with
  | .op n => complete d n st (complRecord st x.poisoned x.cmd.tag) 0 x.poisoned
  | .service n => match tfind d.svcs n with
    | some v =>
      { d with svcs := tput d.svcs n { v with
          xferEnd := some (x.id, st), lastStatus := if st = stOk then v.lastStatus else st } }
    | none => d
  | _ => d

/-- Write the completion and end; while the completion's write waits the transfer stays. -/
def endXfer (d : Dev) (x : Transfer) (st : Half) : Dev :=
  match writeCompl (withHue d x.cmd.hue) x st with
  | (d', none) => withHue d' d.hue
  | (d', some st) => freeXfer (withHue d' d.hue) x st

/-! ### Events of a mover -/

def activeAt (d : Dev) (r place : Nat) : Option Transfer :=
  d.xfers.find? fun x => x.rind == r && (x.st == .active || x.st == .failing) && x.place == place

/-- The lowest free active place. -/
def freePlace (d : Dev) (r : Nat) : Option Nat := (List.range 16).find? fun p => (activeAt d r p).isNone

/-- Every line of a PREFETCH has been fetched. -/
def fetched (d : Dev) (c : MoverCmd) : Bool := match c.op == opPrefetch, c.src with
  | true, some x =>
    let ls := (List.range (elemCount c)).foldl (fun acc f => nadd ((srcBit c x f).1 / 8192) acc) []
    d.slices.all fun e => e.2.fills.all fun f => !nmem f.idx ls
  | _, _ => true

/-- Chained transfers of collectives that are DONE join their mover's queue while it has room (R425).
DESIGN CHOICE, unsafe (log 49). -/
def startNexts (d : Dev) (r : Nat) : Dev :=
  (List.range 16).foldl (fun d n =>
    let c := collOf d r n
    match c.st == .done, c.next with
    | true, some m =>
      if queueUsed d r ≥ 256 || !blkAccepts d (blkMover r) then d
      else (addXfer { d with colls := tput d.colls (collKey r n) { c with next := none } } r .queued m .collective).1
    | _, _ => d) d

/-- TRANSFER_ACTIVATE (R276): the oldest queued transfer takes a free place; a transfer to or from a peer begins to
send. -/
def execTransferActivate (rind : Nat) (s : State) : Result :=
  act s fun d =>
    match d.xfers.find? fun x => x.rind == rind && x.st == .queued && (blkOn d (blkMover rind) || !x.held),
      freePlace d rind with
    | some x, some p =>
      if !blkServes d (blkMover rind) || d.creset.active then d
      else
        let x := { x with st := .active, place := p }
        let d := startNexts (modXfer d x.id fun _ => x) rind
        if x.cmd.peerSide = 0 then d else walkXfer d x (elemCount x.cmd)
    | _, _ => d

/-- TRANSFER_DONE (R273, R276): the rest of the elements move; when all have and no request is unanswered the transfer
ends.
DESIGN CHOICE, unsafe (log 45). -/
def execTransferDone (rind place : Nat) (s : State) : Result :=
  act s fun d => match activeAt d rind place with
    | none => d
    | some x =>
      if x.st ≠ .active || d.creset.active then d
      else
        let d := walkXfer d x (elemCount x.cmd)
        match activeAt d rind place with
        | none => d
        | some x =>
          if x.st == .active && x.moved ≥ elemCount x.cmd && x.waiting == 0 && fetched d x.cmd then endXfer d x stOk else d

/-- Status of a cause, where it can befall the transfer. -/
def causeStatus (x : Transfer) : XferCause → Option Half
  | .unbacked => none
  | .crcFinal => some stCrcFinal
  | .peer st => if x.cmd.peerSide ≠ 0 && st % 65536 != 0 then some (BitVec.ofNat 16 st) else none
  | .errorResponse st => if st % 65536 ≠ 0 then some (BitVec.ofNat 16 st) else none

/-- TRANSFER_ERROR (R276, R278): elements before `elems` move, then the cause ends the transfer. An unbacked address is
met by the element that names it. -/
def execTransferError (rind place elems : Nat) (cause : XferCause) (s : State) : Result :=
  act s fun d => match activeAt d rind place with
    | none => d
    | some x =>
      if x.st ≠ .active || d.creset.active then d
      else
        let lim := match cause with
          | .unbacked => elemCount x.cmd
          | _ => elems
        let d := walkXfer d x lim
        match causeStatus x cause with
        | some st => failXfer d x.id st
        | none => d

/-- TRANSFER_FAILED (R276): the accesses in flight are done. In a compute reset only the transfers that it aborts end
(R279). -/
def execTransferFailed (rind place : Nat) (s : State) : Result :=
  act s fun d => match activeAt d rind place with
    | none => d
    | some x =>
      if x.st == .failing && x.waiting == 0 && (!d.creset.active || x.status == stMoverAborted) then endXfer d x x.status
      else d

/-- A MOVER_START fires (R276): the reserved transfer joins the queue; one that reaches DUE while its mover is not ON ends
(R507).
DESIGN CHOICE, unsafe (log 48). -/
def fireMover (d : Dev) (r : Nat) (c : Cue) : Dev :=
  let d := takeCue d c
  match c.xfer with
  | none => d
  | some id =>
    if blkOn d (blkMover r) then queueReserved d id
    else
      let d := modXfer d id fun x => { x with st := .failing, status := stBlockGated, place := (freePlace d r).getD 16 }
      match d.xfers.find? fun x => x.id == id with
      | some x => if d.creset.active then d else endXfer d x stBlockGated
      | none => d

/-- MOVER_START_FIRES (R102, R276). -/
def execMoverStartFires (r : Nat) (s : State) : Result :=
  act s fun d => match nextCue d (.rind r) with
    | none => d
    | some c => if c.action ≠ actMoverStart then d else fireMover d r c

/-! ### Starts (R275) -/

/-- MOVE.START at issue.
DESIGN CHOICE, unsafe (log 51). -/
def doMoveStart (dst : Nat) (addr space mover : Opnd) (d : Dev) (i : Iss) : Issued :=
  guardOk (dstOk (.reg dst) && [addr, space, mover].all opndOk) <|
    orFault (consumed i [addr, space, mover] [i.low]) <|
      let v (o : Opnd) : Nat := (opndVal i i.low o).val
      let a := v addr
      let r := v mover
      let fin (d : Dev) (st : Half) : Issued := .done (writeAll d i (.reg dst) st.toNat)
      let start (d : Dev) (c : MoverCmd) : Issued :=
        fin (addXfer d r .queued { c with hue := i.stage.hue } (.stage i.cv)).1 stOk
      if v space % 2 = 0 && a % 64 != 0 then .fault stMemAlign 0
      else if v space % 2 = 0 && !sbOk i.seat a 512 then .fault stSbRange 0
      else if r > 7 then fin d stMoverField
      else if v space % 2 = 1 then
        match fetchMover d r a (some (tilesOf d i.cv)) with
        | (d, none) => .stall d
        | (d, some (.error st)) => fin d st
        | (d, some (.ok c)) => start d c
      else if !blkAccepts d (blkMover r) then fin d stBlockGated
      else
        let (d, l, _) := sbRead d i.t a 512
        match checkMover d r l (some (tilesOf d i.cv)) with
        | .error st => fin d st
        | .ok c => start d c

/-- MOVE_START (R275): acts once for each issue. -/
def execMoveStart (t g dst : Nat) (addr space mover : Opnd) (s : State) : Result :=
  act s fun d => issue d t g [] (doMoveStart dst addr space mover)

/-- MOVER: the host or core command record with the address and the mover (R447, R448). -/
def handleMover : Handler := fun d c op =>
  match fetchMover d (c.args.getD 1 0) (c.args.getD 0 0) none with
  | (d, none) => (none, d)
  | (d, some (.error e)) => (some e, d)
  | (d, some (.ok x)) =>
    (some stOk, setOpHue (addXfer d (c.args.getD 1 0) .queued x (.op (op.getD 0))).1 op x.hue)

/-- MOVER: the receipt read of a record with its opcode (R447). -/
def execMover (w : Win) (s : State) : Result :=
  act s fun d => submitAs d w 0x10 handleMover

/-- The receipt of a submit (R281). -/
def moverReceipt (d : Dev) (r : Nat) (st : Half) : Dev :=
  regSetField (regBump d .moverReceipt [r] 31 16 1) .moverReceipt [r] 15 0 st.toNat

/-- The rule of MOVER_SUBMIT of mover `m`: a write whose command read must wait is taken up again. -/
def moverSubmitRule (d : Dev) (r : Req) (m val : Nat) : Dev :=
  match submitMover d m (bits val 47 0) .firmware none none .queued with
  | (d, none) => waitFor d (.moverSubmit r m 8 (BitVec.ofNat 64 val))
  | (d, some (st, _)) => moverReceipt d m st

/-- MOVER_SUBMIT (R280). -/
def execMoverSubmit (r : Req) (rind bytes : Nat) (v : DWord) (s : State) : Result :=
  act s fun d => withWrite d r (regOff .moverSubmit [rind % 8]) bytes v fun d _ _ _ val => moverSubmitRule d r (rind % 8) val

end Sys2Proof.Machine
end

