-- ==== Sys2Proof/Machine/Pip.lean ====
section
/-! DEFINITION. Pip-aligned regions (R328 to R330), refresh (R331, R332), pip instructions (R333 to R339) and pip
sessions (R340 to R352). -/
namespace Sys2Proof.Machine
open Sys2Proof

/-! ### Regions (R329, R330) -/

/-- The fields of an entry are in range; only with VALID 0 may BANDS be 0, its reset value.
DESIGN CHOICE, unsafe (log 54). -/
def piprOk (v : Nat) : Bool :=
  let bands := bits v 47 32
  let first := bits v 15 0
  decide (bits v 55 52 ≤ 10 ∧ bands ≤ 43690 ∧ first ≤ 43689 ∧ first + bands ≤ 43690) &&
    bands % 2 ^ bits v 55 52 == 0 && (decide (1 ≤ bands) || !bitAt v 63)

/-- The range overlaps another region that is valid or, by an accepted write, becomes valid.
DESIGN CHOICE, unsafe (log 54). -/
def meetsPipr (d : Dev) (a n skip : Nat) : Bool :=
  (List.range 16).any fun k => k != skip && (bitAt (regGet d .hbmPipr [k]) 63 || bitAt (regGet d .hbmPipr [k]) 62) &&
    (let (b, s) := piprSpan d k; overlaps a n b s)

/-- A queued or open session names region `n`. -/
def regionInUse (d : Dev) (n : Nat) : Bool := d.sessions.any fun e => e.2.desc.region == n

/-- The rule of HBM_PIPRn. The fields of a write that clears VALID take effect with the new mapping.
DESIGN CHOICE, safe (log 54). -/
def writePipr (d : Dev) (r : Req) (off bytes : Nat) (v : DWord) : Dev :=
  withWrite d r off bytes v fun d t ix mask val =>
    let n := ix.headD 0
    let old := regGet d .hbmPipr ix
    let new := newValue d t ix mask val
    let b := bits new 15 0 * bandBytes d
    let s := bits new 47 32 * bandBytes d
    let held (b s : Nat) : Bool := hostHolds d fun i => inSpan (1024 * i) b s
    if bitAt old 62 || !piprOk new then discard d r stPipRegion t ix mask
    else if bitAt new 63 then
      if bitAt old 63 || meetsPipr d b s n || hitsTlr d b s || hitsSpill d b s ||
          hitsPreserve d b s || hitsFixed d b s then discard d r stPipRegion t ix mask
      else if held b s then discard d r stPipNotFlushed t ix mask
      else regPut d .hbmPipr ix (putBit (putBit new 63 false) 62 true)
    else if bitAt old 63 then
      if regionInUse d n then discard d r stPipRegion t ix mask
      else if held (piprSpan d n).1 (piprSpan d n).2 then discard d r stPipNotFlushed t ix mask
      else regPut { d with piprNext := tput d.piprNext n new } .hbmPipr ix (putBit old 62 true)
    else regPut d .hbmPipr ix new

/-- PIP_REGION_SET. -/
def execPipRegionSet (r : Req) (n bytes : Nat) (v : DWord) (s : State) : Result :=
  act s fun d => if n < 16 && bitAt v.toNat 63 then writePipr d r (regOff .hbmPipr [n]) bytes v else d

/-- PIP_REGION_CLEAR. -/
def execPipRegionClear (r : Req) (n bytes : Nat) (v : DWord) (s : State) : Result :=
  act s fun d => if n < 16 && !bitAt v.toNat 63 then writePipr d r (regOff .hbmPipr [n]) bytes v else d

/-- The R313 actions on lines: dirty ones are written back, all go, stones become poisoned words. -/
def quitLines (d : Dev) (p : Nat → Bool) : Dev :=
  let h := d.hue
  withHue (flushStones (flushAll (withHue d (pipHue d)) (fun i k => !isTl k && p i) (some (pipHue d))) p) h

/-- Undefined contents of a range are undefined wherever the new mapping puts them.
DESIGN CHOICE, safe (log 54). -/
def spreadUndef (d : Dev) (lo n : Nat) : Dev :=
  if d.undef.any fun u => overlaps u.1 (u.2.1 - u.1) lo n then makeUndef d lo n else d

/-- PIP_REGION_DRAINED: the new mapping takes effect; HBM keeps its contents, row by row.
DESIGN CHOICE, safe (log 54). -/
def execPipRegionDrained (n : Nat) (s : State) : Result :=
  act s fun d =>
    let v := regGet d .hbmPipr [n]
    if !(decide (n < 16) && bitAt v 62) then d
    else
      let (b, sz) := piprSpan d n
      let d := spreadUndef (quitLines d fun i => inSpan (1024 * i) b sz) b sz
      let new := if bitAt v 63 then tget 0 d.piprNext n else v
      regPut { d with piprNext := tdel d.piprNext n } .hbmPipr [n] (putBit (putBit new 62 false) 63 (!bitAt v 63))

/-! ### Instructions (R334, R335) -/

def decodePip (w : Nat) : PipInstr :=
  { op := bits w 63 56, vd := bits w 55 52, va := bits w 51 48, vb := bits w 47 44, vc := bits w 43 40, sc := bits w 39 36,
    fmt := bits w 35 32, row := bits w 31 0 }

abbrev pLd : Nat := 0x01
abbrev pSt : Nat := 0x02
abbrev pLdx : Nat := 0x03
abbrev pAdd : Nat := 0x10
abbrev pMul : Nat := 0x11
abbrev pFma : Nat := 0x12
abbrev pAdds : Nat := 0x13
abbrev pMuls : Nat := 0x14
abbrev pFmas : Nat := 0x15
abbrev pMax : Nat := 0x16
abbrev pMin : Nat := 0x17
abbrev pSqrt : Nat := 0x18
abbrev pRcp : Nat := 0x19
abbrev pMov : Nat := 0x20
abbrev pZero : Nat := 0x21

/-- Fields that an opcode uses, as (VD, VA, VB, VC, SC, bits of ROW); `none` for an invalid opcode. -/
def pipUses (op : Nat) : Option (Bool × Bool × Bool × Bool × Bool × Nat) :=
  if op = pLd then some (true, false, false, false, false, 32)
  else if op = pSt then some (false, true, false, false, false, 32)
  else if op = pLdx then some (true, true, false, false, false, 8)
  else if nmem op [pAdd, pMul, pMax, pMin] then some (true, true, true, false, false, 0)
  else if op = pFma then some (true, true, true, true, false, 0)
  else if nmem op [pAdds, pMuls] then some (true, true, false, false, true, 0)
  else if op = pFmas then some (true, true, false, true, true, 0)
  else if nmem op [pSqrt, pRcp, pMov] then some (true, true, false, false, false, 0)
  else if op = pZero then some (true, false, false, false, false, 0)
  else none

/-- A field that the opcode does not use is not zero (R20, R334). -/
def pipReserved (i : PipInstr) : Bool := match pipUses i.op with
  | none => false
  | some (vd, va, vb, vc, sc, row) =>
    (!vd && i.vd != 0) || (!va && i.va != 0) || (!vb && i.vb != 0) || (!vc && i.vc != 0) || (!sc && i.sc != 0) ||
      decide (i.row ≥ 2 ^ row)

/-- Formats that an opcode permits.
DEDUCED, unsafe (log 53). -/
def pipFormats (op : Nat) : List Nat :=
  if nmem op [pLd, pSt, pLdx, pMov, pZero] then [1, 2, 3, 9] else if nmem op [pSqrt, pRcp] then [1] else [1, 9]

/-- Opcode, registers, scalar and format are in range. -/
def pipInstrOk (i : PipInstr) : Bool :=
  (pipUses i.op).isSome && decide (i.vd ≤ 3 ∧ i.va ≤ 3 ∧ i.vb ≤ 3 ∧ i.vc ≤ 3 ∧ i.sc ≤ 7) && nmem i.fmt (pipFormats i.op)

/-- Bytes of an element. -/
def pipWidth (fmt : Nat) : Nat := if fmt = 2 || fmt = 3 then 2 else 4

/-! ### Registers and banks (R333, R336) -/

def bankUnit (stack pc bank : Nat) : Nat := (stack * 32 + pc) * 48 + bank

/-- A lane of a pip register: its value and poison bit. -/
def pipReg (x : Session) (u v l : Nat) : Word × Bool := tget (0, false) x.regs ((u * 4 + v) * 256 + l)

/-- Write the 256 lanes of a register. -/
def setPipReg (x : Session) (u v : Nat) (ls : List (Word × Bool)) : Session :=
  { x with regs := (ls.mapIdx fun l e => (l, e)).foldl (fun t e => tput t ((u * 4 + v) * 256 + e.1) e.2) x.regs }

/-- The device-local address of a bank-local byte of a region: the inverse of R328. -/
def pipAddr (d : Dev) (r : PipRegion) (stack pc bank b : Nat) : Nat :=
  let n := nStacks d
  let span := 2 ^ r.spanLog * 1024
  let k := stack + n * (pc + 32 * bank)
  let t := b / span * (1536 * n) + k
  (pipRange d r).1 + t * span + b % span

/-- Banks of a pseudo-channel that a session selects, ascending. -/
def selBanks (x : Session) : List Nat := bitList 48 x.desc.banks

/-- The banks of a pseudo-channel by wave: groups of eight, then each mapped-out bank in a proxy wave (R338).
DESIGN CHOICE, unsafe (log 52). -/
def wavesOf (d : Dev) (x : Session) (stack pc : Nat) : List (List Nat) :=
  let bad := (stackOf d stack).mappedOut
  let isOut (b : Nat) : Bool := nmem (pc * 48 + b) bad
  pieces 8 ((selBanks x).filter fun b => !isOut b) ++ ((selBanks x).filter isOut).map fun b => [b]

/-- The pseudo-channels that a session selects, as (stack, pseudo-channel). -/
def selPcs (x : Session) : List (Nat × Nat) :=
  (bitList 16 x.desc.stackMask).flatMap fun s => (bitList 32 x.desc.pcs).map fun p => (s, p)

def pcRun (x : Session) (stack pc : Nat) : PcRun := tget {} x.pcs (stack * 32 + pc)
def setPcRun (x : Session) (stack pc : Nat) (r : PcRun) : Session := { x with pcs := tput x.pcs (stack * 32 + pc) r }

/-- The pseudo-channel has a wave in progress. -/
def inWave (d : Dev) (x : Session) (stack pc : Nat) : Bool :=
  x.st == .running && !x.aborted && bitAt x.desc.stackMask stack && bitAt x.desc.pcs pc && !(pcRun x stack pc).done &&
    decide (x.wave < (wavesOf d x stack pc).length)

/-! ### Chunks at the bank (R339) -/

/-- Read `n` bytes of bank-local storage as words with poison. The pip unit corrects what it takes; it is no storage unit,
so it neither counts nor writes back (R339, R356).
DEDUCED, unsafe (log 56). -/
def bankRead (d : Dev) (r : PipRegion) (stack pc bank b n : Nat) : List (DWord × Bool) :=
  (List.range (n / 8)).map fun i => hbmPeek d (pipAddr d r stack pc bank (b + 8 * i))

/-- The 256 lanes that words load, widened. -/
def lanesOfWords (fmt : Nat) (ws : List (DWord × Bool)) : List (Word × Bool) :=
  let per := 8 / pipWidth fmt
  (List.range 256).map fun l =>
    let (v, p) := ws.getD (l / per) (0, false)
    let x := bits v.toNat (8 * pipWidth fmt * (l % per) + 8 * pipWidth fmt - 1) (8 * pipWidth fmt * (l % per))
    (if pipWidth fmt = 2 then fp32Round (elemVal fmt x) else BitVec.ofNat 32 x, p)

/-- The words that 256 lanes store, narrowed. -/
def wordsOfLanes (fmt : Nat) (ls : List (Word × Bool)) : List (DWord × Bool) :=
  let w := pipWidth fmt
  let per := 8 / w
  (pieces per ls).map fun g =>
    (BitVec.ofNat 64 ((g.mapIdx fun i e =>
      (if w = 2 then (toElem fmt .rne false (fp32Val e.1)).x else e.1.toNat) <<< (8 * w * i)).foldl (· + ·) 0),
     g.any (·.2))

/-- Bank-local byte of chunk `j` of the operand at `row`. -/
def chunkByte (x : Session) (row w j : Nat) : Nat := (x.desc.firstRow + row) * 1024 + 256 * w * j

def regionOf (d : Dev) (x : Session) : PipRegion := (pipRegion d x.desc.region).getD { first := 0, bands := 0, spanLog := 0 }

/-- What an instruction sees: session, region, place, chunk. -/
structure PipAt where
  x     : Session
  r     : PipRegion
  stack : Nat
  pc    : Nat
  bank  : Nat
  j     : Nat

def PipAt.u (p : PipAt) : Nat := bankUnit p.stack p.pc p.bank

/-- What an instruction does in one bank. -/
abbrev PipMeaning := Dev → PipAt → PipInstr → Dev × Session

/-- Run one instruction in every bank of the current wave of a pseudo-channel, when the next one is of opcode `op`. -/
def pipIssue (d : Dev) (s stack pc op : Nat) (f : PipMeaning) : Dev :=
  match tfind d.sessions s with
  | none => d
  | some x =>
    let run := pcRun x stack pc
    match x.desc.prog[run.ip]? with
    | none => d
    | some i =>
      if inWave d x stack pc && !run.paused && i.op == op then
        let banks := (wavesOf d x stack pc).getD x.wave []
        let (d, x) := banks.foldl (fun (acc : Dev × Session) b =>
          f acc.1 { x := acc.2, r := regionOf d acc.2, stack := stack, pc := pc, bank := b, j := run.chunk } i) (d, x)
        let last := run.ip + 1 == x.desc.prog.length
        let run' : PcRun :=
          if !last then { run with ip := run.ip + 1 }
          else if run.chunk + 1 = x.desc.chunks then { run with ip := 0, done := true }
          else { run with ip := 0, chunk := run.chunk + 1 }
        { d with sessions := tput d.sessions s (setPcRun x stack pc run') }
      else d

/-- LD: chunk j, widened (R335). -/
def doLd (d : Dev) (p : PipAt) (i : PipInstr) : Dev × Session :=
  let w := pipWidth i.fmt
  let ws := bankRead d p.r p.stack p.pc p.bank (chunkByte p.x i.row w p.j) (256 * w)
  (d, setPipReg p.x p.u i.vd (lanesOfWords i.fmt ws))

/-- ST: chunk j, narrowed; poisoned words are counted (R339, R346). -/
def doSt (d : Dev) (p : PipAt) (i : PipInstr) : Dev × Session :=
  let w := pipWidth i.fmt
  let b := chunkByte p.x i.row w p.j
  let ws := wordsOfLanes i.fmt ((List.range 256).map (pipReg p.x p.u i.va))
  let d := (ws.mapIdx fun k e => (k, e)).foldl (fun d e =>
    let a := pipAddr d p.r p.stack p.pc p.bank (b + 8 * e.1)
    breakResv (hbmPut d a e.2.1 e.2.2) a 8) d
  (d, { p.x with poisoned := min 0xFFFF (p.x.poisoned + (ws.filter (·.2)).length) })

/-- LDX: the chunk at the row offset in a lane of VA. -/
def doLdx (d : Dev) (p : PipAt) (i : PipInstr) : Dev × Session :=
  let w := pipWidth i.fmt
  let (v, q) := pipReg p.x p.u i.va (i.row % 256)
  if v.toNat * 1024 + 256 * w > p.x.desc.rows * 1024 then
    (regBump d .pipStatus [] 63 48 1, setPipReg p.x p.u i.vd (List.replicate 256 (0, q)))
  else
    let ws := bankRead d p.r p.stack p.pc p.bank (chunkByte p.x v.toNat w 0) (256 * w)
    (d, setPipReg p.x p.u i.vd ((lanesOfWords i.fmt ws).map fun e => (e.1, e.2 || q)))

/-- A lane-wise operation: `f` for FP32, `g` for INT32, on the operands that it names. -/
def lanewise (ops : Session → PipInstr → Nat → Nat → List (Word × Bool)) (f g : List Word → Word) : PipMeaning :=
  fun d p i =>
    (d, setPipReg p.x p.u i.vd ((List.range 256).map fun l =>
      let xs := ops p.x i p.u l
      ((if i.fmt = 9 then g else f) (xs.map (·.1)), xs.any (·.2))))

def scalarOf (x : Session) (n : Nat) : Word × Bool := (x.desc.scalars.getD n 0, false)
def opsAb (x : Session) (i : PipInstr) (u l : Nat) : List (Word × Bool) := [pipReg x u i.va l, pipReg x u i.vb l]
def opsAbc (x : Session) (i : PipInstr) (u l : Nat) : List (Word × Bool) :=
  [pipReg x u i.va l, pipReg x u i.vb l, pipReg x u i.vc l]
def opsAs (x : Session) (i : PipInstr) (u l : Nat) : List (Word × Bool) := [pipReg x u i.va l, scalarOf x i.sc]
def opsAsc (x : Session) (i : PipInstr) (u l : Nat) : List (Word × Bool) :=
  [pipReg x u i.va l, scalarOf x i.sc, pipReg x u i.vc l]
def opsA (x : Session) (i : PipInstr) (u l : Nat) : List (Word × Bool) := [pipReg x u i.va l]
def opsNone (_ : Session) (_ : PipInstr) (_ _ : Nat) : List (Word × Bool) := []

def arg (xs : List Word) (n : Nat) : Word := xs.getD n 0
def imax (a b : Word) : Word := if b.slt a then a else b
def imin (a b : Word) : Word := if a.slt b then a else b

/-- LD. -/
def execLd (s stack pc : Nat) (st : State) : Result := act st fun d => pipIssue d s stack pc pLd doLd
/-- ST. -/
def execSt (s stack pc : Nat) (st : State) : Result := act st fun d => pipIssue d s stack pc pSt doSt
/-- LDX. -/
def execLdx (s stack pc : Nat) (st : State) : Result := act st fun d => pipIssue d s stack pc pLdx doLdx
/-- ADD: VD ← VA + VB. -/
def execAdd (s stack pc : Nat) (st : State) : Result :=
  act st fun d => pipIssue d s stack pc pAdd
    (lanewise opsAb (fun x => fadd (arg x 0) (arg x 1)) fun x => arg x 0 + arg x 1)
/-- MUL: VD ← VA × VB. -/
def execMul (s stack pc : Nat) (st : State) : Result :=
  act st fun d => pipIssue d s stack pc pMul
    (lanewise opsAb (fun x => fmul (arg x 0) (arg x 1)) fun x => arg x 0 * arg x 1)
/-- FMA: VD ← VA × VB + VC. -/
def execFma (s stack pc : Nat) (st : State) : Result :=
  act st fun d => pipIssue d s stack pc pFma
    (lanewise opsAbc (fun x => ffma (arg x 0) (arg x 1) (arg x 2)) fun x => arg x 0 * arg x 1 + arg x 2)
/-- ADDS: VD ← VA + S[SC]. -/
def execAdds (s stack pc : Nat) (st : State) : Result :=
  act st fun d => pipIssue d s stack pc pAdds
    (lanewise opsAs (fun x => fadd (arg x 0) (arg x 1)) fun x => arg x 0 + arg x 1)
/-- MULS: VD ← VA × S[SC]. -/
def execMuls (s stack pc : Nat) (st : State) : Result :=
  act st fun d => pipIssue d s stack pc pMuls
    (lanewise opsAs (fun x => fmul (arg x 0) (arg x 1)) fun x => arg x 0 * arg x 1)
/-- FMAS: VD ← VA × S[SC] + VC. -/
def execFmas (s stack pc : Nat) (st : State) : Result :=
  act st fun d => pipIssue d s stack pc pFmas
    (lanewise opsAsc (fun x => ffma (arg x 0) (arg x 1) (arg x 2)) fun x => arg x 0 * arg x 1 + arg x 2)
/-- MAX. -/
def execMax (s stack pc : Nat) (st : State) : Result :=
  act st fun d => pipIssue d s stack pc pMax
    (lanewise opsAb (fun x => fmax32 (arg x 0) (arg x 1)) fun x => imax (arg x 0) (arg x 1))
/-- MIN. -/
def execMin (s stack pc : Nat) (st : State) : Result :=
  act st fun d => pipIssue d s stack pc pMin
    (lanewise opsAb (fun x => fmin32 (arg x 0) (arg x 1)) fun x => imin (arg x 0) (arg x 1))
/-- SQRT. -/
def execSqrt (s stack pc : Nat) (st : State) : Result :=
  act st fun d => pipIssue d s stack pc pSqrt (lanewise opsA (fun x => fsqrt32 (arg x 0)) fun x => arg x 0)
/-- RCP. -/
def execRcp (s stack pc : Nat) (st : State) : Result :=
  act st fun d => pipIssue d s stack pc pRcp (lanewise opsA (fun x => frcp32 (arg x 0)) fun x => arg x 0)
/-- MOV: bits copied. -/
def execMov (s stack pc : Nat) (st : State) : Result :=
  act st fun d => pipIssue d s stack pc pMov (lanewise opsA (fun x => arg x 0) fun x => arg x 0)
/-- ZERO. -/
def execZero (s stack pc : Nat) (st : State) : Result :=
  act st fun d => pipIssue d s stack pc pZero (lanewise opsNone (fun _ => 0) fun _ => 0)

/-! ### Submission (R340, R341, R349, R350) -/

def parsePip (l : List Byte) : PipDesc × List PipInstr :=
  let all := (List.range 32).map fun i => decodePip (leAt l (0x80 + 8 * i) 8)
  ({ region := leAt l 4 1, stackMask := leAt l 6 2, pcs := leAt l 8 4, banks := fieldAt l 0x10 47 0,
     firstRow := leAt l 0x18 4, rows := leAt l 0x1C 4, chunks := leAt l 0x20 4, tag := leAt l 0x24 4,
     complAddr := leAt l 0x28 8, scalars := (List.range 8).map fun i => BitVec.ofNat 32 (leAt l (0x40 + 4 * i) 4),
     prog := all.take (leAt l 5 1) }, all)

def pipDescReserved (l : List Byte) : Bool :=
  let p := parsePip l
  bits (leAt l 0 4) 31 24 != 0 || leAt l 0x0C 4 != 0 || fieldAt l 0x10 63 48 != 0 ||
  ((l.drop 0x30).take 16).any (· != 0) || ((l.drop 0x60).take 32).any (· != 0) ||
  p.1.prog.any pipReserved || ((l.drop (0x80 + 8 * leAt l 5 1)).take (256 - 8 * leAt l 5 1)).any (· != 0)

/-- Step 2 of R341. -/
def pipDescOk (d : Dev) (l : List Byte) : Bool :=
  let x := (parsePip l).1
  let n := leAt l 5 1
  decide (x.region ≤ 15 ∧ 1 ≤ n ∧ n ≤ 32 ∧ 1 ≤ x.chunks) && x.prog.all pipInstrOk &&
  x.stackMask != 0 && x.pcs != 0 && x.banks != 0 && (bitList 16 x.stackMask).all (fun s => (stackOf d s).populated) &&
  (match pipRegion d x.region with
    | none => false
    | some r =>
      let (b, s) := pipRange d r
      decide (x.firstRow < r.bands ∧ x.firstRow + x.rows ≤ r.bands) &&
      decide (x.complAddr < 2 ^ 48) && x.complAddr % 8 == 0 && !(x.complAddr != 0 && inSpan x.complAddr b s)) &&
  x.prog.all fun i => !(i.op == pLd || i.op == pSt) ||
    decide (i.row * 1024 + 256 * pipWidth i.fmt * x.chunks ≤ x.rows * 1024)

/-- R341 on the 384 bytes of a descriptor.
DESIGN CHOICE, unsafe (log 52). -/
def pipCheck (d : Dev) (l : List Byte) : Option Half :=
  match checkPrefix 0x0401 (leAt l 0 4) with
  | some st => some st
  | none =>
    let x := (parsePip l).1
    if pipDescReserved l then some stReserved
    else if !pipDescOk d l then some stPipField
    else if (bitList 16 x.stackMask).any fun s => (stackOf d s).band == 3 then some stPipThermal
    else if d.sessions.length ≥ 16 then some stPipFull
    else if (bitList 16 x.stackMask).any fun s => !blkAccepts d (blkPip (rindOfStack s)) then some stBlockGated
    else none

/-- A pip sequencer of the session's stacks is ON_PENDING (R508). -/
def sessPending (d : Dev) (x : PipDesc) : Bool :=
  (bitList 16 x.stackMask).any fun s => blkState d (blkPip (rindOfStack s)) == .onPending

/-- Submit the descriptor at an address: status and queue entry; `none` while its read waits.
DESIGN CHOICE, unsafe (log 52). -/
def submitPip (d : Dev) (a : Nat) (op : Option Nat) : Dev × Option (Half × Nat) :=
  if a % 64 ≠ 0 then (d, some (stPipField, 0xFF))
  else if !backed d a 384 then (d, some (stUnbacked, 0xFF))
  else match readWhole (withHue d (pipHue d)) .pip a 384 with
  | (d, none) => (d, none)
  | (d, some (l, p)) => match poisonVerdict d p with
    | (some st, d) => (d, some (st, 0xFF))
    | (none, d) => match pipCheck d l with
      | some st => (d, some (st, 0xFF))
      | none =>
        let n := ((List.range 16).find? fun k => (tfind d.sessions k).isNone).getD 0
        let x : Session := { st := .queued, desc := (parsePip l).1, seq := d.sessSeq, op := op,
                             held := sessPending d (parsePip l).1 }
        (setOpHue { d with sessions := tput d.sessions n x, sessSeq := d.sessSeq + 1 } op (pipHue d), some (stOk, n))

/-- PIP_SESSION. -/
def handlePipSession : Handler := fun d c op =>
  match submitPip d (c.args.getD 0 0) op with
  | (d, none) => (none, d)
  | (d, some (st, _)) => (some st, d)

/-- PIP_SESSION: the receipt read of a record with its opcode (R447). -/
def execPipSession (w : Win) (s : State) : Result :=
  act s fun d => submitAs d w 0x11 handlePipSession

/-- The rule of PIP_SUBMIT: a write whose descriptor read must wait is taken up again. -/
def pipSubmitRule (d : Dev) (r : Req) (val : Nat) : Dev :=
  match submitPip d (bits val 47 0) none with
  | (d, none) => waitFor d (.pipSubmit r 8 (BitVec.ofNat 64 val))
  | (d, some (st, n)) =>
    regSetField (regSetField (regBump d .pipReceipt [] 31 16 1) .pipReceipt [] 39 32 n) .pipReceipt [] 15 0 st.toNat

/-- PIP_SUBMIT. -/
def execPipSubmit (r : Req) (bytes : Nat) (v : DWord) (s : State) : Result :=
  act s fun d => withWrite d r (regOff .pipSubmit []) bytes v fun d _ _ _ val => pipSubmitRule d r val

/-! ### Opening (R342, R343) -/

def sharesStack (x y : Session) : Bool := Nat.land x.desc.stackMask y.desc.stackMask != 0

/-- The conditions of R342.
DESIGN CHOICE, unsafe (log 52). -/
def mayOpen (d : Dev) (s : Nat) (x : Session) : Bool :=
  !x.held &&
  !(d.sessions.any fun e => e.1 != s && sharesStack x e.2 && (e.2.st != .queued || decide (e.2.seq < x.seq))) &&
  (bitList 16 x.desc.stackMask).all fun k => (stackOf d k).band != 3 && !(stackOf d k).resting

/-- The completion word (R346). -/
def pipWord (x : Session) (st : Half) : Nat := (st.toNat <<< 48) + (min 0xFFFF x.poisoned <<< 32) + x.desc.tag % 2 ^ 32

/-- Complete a session: its word, its handle, its entry; while the word's write waits it stays in CLOSING.
DESIGN CHOICE, unsafe (log 52). -/
def finishSession (d : Dev) (s : Nat) (x : Session) : Dev :=
  let d := withHue d (pipHue d)
  let fin (d : Dev) (st : Half) : Dev :=
    completeOpt { d with sessions := tdel d.sessions s } x.op st (pipWord x st) 0 (decide (x.poisoned > 0))
  if x.desc.complAddr = 0 then fin d x.status
  else if !backed d x.desc.complAddr 8 then fin d (if x.status = stOk then stUnbacked else x.status)
  else match devWrite d .pip x.desc.complAddr (leBytes 8 (pipWord x x.status)) with
    | (d, true) => fin d x.status
    | (d, false) => { d with sessions := tput d.sessions s { x with st := .closing } }

/-- SESSION_OPEN: the directories are checked, and the R313 actions taken, in one instant. -/
def execSessionOpen (s : Nat) (st : State) : Result :=
  act st fun d => match tfind d.sessions s with
    | none => d
    | some x =>
      if x.st == .queued && mayOpen d s x then
        if hostHolds d fun i => sessHas d x (1024 * i) then finishSession d s { x with status := stPipNotFlushed }
        else
          let d := quitLines d fun i => sessHas d x (1024 * i)
          { d with sessions := tput d.sessions s { x with st := .opening, flushed := true } }
      else d

/-! ### Running and closing (R332, R344 to R346) -/

/-- The directory entries of a session's range, as (slice, line index). -/
def hostCopies (d : Dev) (x : Session) : List (Nat × Nat) :=
  d.slices.flatMap fun e => (e.2.dir.filter fun y => sessHas d x (1024 * y.idx)).map fun y => (e.1, y.idx)

/-- The session enters CLOSING: owed refreshes are issued and the host's copies called back. -/
def beginClosing (d : Dev) (s : Nat) (x : Session) : Dev :=
  let d := (hostCopies d x).foldl (fun d e => startSnoop d e.1 e.2 true) d
  let mine (k : Nat) : Bool := bitAt x.desc.stackMask (k / 32) && bitAt x.desc.pcs (k % 32)
  { d with refresh := d.refresh.filter (fun e => !mine e.1), sessions := tput d.sessions s { x with st := .closing } }

/-- A fresh wave: registers zero, every pseudo-channel at its start. -/
def freshWave (x : Session) (w : Nat) : Session := { x with wave := w, pcs := [], regs := [] }

def anyWave (d : Dev) (x : Session) : Bool := (selPcs x).any fun p => decide (x.wave < (wavesOf d x p.1 p.2).length)

/-- SESSION_RUN: opening is done; an abort meanwhile closes. -/
def execSessionRun (s : Nat) (st : State) : Result :=
  act st fun d => match tfind d.sessions s with
    | none => d
    | some x =>
      if x.st == .opening then
        if x.aborted then beginClosing d s { x with status := stPipAborted }
        else { d with sessions := tput d.sessions s { freshWave x 0 with st := .running } }
      else d

/-- WAVE_END: every pseudo-channel has done its banks; the next wave starts, or the session closes. -/
def execWaveEnd (s : Nat) (st : State) : Result :=
  act st fun d => match tfind d.sessions s with
    | none => d
    | some x =>
      if x.st == .running && !x.aborted && (selPcs x).all fun p => !inWave d x p.1 p.2 && !(pcRun x p.1 p.2).paused then
        let y := freshWave x (x.wave + 1)
        if anyWave d y then { d with sessions := tput d.sessions s y } else beginClosing d s x
      else d

/-- SESSION_CLOSE_DONE: no host copy is left; the completion is written and the stacks are free. -/
def execSessionCloseDone (s : Nat) (st : State) : Result :=
  act st fun d => match tfind d.sessions s with
    | none => d
    | some x => if x.st == .closing && (!x.flushed || (hostCopies d x).isEmpty) then finishSession d s x else d

/-! ### Aborts (R348, R351) -/

/-- Abort an entry that is not FREE (R344). -/
def abortSession (d : Dev) (s : Nat) (x : Session) : Dev :=
  let y := { x with aborted := true }
  match x.st with
  | .queued => finishSession d s { y with status := stPipAborted }
  | .opening => { d with sessions := tput d.sessions s y }
  | .running =>
    let y := { y with status := stPipAborted }
    if x.pcs.any fun e => e.2.paused then { d with sessions := tput d.sessions s y } else beginClosing d s y
  | .closing => d

/-- PIP_ABORT: the session that a handle names.
DESIGN CHOICE, unsafe (log 52). -/
def handlePipAbort : Handler := fun d c _ =>
  let h := c.args.getD 0 0
  match d.sessions.find? fun e => d.ops.any fun o => some o.id == e.2.op && o.handle.toNat == h && h != 0 with
  | some (n, x) => (some stOk, abortSession d n x)
  | none => (some stPipId, d)

/-- PIP_ABORT: the receipt read of a record with its opcode (R447). -/
def execPipAbort (w : Win) (s : State) : Result :=
  act s fun d => submitAs d w 0x12 handlePipAbort

/-- The rule of PIP_ABORT. -/
def pipAbortRule (d : Dev) (r : Req) (t : RegDef) (ix : List Nat) (mask val : Nat) : Dev :=
  match tfind d.sessions (bits val 7 0) with
  | some x => abortSession d (bits val 7 0) x
  | none => discard d r stPipId t ix mask

/-- PIP_ABORT_WRITE: the session of a queue entry. -/
def execPipAbortWrite (r : Req) (bytes : Nat) (v : DWord) (s : State) : Result :=
  act s fun d => withWrite d r (regOff .pipAbort []) bytes v fun d t ix mask val => pipAbortRule d r t ix mask val

/-! ### Refresh (R331, R332) -/

/-- Postponement limit of a band. -/
def bandLimit (band : Nat) : Nat := if band = 0 then 8 else if band = 1 then 4 else if band = 2 then 2 else 1

/-- REFRESH_DUE: outside a wave the refresh is issued; within one it is owed, and the limit pauses the session there. -/
def execRefreshDue (stack pc : Nat) (s : State) : Result :=
  act s fun d =>
    match d.sessions.find? fun e => inWave d e.2 stack pc with
    | none => d
    | some (n, x) =>
      let k := stack * 32 + pc
      let owed := (tget {} d.refresh k).owed + 1
      let d := { d with refresh := tput d.refresh k { owed := owed } }
      let run := pcRun x stack pc
      if owed ≥ bandLimit (stackOf d stack).band && !run.paused then
        regBump { d with sessions := tput d.sessions n (setPcRun x stack pc { run with paused := true, since := d.tb.now }) }
          .pipStatus [] 31 16 1
      else d

/-- PIP_PAUSE_END: the owed refreshes are done; the longest pause is kept in ns. An aborted session closes when its last
pause ends.
DESIGN CHOICE, unsafe (log 55). -/
def execPipPauseEnd (stack pc : Nat) (s : State) : Result :=
  act s fun d =>
    match d.sessions.find? fun e => (pcRun e.2 stack pc).paused with
    | none => d
    | some (n, x) =>
      let run := pcRun x stack pc
      let ns := min 0xFFFF ((d.tb.now - run.since) / 2)
      let d := { d with refresh := tdel d.refresh (stack * 32 + pc) }
      let d := if ns > regField d .pipStatus [] 47 32 then regSetField d .pipStatus [] 47 32 ns else d
      let y := setPcRun x stack pc { run with paused := false }
      if y.aborted && !(y.pcs.any fun e => e.2.paused) then beginClosing d n y
      else { d with sessions := tput d.sessions n y }

end Sys2Proof.Machine
end

