-- ==== Sys2Proof/Machine/Integrity.lean ====
section
/-! DEFINITION. Data integrity (R359 to R385): resends and lost sectors on internal links, the error log registers, the
gleaners, sweeps and smudge masks; and the start of a hue window (R393). -/
namespace Sys2Proof.Machine
open Sys2Proof

/-! ### Internal links (R360, R361) -/

def linkKey (l : LinkId) : Nat := 65536 * l.kind + l.no
def linkOf (d : Dev) (l : LinkId) : LinkSt := tget {} d.links (linkKey l)

/-- A sender's armed CRC smudge acts on the sector that it sends (R384): the mask in its CRC. -/
def crcSmudge (d : Dev) (u : Sender) : Dev × Word :=
  let take (r : RegId) (ix : List Nat) : Dev × Word :=
    let v := regGet d r ix
    if bitAt v 17 then (regClearBit d r ix 17, BitVec.ofNat 32 (bits v 63 32)) else (d, 0)
  match u with
  | .hbm c => if c < 16 then take .smudgeCtlHbm [c / 2, c % 2] else (d, 0)
  | .slice s => if s < 256 then take .smudgeCtlKr [s] else (d, 0)
  | .other => (d, 0)

/-- The sector string of codewords inside the package: 10 bytes a word, DATA and then META (R358). -/
def sectorString (ws : List Codeword) : List Byte := ws.flatMap fun c => leBytes 10 c.toNat

def countResends (d : Dev) (n : Nat) : Dev := regBump d .integLink [] 63 0 n

/-- Words of the oldest packet of a pair on its way arrive poisoned. -/
def poisonPacket (prod cons : Nat) (bad : Nat → Bool) : List Packet → List Packet
  | [] => []
  | p :: t => if p.prod = prod && p.cons = cons then { p with poison := p.poison.mapIdx fun i q => q || bad i } :: t
    else p :: poisonPacket prod cons bad t

/-- The words of `mask` of a sector will arrive poisoned at its reader. -/
def loseWords (d : Dev) (u : SectorUse) (mask : Nat) : Dev :=
  let put (who : LostBy) (a : Nat) : Dev := { d with lost := d.lost ++ [{ who := who, at_ := a, mask := mask }] }
  match u with
  | .readReply ag a => put (.agent ag) (a / 128 * 128)
  | .fill s a => put (.fill s) (a / 128 * 128)
  | .restore t k => put (.restore t) k
  | .sweep a => put .sweep (a / 128 * 128)
  | .packet c sn prod cons k => modStream d c sn fun r =>
      { r with packets := poisonPacket prod cons (fun i => i / 16 == k && bitAt mask (i % 16)) r.packets }
  | _ => d

/-- A lost store faults its canvas; it is not performed. The fault names the group's current path.
DESIGN CHOICE, unsafe (log 58). -/
def loseStore (d : Dev) (t g addr : Nat) : Dev :=
  match curSeat d t with
  | none => d
  | some (_, st) =>
    let gr := groupOf st.ctx g
    match pickPath gr with
    | some (pc, _) => stageFault d t g stCrcFinal (laneMask (execLanes gr pc)) pc addr
    | none => stageFault d t g stCrcFinal 0 gr.pathPc addr

/-- A lost context save faults its canvas. The fault names group 0 and no lanes.
DESIGN CHOICE, unsafe (log 58). -/
def loseSave (d : Dev) (t : Nat) : Dev := stageFault d t 0 stCrcFinal 0 0

/-- What the end of recovery does (R361): `recovered` means the end-to-end recovery brought the data.
DESIGN CHOICE, unsafe (log 58). -/
def loseSector (d : Dev) (l : LinkId) (attempts : Nat) (recovered : Bool) (u : SectorUse) : Dev :=
  match u with
  | .packet c sn prod cons _ =>
    logCrcFinal (modStream d c sn fun r => { r with packets := poisonPacket prod cons (fun _ => true) r.packets }) l 1
      attempts 0
  | _ =>
    let d := logCrcFinal d l 0 attempts 0
    if recovered then d
    else match u with
      | .readReply _ a => loseWords (logCrcFinal d l 1 4 (a / 128 * 128)) u 0xFFFF
      | .fill _ a => loseWords (logCrcFinal d l 1 4 (a / 128 * 128)) u 0xFFFF
      | .glean a => logCrcFinal d l 1 4 (a / 128 * 128)
      | .sweep a => loseWords (logCrcFinal d l 1 4 (a / 128 * 128)) u 0xFFFF
      | .restore _ _ => loseWords (logCrcFinal d l 1 4 0) u 0xFFFF
      | .save t => loseSave (logCrcFinal d l 2 4 0) t
      | .tileStore t g a => loseStore (logCrcFinal d l 2 4 a) t g a
      | .hostWrite _ => d
      | .moverWrite r p =>
        match activeAt d r p with
        | none => d
        | some x => if x.st == .active then failXfer (logCrcFinal d l 2 4 0) x.id stCrcFinal else d
      | .writeBack _ _ => logCrcFinal d l 2 4 0
      | .packet _ _ _ _ _ => d

/-- A word that passed a sector CRC and fails the word code (R359): counted as an ESCAPE, and R356 applies to it at the unit
that reports the link.
DESIGN CHOICE, unsafe (log 57). -/
def noteEscape (d : Dev) (l : LinkId) (e : Nat × Codeword) : Dev :=
  let u := linkUnit l
  let kr : Bool := u.1 == ukTile || u.1 == ukSlice
  let det := wordDetail (syndromes e.2) e.1
  match decodeWord e.2 with
  | .clean _ _ => d
  | .corrected _ _ =>
    let d := regBump d .integUe [] 15 0 1
    logCorrected (if kr then regBump d .integCe [] 31 0 1 else regBump d .integCe [] 63 32 1) u.1 u.2 0 det
  | .uncorrectable _ =>
    let d := regBump d .integUe [] 15 0 1
    logErr (if kr then regBump d .integUe [] 47 32 1 else regBump d .integUe [] 63 48 1) stUncorrectable u.1 u.2 1 0 det

/-- Words of a sector that decode UNCORRECTABLE. -/
def badMask (ws : List Codeword) : Nat := ofBitList ((List.range ws.length).filter fun i =>
  match decodeWord (ws.getD i 0) with
  | .uncorrectable _ => true
  | _ => false)

/-- SECTOR_RECEIVED: the receiver checks the CRC that the sender formed over the sector string, smudge and all (R358, R384).
A passing sector is acknowledged, and the words of it that fail the word code are dealt with; a failing one is sent again,
and the fourth failure starts the lane test (R360, R361). -/
def execSectorReceived (l : LinkId) (sender : Sender) (x : Sector) (u : SectorUse) (s : State) : Result :=
  act s fun d =>
    let st := linkOf d l
    if st.testing then d
    else
      let (d, mask) := crcSmudge d sender
      if crc32c (sectorString x.words) = x.crc ^^^ mask then
        let d := (x.words.mapIdx fun i w => (i, w)).foldl (fun d e => noteEscape d l e) { d with links := tdel d.links (linkKey l) }
        if badMask x.words = 0 then d else loseWords d u (badMask x.words)
      else
        let n := st.attempts + 1
        let d := { d with links := tput d.links (linkKey l) { attempts := n, testing := decide (n ≥ 4) } }
        if n < 4 then emit (countResends d 1) (.linkResend l) else d

/-- Attempts that the further tries after a lane test took.
DESIGN CHOICE, safe (log 57). -/
def furtherTries (d : Dev) (ok : Bool) : Nat × Dev :=
  if ok then
    let (n, d) := drawNat d
    (1 + n % 4, d)
  else (4, d)

/-- LINK_LANE_TEST_DONE: faulty bonds of a vertical port are spared at once, and four further attempts follow a fault;
otherwise, or when they fail, the sector is lost.
DESIGN CHOICE, safe (log 57). -/
def execLinkLaneTestDone (l : LinkId) (badBonds : List Nat) (retryOk recovered : Bool) (u : SectorUse) (s : State) : Result :=
  act s fun d =>
    if !(linkOf d l).testing then d
    else
      let d := { d with links := tdel d.links (linkKey l) }
      if badBonds.isEmpty then loseSector d l 4 recovered u
      else
        let d := if l.kind = 0 && l.no < 512 then swapWaiting (failBonds d (l.no / 2) (l.no % 2) badBonds) (l.no / 2) (l.no % 2)
          else d
        let (n, d) := furtherTries d retryOk
        let d := countResends d n
        if retryOk then d else loseSector d l 8 recovered u

/-- WRITEBACK_RETRY: the slice sends a buffered line again, each µs until it passes; `failed` is the link on which this
attempt failed. -/
def execWritebackRetry (slice line : Nat) (failed : Option LinkId) (s : State) : Result :=
  act s fun d => match (sliceOf d slice).wbuf.find? fun w => w.line.idx == line with
    | none => d
    | some w =>
      match failed with
      | none => finishWb d slice line (isTl w.line.kind)
      | some l => logErr (regBump d .integUe [] 31 16 1) stCrcFinal ukSlice slice 2 (1024 * line) (linkDetail l 4)

/-! ### The error log (R369 to R372) -/

/-- CORRECTED_MERGE_TIMER: 1 ms after a unit's last record, one record for what it has corrected since, if anything.
DESIGN CHOICE, unsafe (log 61). -/
def execCorrectedMergeTimer (kind unit : Nat) (s : State) : Result :=
  act s fun d =>
    let k := kind * 65536 + unit
    match tfind d.merges k with
    | none => d
    | some m =>
      if m.count = 0 then { d with merges := tdel d.merges k }
      else
        let r : ErrRec := { status := stCorrected, kind := kind, unit := unit, cls := 0, canvas := 0xFF, count := m.count,
                            time := m.time, addr := BitVec.ofNat 64 m.addr, detail := m.detail }
        { d with errq := d.errq ++ [r], merges := tput d.merges k { m with count := 0 } }

/-- A valid tile-local or pip-aligned region or a loaded canvas's spill area meets a range (R370). -/
def hitsPlaced (d : Dev) (a n : Nat) : Bool :=
  hitsPipr d a n || hitsSpill d a n ||
  (List.range 16).any fun k => tlrValid d k &&
    (let (b, s) := tlrSpan (regGet d .krTlr [k]); overlaps a n b s)

/-- The rule of ERRLOG_BASE. -/
def writeErrlogBase (d : Dev) (r : Req) (bytes : Nat) (off : Nat) (v : DWord) : Dev :=
  withWrite d r off bytes v fun d t ix mask val =>
    let new := newValue d t ix mask val
    let a := bits new 47 12 <<< 12
    let n := 4096 * 2 ^ bits new 3 0
    if a ≠ 0 && (!backed d a n || hitsPlaced d a n) then discard d r stErrlogField t ix mask
    else regPut (regPut d .errlogBase [] new) .errlogPtr [] 0

/-- ERRLOG_BASE_WRITE. -/
def execErrlogBaseWrite (r : Req) (off bytes : Nat) (v : DWord) (s : State) : Result :=
  act s fun d => if off / 8 * 8 = regOff .errlogBase [] then writeErrlogBase d r bytes off v else d

/-- The rule of ERRLOG_PTR: a write of CONS between PROD − size and PROD. -/
def writeErrlogPtr (d : Dev) (r : Req) (off bytes : Nat) (v : DWord) : Dev :=
  withWrite d r off bytes v fun d t ix mask val =>
    if bits mask 63 32 = 0 then d
    else
      let cons := bits (newValue d t ix mask val) 63 32
      if (errProd d + 2 ^ 32 - cons) % 2 ^ 32 ≤ (errRing d).2 then regSetField d .errlogPtr [] 63 32 cons
      else regSetBit d .errlogStatus [] 1

/-- ERRLOG_CONS_WRITE. -/
def execErrlogConsWrite (r : Req) (off bytes : Nat) (v : DWord) (s : State) : Result :=
  act s fun d => if off / 8 * 8 = regOff .errlogPtr [] then writeErrlogPtr d r off bytes v else d

/-! ### The gleaners (R373 to R377) -/

def gleanHue (d : Dev) : Nat := regField d .gleanCfg [] 55 48

/-- The device-local address of row `row` of a bank: the inverse of R324, or of R328 in a pip-aligned region. -/
def locAddr (d : Dev) (stack pc bank row : Nat) : Nat :=
  let n := nStacks d
  match (List.range 16).findSome? fun k => (pipRegion d k).bind fun r =>
      if r.first ≤ row ∧ row < r.first + r.bands then some r else none with
  | some r => pipAddr d r stack pc bank ((row - r.first) * 1024)
  | none =>
    let y := row * 48 + (bank + 48 - row % 48) % 48
    let x := y * 32 + (pc + 32 - fold5 y) % 32
    (x * n + (stack + 16 * n - fold4 x) % n) * 1024

/-- The place of sector `i` of a stack in the gleaner's order: pseudo-channel, bank, row, sector of the row.
DESIGN CHOICE, unsafe (log 59). -/
def gleanPlace (i : Nat) : Nat × Nat × Nat × Nat :=
  let j := i / 8
  (j % 1536 % 32, j % 1536 / 32, j / 1536, i % 8)

/-- Sectors of a stack (rows 0 to 43,690). -/
abbrev stackSectors : Nat := 43691 * 1536 * 8

/-- The sector is held CLEAN by its home slice: the slice and the line. -/
def cleanCopy (d : Dev) (a : Nat) : Option (Nat × Nat) :=
  match servingSlice d (homeSlice a) with
  | none => none
  | some s => match findLine (sliceOf d s) (a / 1024) false with
    | some (key, l) => if sectAt l ((a % 1024) / 128) == .clean then some (s, key) else none
    | none => none

/-- R356 on one word at its controller; an UNCORRECTABLE word whose sector a slice holds CLEAN takes the slice's copy. -/
def gleanWord (d : Dev) (a : Nat) : Dev :=
  let l := hbmLoc d a
  if isHole d l then d
  else
    let lostW := match undefAt d a, memDecode d.hbm (locByte l / 8) with
      | none, .uncorrectable _ => true
      | _, _ => false
    match lostW, cleanCopy d a with
    | true, some (s, key) =>
      let det := wordDetail (syndromes (memStored d.hbm (locByte l / 8))) ((a / 8) % 16)
      let d := hbmUe (logErr (regBump d .integUe [] 63 48 1) stUncorrectable ukStack l.stack 1 a det) l
      let (d, v, p) := lineRead d s key ((a % 1024) / 8)
      hbmWrite d a v 255 p
    | _, _ => (hbmRead d a).1

/-- R365: one sector, read, corrected and written back in one grant. -/
def gleanSectorAt (d : Dev) (a : Nat) : Dev :=
  (List.range 16).foldl (fun d i => gleanWord d (a + 8 * i)) (grantHbm d a 128)

/-- Bits that upset in the array before the gleaner reads. -/
def upsetHbm (d : Dev) (a : Nat) (flips : List (Nat × Codeword)) : Dev :=
  (flips.filter fun f => decide (f.1 < 16)).foldl (fun d f =>
    { d with hbm := memFlip d.hbm (locByte (hbmLoc d (a + 8 * f.1)) / 8) f.2 }) d

def popStacks (d : Dev) : List Nat := (d.stks.filter fun e => e.2.populated && e.2.inService).map (·.1)

/-- Every stack is at the end of the pass: the next pass starts. -/
def endHbmPass (d : Dev) (late : Bool) : Dev :=
  if (popStacks d).all fun s => decide ((stackOf d s).gleanAt ≥ stackSectors) then
    let d := { d with stks := tmap (fun _ x => { x with gleanAt := 0 }) d.stks }
    let d := regBump d .gleanStatus [] 47 24 1
    if late then regBump d .gleanStatus [] 63 48 1 else d
  else d

/-- GLEAN_SECTOR: the next sector of a stack; a period of 0 stops the gleaner when its pass ends.
DESIGN CHOICE, unsafe (log 59). -/
def execGleanSector (stack : Nat) (flips : List (Nat × Codeword)) (late : Bool) (s : State) : Result :=
  act s fun d =>
    let st := stackOf d stack
    let fresh := (popStacks d).all fun k => (stackOf d k).gleanAt == 0
    if !(nmem stack (popStacks d)) || st.gleanAt ≥ stackSectors || (fresh && regField d .gleanCfg [] 47 32 = 0)
        || st.resting then d
    else
      let (pc, bank, row, k) := gleanPlace st.gleanAt
      let a := locAddr d stack pc bank row + 128 * k
      let d := { d with stks := tput d.stks stack { st with gleanAt := st.gleanAt + 1 } }
      let d := if backed d a 128 then gleanSectorAt (withHue (upsetHbm d a flips) (gleanHue d)) a else d
      endHbmPass d late

/-! The Kreten gleaner's order in a slice: the sectors of its lines by way, the sectors of the seat area of its tile, the
sectors of its write-back buffer. -/

abbrev seatSectorsAt : Nat := 640 * 16 * 8
abbrev bufferSectorsAt : Nat := seatSectorsAt + 12 * 640 * 8
abbrev sliceSectors : Nat := bufferSectorsAt + 16 * 8

/-- Sectors in use of the seat area of a tile. -/
def seatSectors (d : Dev) (t : Nat) : Nat := match (tileOf d t).canvas.bind (canvasOf d) with
  | none => 0
  | some c => ceilDiv ((seatPlaces c t).foldl (fun acc x => max acc (x.2.1 + x.2.2)) (ceilDiv (programBytes c t) 8)) 16

/-- What word `n` of a tile's seat area encodes. -/
def seatValue (d : Dev) (t n : Nat) : DWord × Bool := match (tileOf d t).canvas.bind (canvasOf d) with
  | none => (0, false)
  | some c =>
    if n < ceilDiv (programBytes c t) 8 then (BitVec.ofNat 64 (leAt (programArea c t) (8 * n) 8), false)
    else match (seatPlaces c t).find? fun x => decide (x.2.1 ≤ n ∧ n < x.2.1 + x.2.2) with
      | none => (0, false)
      | some x => match tfind (tileOf d t).seats x.1 with
        | some st => (ctxImage c st t).getD (n - x.2.1) (0, false)
        | none => (0, false)

/-- The next sector of a slice that the gleaner reads, from place `at_` on. -/
def nextHeld (d : Dev) (s at_ : Nat) : Option Nat :=
  let sl := sliceOf d s
  match (sl.lines.flatMap fun e => (List.range 8).filterMap fun k =>
      if sectAt e.2 k == .absent || decide (8 * e.1 + k < at_) then none else some (8 * e.1 + k)).head? with
  | some i => some i
  | none =>
    let j := at_ - seatSectorsAt
    if at_ < bufferSectorsAt && decide (j < seatSectors d s) then some (seatSectorsAt + j)
    else ((sl.wbuf.mapIdx fun i w => (i, w)).flatMap fun e => (List.range 8).filterMap fun k =>
      let n := bufferSectorsAt + 8 * e.1 + k
      if sectAt e.2.line k == .absent || decide (n < at_) then none else some n).head?

/-- R356 on one sector of a line. An UNCORRECTABLE word in a CLEAN sector is counted and logged, nothing is written, and the
sector becomes ABSENT (R374). -/
def gleanLineSector (d : Dev) (s key k : Nat) : Dev :=
  match tfind (sliceOf d s).lines key with
  | none => d
  | some l =>
    let lostW (i : Nat) : Bool := sectAt l k == .clean && match memDecode l.data (16 * k + i) with
      | .uncorrectable _ => true
      | _ => false
    let d := (List.range 16).foldl (fun d i =>
      let w := 16 * k + i
      if lostW i then
        krUe (logErr (regBump d .integUe [] 47 32 1) stUncorrectable ukSlice s 1 (l.idx * 1024 + 8 * w)
          (wordDetail (syndromes (memStored l.data w)) i)) s (key / 16)
      else (lineRead d s key w).1) d
    if (List.range 16).any lostW then
      match tfind (sliceOf d s).lines key with
      | none => d
      | some l => putLine d s key { setSect l k .absent with data := memClear l.data (128 * k) 128 }
    else d

/-- Bits of words of a sector that upset in the array before the gleaner reads. -/
def upsetWords (at_ : Nat) (flips : List (Nat × Codeword)) (m : Mem) : Mem :=
  (flips.filter fun f => decide (f.1 < 16)).foldl (fun m f => memFlip m (at_ + f.1) f.2) m

/-- The same in a sector of a slice, by its place in the gleaner's order. -/
def upsetHeld (d : Dev) (s i : Nat) (flips : List (Nat × Codeword)) : Dev :=
  if i < seatSectorsAt then
    modSlice d s fun sl => match tfind sl.lines (i / 8) with
      | none => sl
      | some l => { sl with lines := tput sl.lines (i / 8) { l with data := upsetWords (16 * (i % 8)) flips l.data } }
  else if i < bufferSectorsAt then
    (flips.filter fun f => decide (f.1 < 16)).foldl (fun d f =>
      let n := 16 * (i - seatSectorsAt) + f.1
      putSeat d s n (tget 0 (sliceOf d s).seat n ^^^ f.2)) d
  else
    let j := i - bufferSectorsAt
    modSlice d s fun sl => { sl with wbuf := sl.wbuf.mapIdx fun n w =>
      if n = j / 8 then { w with line := { w.line with data := upsetWords (16 * (j % 8)) flips w.line.data } } else w }

/-- The gleaner reads a sector of a slice (R356, R374). -/
def gleanHeld (d : Dev) (s i : Nat) : Dev :=
  if i < seatSectorsAt then gleanLineSector d s (i / 8) (i % 8)
  else if i < bufferSectorsAt then
    (List.range 16).foldl (fun d k =>
      let n := 16 * (i - seatSectorsAt) + k
      if tget 0 (sliceOf d s).seat n = 0 then d
      else let x := seatValue d s n; (seatRead d s n x.1 x.2).1) d
  else
    let j := i - bufferSectorsAt
    match ((sliceOf d s).wbuf)[j / 8]? with
    | none => d
    | some w => (List.range 16).foldl (fun d k => (bufferRead d s w.line.idx (isTl w.line.kind) (16 * (j % 8) + k)).1) d

/-- Every slice is at the end of the pass. -/
def endKrPass (d : Dev) (late : Bool) : Dev :=
  if d.slices.all fun e => (nextHeld d e.1 e.2.gleanAt).isNone then
    let d := { d with slices := tmap (fun _ x => { x with gleanAt := 0 }) d.slices }
    let d := regBump d .gleanStatus [] 23 0 1
    if late then regBump d .gleanStatus [] 63 48 1 else d
  else d

/-- KRETEN_GLEAN_SECTOR: the next sector of a slice.
DESIGN CHOICE, unsafe (log 59). -/
def execKretenGleanSector (slice : Nat) (flips : List (Nat × Codeword)) (late : Bool) (s : State) : Result :=
  act s fun d =>
    let fresh := d.slices.all fun e => e.2.gleanAt == 0
    if slice ≥ 256 || (fresh && regField d .gleanCfg [] 15 0 = 0) then d
    else match nextHeld d slice (sliceOf d slice).gleanAt with
      | none => endKrPass (modSlice d slice fun sl => { sl with gleanAt := sliceSectors }) late
      | some i =>
        let d := modSlice d slice fun sl => { sl with gleanAt := i + 1 }
        let d := grantSlice (withHue (upsetHeld d slice i flips) (gleanHue d)) slice 128
        endKrPass (gleanHeld d slice i) late

/-! ### Sweeps (R381 to R383) -/

/-- The checks of a sweep command. -/
def sweepCheck (d : Dev) (base size summary arg3 : Nat) : Option Half :=
  if !blkAccepts d blkSweep then some stBlockGated
  else if base % 1024 ≠ 0 || size < 1024 || size > 2 ^ 40 || size % 1024 ≠ 0 || !backed d base size || bits arg3 15 8 > 15 ||
      summary % 64 ≠ 0 || !backed d summary 64 || overlaps summary 64 base size then some stSweepField
  else if d.sweeps.length ≥ 4 then some stSweepBusy
  else none

/-- SWEEP.
DESIGN CHOICE, unsafe (log 60). -/
def handleSweep : Handler := fun d c op =>
  let a (i : Nat) : Nat := c.args.getD i 0
  match sweepCheck d (a 0) (a 1) (a 2) (a 3) with
  | some st => (some st, d)
  | none =>
    let n := ((List.range 4).find? fun k => (tfind d.sweeps k).isNone).getD 0
    let x : Sweep := { base := a 0, size := a 1, mode := bits (a 3) 0 0, summary := a 2, hue := bits (a 3) 15 8,
                       started := d.tb.now, op := op, held := blkState d blkSweep == .onPending }
    (some stOk, setOpHue { d with sweeps := tput d.sweeps n x } op x.hue)

/-- SWEEP: the receipt read of a record with its opcode (R447). -/
def execSweep (w : Win) (s : State) : Result :=
  act s fun d => submitAs d w 0x13 handleSweep

/-- What a sweep has counted. -/
structure Swept where
  d      : Dev
  words  : Nat := 0
  corr   : Nat := 0
  unc    : Nat := 0
  pois   : Nat := 0
  bad    : Option Nat := none
deriving DecidableEq, Repr

/-- Count one decoded word of address `a`. -/
def Swept.note (w : Swept) (a : Nat) (x : Decoded) : Swept :=
  let first := match w.bad with
    | some b => some (min b a)
    | none => some a
  match x with
  | .clean _ p => if p then { w with words := w.words + 1, pois := w.pois + 1, bad := first } else { w with words := w.words + 1 }
  | .corrected _ _ => { w with words := w.words + 1, corr := w.corr + 1 }
  | .uncorrectable _ => { w with words := w.words + 1, unc := w.unc + 1, bad := first }

/-- Count and log what a check-only sweep finds, writing nothing.
DESIGN CHOICE, unsafe (log 60). -/
def countOnly (d : Dev) (x : Decoded) (st : Codeword) (hbm : Bool) (unit a : Nat) : Dev :=
  let det := wordDetail (syndromes st) ((a / 8) % 16)
  match x with
  | .clean _ _ => d
  | .corrected _ _ =>
    logCorrected (regBump d .integCe [] (if hbm then 63 else 31) (if hbm then 32 else 0) 1) (if hbm then ukStack else ukSlice) unit a det
  | .uncorrectable _ =>
    logErr (regBump d .integUe [] (if hbm then 63 else 47) (if hbm then 48 else 32) 1) stUncorrectable
      (if hbm then ukStack else ukSlice) unit 1 a det

/-- One sector of a line in its home slice. -/
def sweepLineSector (w : Swept) (repair : Bool) (s key k : Nat) : Swept :=
  match tfind (sliceOf w.d s).lines key with
  | none => w
  | some l =>
    if sectAt l k == .absent then w
    else
      let d0 := grantSlice w.d s 128
      let found := (List.range 16).map fun i => (16 * k + i, memDecode l.data (16 * k + i))
      let w1 := found.foldl (fun (w : Swept) e => w.note (l.idx * 1024 + 8 * e.1) e.2) w
      let d1 := if repair then gleanLineSector d0 s key k
        else found.foldl (fun d e => countOnly d e.2 (memStored l.data e.1) false s (l.idx * 1024 + 8 * e.1)) d0
      { w1 with d := d1 }

/-- One word at HBM. -/
def sweepHbmWord (w : Swept) (repair : Bool) (a : Nat) : Swept :=
  let l := hbmLoc w.d a
  if isHole w.d l then w
  else
    let x := if bitAt (lostMask w.d .sweep (a / 128 * 128)) (a % 128 / 8) then Decoded.clean 0 true
      else match undefAt w.d a with
      | some e => Decoded.clean (freeWord e a) false
      | none => memDecode w.d.hbm (locByte l / 8)
    let w1 := w.note a x
    { w1 with d := if repair then gleanWord w1.d a
                   else countOnly w1.d x (memStored w1.d.hbm (locByte l / 8)) true l.stack a }

/-- One line of the range: the slice's copy, and HBM (R382). -/
def sweepLine (w : Swept) (repair : Bool) (a : Nat) : Swept :=
  let w1 := match servingSlice w.d (homeSlice a), isTileLocal w.d a with
    | some s, false => match findLine (sliceOf w.d s) (a / 1024) false with
      | some (key, _) => (List.range 8).foldl (fun w k => sweepLineSector w repair s key k) w
      | none => w
    | _, _ => w
  (List.range 8).foldl (fun w k =>
    (List.range 16).foldl (fun w i => sweepHbmWord w repair (a + 128 * k + 8 * i))
      { w with d := grantHbm w.d (a + 128 * k) 128 }) w1

/-- The 64 bytes of a summary. -/
def sweepSummary (x : Sweep) (w : Swept) (now : Nat) : List Byte :=
  leBytes 4 (0x0502 + (regField w.d .hostVersel [] 23 16 <<< 16)) ++ leBytes 2 stOk.toNat ++ leBytes 1 x.mode ++ leBytes 1 0 ++ leBytes 8 x.base ++ leBytes 8 x.size ++
  leBytes 8 w.words ++ leBytes 4 (min w.corr 0xFFFFFFFF) ++ leBytes 4 (min w.unc 0xFFFFFFFF) ++
  leBytes 4 (min w.pois 0xFFFFFFFF) ++ leBytes 4 0 ++ leBytes 8 (w.bad.getD 0xFFFFFFFFFFFFFFFF) ++ leBytes 8 (now - x.started)

/-- The lines of a sweep's range, in order.
DESIGN CHOICE, unsafe (log 60). -/
def sweepRange (d : Dev) (x : Sweep) : Swept :=
  (List.range (x.size / 1024)).foldl (fun w i => sweepLine w (x.mode == 1) (x.base + 1024 * i)) { d := withHue d x.hue }

/-- SWEEP_DONE: the range is read, the summary written, the handle completed; nothing while the summary's write waits. -/
def execSweepDone (n : Nat) (s : State) : Result :=
  act s fun d => match tfind d.sweeps n with
    | none => d
    | some x =>
      if x.held || !blkServes d blkSweep then d
      else
        let w := sweepRange d x
        match devWrite w.d (.core 0) x.summary (sweepSummary x w d.tb.now) with
        | (d1, true) => completeOpt { d1 with sweeps := tdel d1.sweeps n, lost := d1.lost.filter fun e => e.who != .sweep }
            x.op stOk
        | (_, false) => startSnoops d (.core 0) x.summary 64 true

/-! ### Smudge masks (R384, R385) -/

/-- The rule of SMUDGE_CTL: arming needs testing to be enabled. -/
def smudgeRule (d : Dev) (r : Req) (t : RegDef) (ix : List Nat) (mask val : Nat) : Dev :=
  if bits val 17 16 ≠ 0 && !d.board.testEn then discard d r stSmudgeLocked t ix mask else plainWrite d t ix mask val

/-- A write of a SMUDGE_CTL register with the bit `b` set. -/
def armSmudge (d : Dev) (r : Req) (off bytes : Nat) (v : DWord) (b : Nat) : Dev :=
  match regAt (off / 8 * 8) with
  | some (t, _) =>
    if (t.id == .smudgeCtlHbm || t.id == .smudgeCtlKr) && bitAt (accessValue off bytes v) b then
      withWrite d r off bytes v fun d t ix mask val => smudgeRule d r t ix mask val
    else d
  | none => d

/-- SMUDGE_ARM_WORD. -/
def execSmudgeArmWord (r : Req) (off bytes : Nat) (v : DWord) (s : State) : Result :=
  act s fun d => armSmudge d r off bytes v 16

/-- SMUDGE_ARM_CRC. -/
def execSmudgeArmCrc (r : Req) (off bytes : Nat) (v : DWord) (s : State) : Result :=
  act s fun d => armSmudge d r off bytes v 17

/-! ### Hue windows (R392, R393) -/

/-- HUE_WINDOW_START: the time base has reached a multiple of 2,000 ticks. -/
def execHueWindowStart (s : State) : Result := act s rollWindow

end Sys2Proof.Machine
end

