-- ==== Sys2Proof/Machine/Streams.lean ====
section
/-! DEFINITION. Streams (R60 to R68, R128 to R130) and the fill gate (R194 to R197, R203). -/
namespace Sys2Proof.Machine
open Sys2Proof

/-- Seat entries of a stage in table order: the position is the rank (R60). -/
def stageSeats (cv : Canvas) (stage : Nat) : List SeatEnt := cv.seats.filter fun s => s.stage == stage

/-- Tile, ORDER and entry of a rank. -/
def seatOfRank (cv : Canvas) (stage rank : Nat) : Option (Nat × SeatEnt) :=
  ((stageSeats cv stage)[rank]?).map fun s => (16 * s.y + s.x, s)

def packetBytes (e : StreamEnt) : Nat := e.flits * 64

/-- Stage-buffer address of slot `k` of producer rank `r` (R63). -/
def slotAddr (s : SeatEnt) (e : StreamEnt) (r k : Nat) : Nat :=
  (s.keptBase + e.landingAt) * 1024 + (r * e.slots + k) * packetBytes e

def consEp (rt : StreamRt) (r : Nat) : ConsEp := tget {} rt.cons r
def putCons (rt : StreamRt) (r : Nat) (e : ConsEp) : StreamRt := { rt with cons := tput rt.cons r e }
def slotKey (r k : Nat) : Nat := 256 * r + k
def slotOf (e : ConsEp) (r k : Nat) : Slot := tget {} e.slots (slotKey r k)

/-- Consumer ranks that a write goes to (R66). -/
def targets (cv : Canvas) (e : StreamEnt) (target : Nat) : List Nat :=
  if e.multicast then List.range (stageSeats cv e.consumer).length else [target]

/-- Credits of a pair of ranks (R64). -/
def creditsOf (e : StreamEnt) (rt : StreamRt) (p c : Nat) : Nat := e.slots - tget 0 rt.spent (65536 * p + c)

/-- Bytes of a packet with the poison mark of each of its words. -/
def packetWords (d : Dev) (t a n : Nat) : Dev × List Byte × List Bool :=
  let m := (tileOf d t).sb
  (sbScrub d t a n, (memRead m a n).1,
   (List.range (n / 8)).map fun j => (wordsOf (a + 8 * j) 8).any fun w => (memVal m w.1).2)

/-- Send a packet to its targets: it is read now and one credit is spent for each (R64, R67). -/
def sendPacket (d : Dev) (c sn : Nat) (e : StreamEnt) (t p a : Nat) (ts : List Nat) : Dev :=
  let (d, bs, ps) := packetWords d t a (packetBytes e)
  let d := ts.foldl (fun d _ => hueGrant d (.tile t) e.hue (packetBytes e)) d
  modStream d c sn fun rt => ts.foldl (fun rt k => { rt with
    spent := tmod 0 rt.spent (65536 * p + k) (· + 1),
    packets := rt.packets ++ [{ prod := p, cons := k, bytes := bs, poison := ps }] }) rt

/-- The stream's entry where the executing stage is its producer (`prod`) or consumer (R130). -/
def ownStream (d : Dev) (i : Iss) (sn : Nat) (prod : Bool) : Option (Canvas × StreamEnt) :=
  match canvasOf d i.cv with
  | none => none
  | some cv => match cv.streams[sn]? with
    | none => none
    | some e => if (if prod then e.producer else e.consumer) = i.seat.stage then some (cv, e) else none

/-- STREAM.WRITE at issue (R66, R67, R129, R130). -/
def doStreamWrite (sn : Nat) (addr rank : Opnd) (d : Dev) (i : Iss) : Issued :=
  guardOk (opndOk addr && opndOk rank) <|
    match ownStream d i sn true with
    | none => .fault stStreamSlot 0
    | some (cv, e) =>
      orFault (parityFails i (if e.multicast then [addr] else [addr, rank]) [i.low]) <|
        let r := (opndVal i i.low rank).val
        let a := (opndVal i i.low addr).val
        if !e.multicast && decide (r ≥ (stageSeats cv e.consumer).length) then .fault stStreamSlot 0
        else if !sbOk i.seat a (packetBytes e) then .fault stSbRange 0
        else
          let ts := targets cv e r
          let rt := streamRt d i.cv sn
          if ts.all fun k => decide (creditsOf e rt i.seat.rank k > 0) then
            .done (sendPacket d i.cv sn e i.t i.seat.rank a ts)
          else
            let h : HeldWrite := { rank := i.seat.rank, group := i.g, lanes := laneMask i.lanes, pc := i.pc, src := a,
                                   target := r }
            let d := modStream d i.cv sn fun rt => { rt with held := rt.held ++ [h] }
            .stay (modCtx d i.t i.key fun c => modGroup c i.g fun gr =>
              modLanes gr i.lanes fun l => { l with wait := .streamWrite })

/-- STREAM_WRITE (R67). The release of the REL qualifier orders accesses that are all performed at issue here. -/
def execStreamWrite (t g stream : Nat) (addr rank : Opnd) (rel : Bool) (s : State) : Result :=
  let _ := rel
  act s fun d => issue d t g [] (doStreamWrite stream addr rank)

/-- Lanes of a group that wait with `w` at `pc` go to `pc'`. -/
def letGo (d : Dev) (t : Nat) (g lanes pc pc' : Nat) (w : LaneWait) : Dev :=
  match (tileOf d t).cur with
  | none => d
  | some k => modCtx d t k fun c => modGroup c g fun gr =>
      modLanes gr (bitList 32 lanes) fun l => if l.wait == w && l.pc == pc then { l with wait := .ready, pc := pc' } else l

/-- Send the first held write of producer rank `p` that now holds its credits, and retire it (R66, R67). -/
def sendHeld (d : Dev) (c sn p : Nat) : Dev :=
  match canvasOf d c with
  | none => d
  | some cv => match cv.streams[sn]? with
    | none => d
    | some e =>
      let rt := streamRt d c sn
      let ready (h : HeldWrite) : Bool :=
        h.rank == p && (targets cv e h.target).all fun k => decide (creditsOf e rt p k > 0)
      match rt.held.find? ready, seatOfRank cv e.producer p with
      | some h, some (t, _) =>
        let d := modStream d c sn fun rt => { rt with held := rt.held.erase h }
        letGo (sendPacket d c sn e t p h.src (targets cv e h.target)) t h.group h.lanes h.pc (h.pc + 1) .streamWrite
      | _, _ => d

/-- CREDIT_RETURNS (R64, R67): the oldest credit in transit for the pair reaches the producer endpoint.
DESIGN CHOICE, safe (log 34). -/
def execCreditReturns (canvas stream prod cons : Nat) (s : State) : Result :=
  act s fun d =>
    let rt := streamRt d canvas stream
    if rt.credits.any (fun x => x == (prod, cons)) then
      let d := modStream d canvas stream fun rt => { rt with
        credits := rt.credits.erase (prod, cons), spent := tmod 0 rt.spent (65536 * prod + cons) (· - 1) }
      sendHeld d canvas stream prod
    else d

def wakeReader (sn : Nat) (l : Lane) : Lane := if l.wait == .streamRead sn then { l with wait := .ready } else l
def wakeReaderGroup (sn : Nat) (gr : Group) : Group := { gr with lanes := gr.lanes.map (wakeReader sn) }

/-- Lanes of a seated stage that wait in STREAM.READ for a stream issue it again (R68). -/
def wakeReaders (d : Dev) (t stage sn : Nat) : Dev :=
  match curSeat d t with
  | some (k, st) =>
    if st.stage = stage then modCtx d t k fun c => { c with groups := tmap (fun _ gr => wakeReaderGroup sn gr) c.groups }
    else d
  | none => d

/-- The lowest FREE slot of a rank (R63). -/
def freeSlot (e : ConsEp) (slots r : Nat) : Option Nat := (List.range slots).find? fun k => (slotOf e r k).st == .free

/-- A stream's consumer endpoint on a tile: the stream's entry, the consumer rank there, and the endpoint. -/
def endpointOn (d : Dev) (c t : Nat) (cv : Canvas) (sn : Nat) : Option (StreamEnt × Nat × ConsEp) :=
  (cv.streams[sn]?).bind fun e => ((stageSeats cv e.consumer).findIdx? fun s => 16 * s.y + s.x == t).map fun k =>
    (e, k, consEp (streamRt d c sn) k)

/-- The oldest packet of a pair on its way, and a slot for it (R63, R64). -/
def headPacket (rt : StreamRt) (e : StreamEnt) (ep : ConsEp) (prod cons : Nat) : Option (Packet × Nat) :=
  (rt.packets.find? fun p => p.prod == prod && p.cons == cons).bind fun p => (freeSlot ep e.slots prod).map fun k => (p, k)

/-- A packet lands (R63, R68): its slot is FILLED, and the channel's pointers move past it (R110 to R112). -/
def landPacket (d : Dev) (c t : Nat) (cv : Canvas) (sn prod : Nat) : Dev :=
  match endpointOn d c t cv sn with
  | none => d
  | some (e, cons, ep) => match headPacket (streamRt d c sn) e ep prod cons, seatOfRank cv e.consumer cons with
    | some (p, k), some (_, se) =>
      let n := tget 0 ep.received prod
      let ep := { ep with
        slots := tput ep.slots (slotKey prod k) { st := .filled, filledAt := d.tb.now, seq := n },
        order := tmod [] ep.order prod (· ++ [k]),
        received := tput ep.received prod ((n + 1) % 2 ^ 24),
        rankPtr := (prod + 1) % 256 }
      let d := { d with ejectPtr := tput d.ejectPtr (4 * t + ep.num % 4) ((ep.num + 1) % 64) }
      let d := modStream d c sn fun rt => putCons { rt with packets := rt.packets.erase p } cons ep
      wakeReaders (sbPutWords d t (slotAddr se e prod k) p.bytes p.poison) t e.consumer sn
    | _, _ => d

/-- Head packets at an ejection channel, as (stream, producer rank), that there are. -/
def headsAt (d : Dev) (c t ch : Nat) (cv : Canvas) (heads : List (Nat × Nat)) : List (Nat × Nat) :=
  heads.filter fun x => (endpointOn d c t cv x.1).any fun e =>
    e.2.2.num % 4 == ch && (headPacket (streamRt d c x.1) e.1 e.2.2 x.2 e.2.1).isSome

/-- What the channel serves: first a stream by its hue and endpoint number, then a producer rank of it (R111, R112). -/
def servedHead (d : Dev) (c t ch : Nat) (cv : Canvas) (heads : List (Nat × Nat)) : Option (Nat × Nat) :=
  let ws := headsAt d c t ch cv heads
  let no (sn : Nat) : Nat := (endpointOn d c t cv sn).elim 0 (·.2.2.num)
  (arbitrate (tget 0 d.ejectPtr (4 * t + ch)) 64 (ws.map fun x =>
    (no x.1, (cv.streams[x.1]?).elim 0 fun e => huePriority d e.hue))).bind fun k =>
      (ws.find? fun x => no x.1 == k).bind fun x =>
        (arbitrate ((endpointOn d c t cv x.1).elim 0 (·.2.2.rankPtr)) 256
          ((ws.filter fun y => y.1 == x.1).map fun y => (y.2, 0))).map fun r => (x.1, r)

/-- PACKET_ARRIVES (R68, R111): channel `ch` of the tile at column `tx` and row `ty` ejects the next of the head packets
that wait at it, `heads` being the pairs whose packets have crossed the mesh.
DESIGN CHOICE, safe (log 34). -/
def execPacketArrives (tx ty ch : Nat) (heads : List (Nat × Nat)) (s : State) : Result :=
  let t := tx + 16 * ty
  act s fun d => match (tileOf d t).canvas with
    | none => d
    | some c => match canvasOf d c with
      | none => d
      | some cv => (servedHead d c t ch cv heads).elim d fun x => landPacket d c t cv x.1 x.2

/-! ### The fill gate -/

/-- The gated stream of a stage: its lowest ranked input stream, when FILL_ROWS is not 0 (R194). -/
def gatedStream (cv : Canvas) (stage : Nat) : Option Nat :=
  if (stageOf cv stage).fillRows = 0 then none
  else (List.range cv.streams.length).find? fun n => match cv.streams[n]? with
    | some e => e.consumer == stage && !e.multicast
    | none => false

/-- FILLED slots of a consumer endpoint. -/
def filledSlots (ep : ConsEp) : List Slot := (ep.slots.filter fun e => e.2.st == .filled).map (·.2)

/-- Enough rows are FILLED. -/
def gateByRows (sg : StageEnt) (e : StreamEnt) (ep : ConsEp) : Bool :=
  decide ((filledSlots ep).length * e.rows ≥ sg.fillRows)

/-- FILL_HOLD has passed since the oldest FILLED slot. -/
def gateByHold (now : Nat) (sg : StageEnt) (ep : ConsEp) : Bool :=
  (filledSlots ep).any fun x => decide (x.filledAt + sg.fillHold ≤ now)

/-- One round over the ranks from the pointer (R195): taken (rank, slot), rows, the endpoint, whether to stop. -/
structure BatchAcc where
  ep    : ConsEp
  list  : List (Nat × Nat) := []
  rows  : Nat := 0
  took  : Bool := false
  stop  : Bool := false

def batchRank (fill rowsPer : Nat) (a : BatchAcc) (r : Nat) : BatchAcc :=
  if a.stop then a
  else match tget [] a.ep.order r with
    | [] => a
    | k :: rest =>
      if !a.list.isEmpty && a.rows + rowsPer > fill then { a with stop := true }
      else { a with
        ep := { a.ep with order := tput a.ep.order r rest,
                          slots := tput a.ep.slots (slotKey r k) { slotOf a.ep r k with st := .readSt } },
        list := a.list ++ [(r, k)], rows := a.rows + rowsPer, took := true }

/-- Rounds until one takes no slot or a slot does not fit. -/
def batchRounds (fill rowsPer ranks ptr : Nat) : Nat → BatchAcc → BatchAcc
  | 0, a => a
  | n + 1, a =>
    let a := ((List.range ranks).map fun i => (ptr + i) % ranks).foldl (batchRank fill rowsPer) { a with took := false }
    if a.stop || !a.took then a else batchRounds fill rowsPer ranks ptr n a

/-- Form a batch (R195): the endpoint with its slots READ, the pointer moved, the batch outstanding. -/
def formBatch (ep : ConsEp) (fill rowsPer ranks : Nat) : ConsEp × Nat :=
  let a := batchRounds fill rowsPer ranks ep.gatePtr (ep.slots.length + 1) { ep := ep }
  match a.list.getLast? with
  | none => (ep, 0)
  | some (r, _) => ({ a.ep with batch := a.list, gatePtr := (r + 1) % ranks }, a.rows)

/-- A batch list entry (R196). -/
def batchWord (se : SeatEnt) (e : StreamEnt) (x : Nat × Nat) : Nat :=
  slotAddr se e x.1 x.2 % 2 ^ 20 + ((e.rows % 2 ^ 16) <<< 20) + ((x.1 % 2 ^ 16) <<< 36) + ((x.2 % 2 ^ 8) <<< 52)

/-- STREAM.READ with GATE at issue (R194 to R197, R203). -/
def doGateRead (sn : Nat) (addr : Opnd) (dst : Nat) (d : Dev) (i : Iss) : Issued :=
  guardOk (opndOk addr && decide (dst < 64)) <|
    match ownStream d i sn false with
    | none => .fault stStreamSlot 0
    | some (cv, e) =>
      orFault (parityFails i [addr] [i.low]) <|
        let rt := streamRt d i.cv sn
        let ep := consEp rt i.seat.rank
        let a := (opndVal i i.low addr).val
        if gatedStream cv i.seat.stage ≠ some sn then .fault stGateMode 0
        else if !ep.batch.isEmpty then .fault stGateBusy 0
        else if a % 64 ≠ 0 then .fault stMemAlign 0
        else
          let byRows := gateByRows i.stage e ep
          let ranks := (stageSeats cv e.producer).length
          match seatOfRank cv e.consumer i.seat.rank with
          | none => .fault stStreamSlot 0
          | some (_, se) =>
            if !(byRows || gateByHold d.tb.now i.stage ep) then
              .stay (modCtx d i.t i.key fun c => modGroup c i.g fun gr =>
                modLanes gr i.lanes fun l => { l with wait := .streamRead sn })
            else
              let (ep, rows) := formBatch ep i.stage.fillRows e.rows ranks
              let n := ep.batch.length
              if !sbOk i.seat a (8 * n) then .fault stSbRange 0
              else
                let d := modStream d i.cv sn fun rt => putCons rt i.seat.rank ep
                let d := sbWrite d i.t a (ep.batch.flatMap fun x => leBytes 8 (batchWord se e x)) false
                let d := if byRows then regBump d .gateOpens [i.t] 31 0 1 else regBump d .gateOpens [i.t] 63 32 1
                .done (writeAll d i (.reg dst) (((rows % 2 ^ 16) <<< 16) + n))

/-- GATE_READ (R194). -/
def execGateRead (t g stream : Nat) (addr : Opnd) (dst : Nat) (s : State) : Result :=
  act s fun d => issue d t g [] (doGateRead stream addr dst)

/-- FILL_HOLD_EXPIRES (R194): FILL_HOLD has passed, so lanes that wait at the gate issue their read again. -/
def execFillHoldExpires (canvas stream cons : Nat) (s : State) : Result :=
  act s fun d => match canvasOf d canvas with
    | none => d
    | some cv => match cv.streams[stream]? with
      | none => d
      | some e => match seatOfRank cv e.consumer cons with
        | none => d
        | some (t, _) =>
          if gatedStream cv e.consumer == some stream
              && gateByHold d.tb.now (stageOf cv e.consumer) (consEp (streamRt d canvas stream) cons) then
            wakeReaders d t e.consumer stream
          else d

/-! ### Reads and releases -/

/-- STREAM.READ at issue (R65, R68, R130, R197).
DESIGN CHOICE, unsafe (log 16). -/
def doStreamRead (sn : Nat) (rank : Option Opnd) (dstAddr dstLen : Nat) (d : Dev) (i : Iss) : Issued :=
  guardOk (rank.toList.all opndOk && decide (dstAddr < 64) && decide (dstLen < 64)) <|
    match ownStream d i sn false with
    | none => .fault stStreamSlot 0
    | some (cv, e) =>
      orFault (parityFails i rank.toList [i.low]) <|
        let ranks := (stageSeats cv e.producer).length
        let ep := consEp (streamRt d i.cv sn) i.seat.rank
        let r := match rank with
          | some o => (opndVal i i.low o).val
          | none => ep.turn
        if r ≥ ranks then .fault stStreamSlot 0
        else if gatedStream cv i.seat.stage = some sn then .fault stGateMode 0
        else match tget [] ep.order r, seatOfRank cv e.consumer i.seat.rank with
          | k :: rest, some (_, se) =>
            let ep := { ep with order := tput ep.order r rest,
                                slots := tput ep.slots (slotKey r k) { slotOf ep r k with st := .readSt },
                                turn := if rank.isNone then (r + 1) % ranks else ep.turn }
            let d := modStream d i.cv sn fun rt => putCons rt i.seat.rank ep
            .done (writeAll (writeAll d i (.reg dstAddr) (slotAddr se e r k)) i (.reg dstLen) (packetBytes e))
          | _, _ =>
            .stay (modCtx d i.t i.key fun c => modGroup c i.g fun gr =>
              modLanes gr i.lanes fun l => { l with wait := .streamRead sn })

/-- STREAM_READ (R130). -/
def execStreamRead (t g stream : Nat) (rank : Option Opnd) (dstAddr dstLen : Nat) (s : State) : Result :=
  act s fun d => issue d t g [] (doStreamRead stream rank dstAddr dstLen)

/-- Free READ slots and send their credits back (R64, R68). -/
def releaseSlots (rt : StreamRt) (cons : Nat) (l : List (Nat × Nat)) : StreamRt :=
  let ep := consEp rt cons
  let ep := { ep with slots := l.foldl (fun t x => tput t (slotKey x.1 x.2) { slotOf ep x.1 x.2 with st := .free }) ep.slots,
                      batch := ep.batch.filter fun x => !l.contains x }
  putCons { rt with credits := rt.credits ++ l.map fun x => (x.1, cons) } cons ep

/-- The slot of a landing at a stage-buffer address. -/
def slotAt (se : SeatEnt) (e : StreamEnt) (ranks a : Nat) : Option (Nat × Nat) :=
  let base := (se.keptBase + e.landingAt) * 1024
  let n := (a - base) / packetBytes e
  if base ≤ a && decide ((a - base) % packetBytes e = 0) && decide (n < ranks * e.slots) then some (n / e.slots, n % e.slots)
  else none

/-- STREAM.RELEASE at issue (R68, R130, R194, R197). -/
def doStreamRelease (sn : Nat) (sa : Opnd) (d : Dev) (i : Iss) : Issued :=
  guardOk (opndOk sa) <|
    match ownStream d i sn false with
    | none => .fault stStreamSlot 0
    | some (cv, e) =>
      let ep := consEp (streamRt d i.cv sn) i.seat.rank
      if gatedStream cv i.seat.stage = some sn then
        (if ep.batch.isEmpty then .fault stStreamSlot 0
         else .done (modStream d i.cv sn fun rt => releaseSlots rt i.seat.rank ep.batch))
      else
        orFault (parityFails i [sa] [i.low]) <|
          match seatOfRank cv e.consumer i.seat.rank with
          | none => .fault stStreamSlot 0
          | some (_, se) => match slotAt se e (stageSeats cv e.producer).length (opndVal i i.low sa).val with
            | none => .fault stStreamSlot 0
            | some (r, k) =>
              if (slotOf ep r k).st ≠ .readSt then .fault stStreamSlot 0
              else .done (modStream d i.cv sn fun rt => releaseSlots rt i.seat.rank [(r, k)])

/-- STREAM_RELEASE (R130). -/
def execStreamRelease (t g stream : Nat) (slotAddr : Opnd) (s : State) : Result :=
  act s fun d => issue d t g [] (doStreamRelease stream slotAddr)

end Sys2Proof.Machine
end

