-- ==== Sys2Proof/Machine/HostEvents.lean ====
section
/-! DEFINITION. Events of the host port (R437, R440, R445, R449, R457 to R459, R462, R463, R537): records, receipts that
reject, completion logs, the HDM decoder, the link, the host port reset, and the management port. -/
namespace Sys2Proof.Machine
open Sys2Proof

/-! ### Records and receipts -/

/-- Requester, BAR0 or BAR2 offset, and whether it is BAR2, of a place in a command window (R444, R484). -/
def winPlace (w : Win) (off : Nat) : Req × Nat × Bool := match w with
  | .slot n => (.host, n * 0x1000 + off, true)
  | .core c => (.core c, 0xD000 + 0x100 * c + off, false)

/-- An access of a wrong size or alignment in a command window (R30). -/
def winSizeError (d : Dev) (w : Win) (off : Nat) (write : Bool) (bytes : Nat) : Dev :=
  let (r, a, bar2) := winPlace w off
  emit (logAccess d r stAccessSize a bar2 write bytes) (if bar2 then .slotError a else .regError r a)

/-- A write of RECORD (R445): naturally aligned, 4 to 64 bytes; it changes the bytes it addresses. -/
def writeRecordAt (d : Dev) (w : Win) (off : Nat) (data : List Byte) : Dev :=
  let n := data.length
  if !nmem n [4, 8, 16, 32, 64] || off % n ≠ 0 || off + n > 64 then winSizeError d w off true n
  else
    let x := winOf d w
    putWin d w { x with record := BitVec.ofNat 512 (putBits x.record.toNat (8 * (off + n) - 1) (8 * off) (leNat data)) }

/-- RECORD_WRITE. -/
def execRecordWrite (w : Win) (off : Nat) (data : List Byte) (s : State) : Result :=
  act s fun d => if winExists w then writeRecordAt d w off data else d

/-! ### Completion logs -/

/-- The register value with which a log is enabled breaks R459. -/
def enableBad (d : Dev) (base ctl : Nat) : Bool :=
  let n := 64 * (64 * 2 ^ bits ctl 3 0)
  let a := base / 4096 * 4096
  if bitAt ctl 14 then !backed d a n || hitsPlaced d a n else !d.link.cacheEn

/-- The rule of COMPLOG_CTLn and of a core's LOG_CTL (R459, R484). Setting ENABLE sets PROD to 0, and the head of the log
reads TAKEN afresh.
DESIGN CHOICE, unsafe (log 70). -/
def writeLogCtl (d : Dev) (r : Req) (off bytes : Nat) (v : DWord) : Dev :=
  withWrite d r off bytes v fun d t ix mask val =>
    let old := regGet d t.id ix
    let new := newValue d t ix mask val
    let log := if t.id == .complogCtl then ix.headD 0 else 8 + ix.headD 0
    if (bitAt old 15 && (bitAt old 14 != bitAt new 14 || bits old 3 0 != bits new 3 0)) || bits new 3 0 > 10 then
      discard d r stHostField t ix mask
    else if bitAt new 15 && !bitAt old 15 then
      let base := if log < 8 then regGet d .complogBase ix else regGet d .cwLogBase ix
      if enableBad d base new then discard d r stHostField t ix mask
      else
        let d := { d with held := lmod (fun h => logOf d h.op.win == log) (fun h => { h with waited := false }) d.held }
        regPut d t.id ix (putBits new 63 32 0)
    else regPut d t.id ix new

/-- The rule of COMPLOG_BASEn and of a core's LOG_BASE (R458, R459). -/
def writeLogBase (d : Dev) (r : Req) (off bytes : Nat) (v : DWord) : Dev :=
  withWrite d r off bytes v fun d t ix mask val =>
    let on := if t.id == .complogBase then regBit d .complogCtl ix 15 else regBit d .cwLogCtl ix 15
    if on && newValue d t ix mask val != regGet d t.id ix then discard d r stHostField t ix mask
    else plainWrite d t ix mask val

/-- The control register of a log. -/
def logCtlOff (log : Nat) : Nat := if log < 8 then regOff .complogCtl [log] else regOff .cwLogCtl [log - 8]

/-- COMPLOG_ENABLE: a write that sets ENABLE. -/
def execComplogEnable (r : Req) (log off bytes : Nat) (v : DWord) (s : State) : Result :=
  act s fun d => if log < 16 && off == logCtlOff log && bitAt v.toNat 15 then writeLogCtl d r off bytes v else d

/-- COMPLOG_RETRY (R457): 1 µs after it found its entry filled, the head of a log reads TAKEN again; `taken` is what the
host's memory holds there.
DESIGN CHOICE, safe (log 71). -/
def execComplogRetry (log : Nat) (taken : Bool) (s : State) : Result :=
  act s fun d => match headOf d log with
    | none => d
    | some h => if logEnabled d log && h.waited then (tryHead d log h (some taken)).1 else d

/-! ### Link, decoder, management port -/

/-- HOST_LINK_UP (R437, R439, R462): the link trains, and the host configures the function: its BARs and the protocols in
force. Below 32 GT/s the port is a plain PCIe endpoint. On a link that stayed up (R463) the host configures the function
anew.
DESIGN CHOICE, safe (log 69). -/
def execHostLinkUp (rate width : Nat) (en : LinkEnables) (bar0 bar2 : DWord) (s : State) : Result :=
  act s fun d =>
    if d.phase != .running then d
    else
      let d := leaveDeep d
      let rate := if d.link.up then d.link.rate else min rate 3
      let width := if d.link.up then d.link.width else min width 3
      let cxl := decide (rate < 3)
      { d with link := { d.link with
          up := true, rate := rate, width := width, bar0 := bar0, bar2 := bar2, memEn := cxl && en.mem,
          cacheEn := cxl && en.cache, biEn := cxl && en.bi } }

/-- HDM_COMMIT (R440): accepted only with back-invalidation enabled, and not where bring-up forbids it.
DESIGN CHOICE, safe (log 9). -/
def execHdmCommit (base : DWord) (s : State) : Result :=
  act s fun d =>
    if !d.link.up then d
    else if d.link.biEn && !d.noHdm then
      { d with link := { d.link with committed := true, hdmBase := base, notCommitted := false } }
    else { d with link := { d.link with committed := false, notCommitted := true } }

/-- MANAGEMENT_REQUEST (R505, R537): it wakes the device from deep; MCTP control from step 1 on, PLDM and SPDM from the end of
step 8.
PRESUMED, unsafe (log 87). -/
def execManagementRequest (k : MgmtKind) (payload : List Byte) (s : State) : Result :=
  act s fun d => let d := leaveDeep d; match k with
    | .mctpControl => emit d (.mgmt (Config.protocolAnswer 0 payload))
    | .pldm => if d.phase == .running then emit d (.mgmt (Config.protocolAnswer 1 payload)) else d

/-! ### The host port reset (R463) -/

/-- Registers that the host port reset returns to their reset values.
DESIGN CHOICE, unsafe (log 74). -/
def portResetRegs : List RegId := [.complogBase, .complogCtl, .hostVersel, .msixAddr, .msixCtl, .msixPba]

/-- Held completions of the host go; what runs on is orphaned. -/
def orphanOp (o : Op) : Op := match o.win with
  | .slot _ => { o with orphan := true }
  | .core _ => o

def slotHeld (h : Held) : Bool := match h.op.win with
  | .slot _ => true
  | .core _ => false

/-- A snoop that awaits the host counts as answered with no dirty data (R314). -/
def answerSnoop (sl : Slice) (q : Snoop) : Slice :=
  if q.inv then { sl with dir := sl.dir.filter fun e => !(e.idx == q.idx) }
  else { sl with dir := lmod (fun e => e.idx == q.idx) (fun e => { e with any := false }) sl.dir }

def answerSnoops (sl : Slice) : Slice := { sl.snoops.foldl answerSnoop sl with snoops := [] }

/-- The function's link state after a host port reset; `down` when the link went with it.
DESIGN CHOICE, safe (log 69).
DESIGN CHOICE, unsafe (log 74). -/
def resetLink (down : Bool) (l : HostLink) : HostLink :=
  if down then {} else { up := l.up, rate := l.rate, width := l.width }

/-- A command that waits for memory and came from the host. -/
def hostWait : Instr → Bool
  | .receiptRead (.slot _) _ => true
  | .moverSubmit .host _ _ _ => true
  | .pipSubmit .host _ _ => true
  | .xcCtlArm .host _ _ _ _ => true
  | .fwStageAddrWrite .host _ _ => true
  | .cueGoArm .host _ _ => true
  | _ => false

/-- The host port reset; it wakes the device from deep (R505).
DESIGN CHOICE, unsafe (log 97). -/
def hostPortReset (d : Dev) (down : Bool) : Dev :=
  let d := portResetRegs.foldl regResetAll (leaveDeep d)
  let d := { d with wins := [], msixPend := [], waits := d.waits.filter (fun c => !hostWait c), held := d.held.filter (fun h => !slotHeld h), ops := d.ops.map orphanOp,
                    link := resetLink down d.link, slices := tmap (fun _ sl => answerSnoops sl) d.slices }
  regBump d .hostStatus [] 47 32 1

end Sys2Proof.Machine
end

