-- ==== Sys2Proof/Machine/Canvas.lean ====
section
/-! DEFINITION. Canvas life (R75, R76, R279): load, start, stop, drain, unload. -/
namespace Sys2Proof.Machine
open Sys2Proof

/-! ### Load -/

/-- CANVAS_LOAD: the image is read at acceptance; a failed check completes the handle (R74, R75). -/
def handleCanvasLoad : Handler := fun d c op =>
  let a := c.args.getD 0 0
  let n := c.args.getD 1 0
  if !backed d a n then (some stOk, completeOpt d op stUnbacked)
  else match readWhole (withHue d (coreHue d)) (.core 0) a n with
  | (d, none) => (none, d)
  | (d, some (l, p)) => match poisonVerdict d p with
    | (some st, d) => (some stOk, completeOpt d op st)
    | (none, d) => match loadCanvas d l n op with
      | .error st => (some stOk, completeOpt d op st)
      | .ok (d, _) => (some stOk, d)

/-- CANVAS_LOAD: the receipt read of a record with its opcode (R447). -/
def execCanvasLoad (w : Win) (s : State) : Result :=
  act s fun d => submitAs d w 0x01 handleCanvasLoad

/-- The initial context of a seat (R142). -/
def initialCtx (d : Dev) : Ctx := { savedAt := d.tb.now }

/-- A tile as a canvas load leaves it: every region of its seats zero, every seat parked with its initial context. -/
def clearTile (d : Dev) (t : Nat) : Dev :=
  modTile d t fun tl =>
    let sb := tl.seats.foldl (fun m e =>
      memClear (memClear m (e.2.keptBase * 1024) (e.2.keptSize * 1024)) (e.2.swapBase * 1024) (e.2.swapSize * 1024)) tl.sb
    { tl with sb := sb, seats := tmap (fun _ s => { s with ctx := initialCtx d, st := SeatSt.parked }) tl.seats }

/-- Number of a stream's consumer endpoint on a tile: its place among the streams that have their consumer there (R112). -/
def endpointNo (c : Canvas) (t n : Nat) : Nat :=
  ((c.streams.take n).filter fun e => (stageSeatEnts c e.consumer).any fun s => seatTile s == t).length

/-- A stream as a load binds it: full credits, empty landings, its consumer endpoints numbered (R62, R64, R112). -/
def bindStream (c : Canvas) (n : Nat) : StreamRt :=
  { cons := ((stageSeatEnts c ((c.streams[n]?).elim 0 (·.consumer))).mapIdx fun r s =>
      (r, ({ num := endpointNo c (seatTile s) n } : ConsEp))).filter fun e => e.2.num != 0 }

/-- The initial contexts of a tile's spilled seats are written to the spill area (R78, R142).
DEDUCED, unsafe (log 28). -/
def storeInitial (c : Canvas) (d : Dev) (t : Nat) : Dev :=
  (tileOf d t).seats.foldl (fun d e => match e.2.spillAt with
    | none => d
    | some off =>
      let bs := wordBytes (ctxImage c e.2 t)
      let d := (sectorPieces (spillAddr c off) bs.length).foldl (fun d p => grantHbm d p.1 128) d
      hbmWriteBytes d (spillAddr c off) bs false)
    (modSlice d t fun sl => { sl with seat := [] })

/-- What a completed load leaves (R64, R75, R142, R288, R300): its spill area out of the Kreten die and undefined, the
regions of its seats zero, its streams empty, its held segments placed. -/
def layCanvas (d : Dev) (canvas : Nat) (c : Canvas) : Dev :=
  let d := flushAll (withHue d c.seatHue) fun i k => !isTl k && inSpan (1024 * i) c.spillBase c.spillSize
  let d := eachTile (makeUndef d c.spillBase (spillParts c).2) canvas clearTile
  let d := eachTile d canvas (storeInitial c)
  let d := (List.range c.streams.length).foldl (fun d n => modStream d canvas n fun _ => bindStream c n) d
  let d := c.pins.foldl (fun d id => (tfind d.preserves id).elim d fun p => placePreserve d p.base p.size) d
  (d.slices.map (·.1)).foldl clearSlots d

/-- The load completes (R75). -/
def completeLoad (d : Dev) (canvas : Nat) : Dev :=
  match canvasOf d canvas with
    | none => d
    | some c =>
      if c.st != .loading || d.creset.active || (tilesOf d canvas).any fun t => !blkOn d (quadOf t) then d
      else
        completeOpt (modCanvas (layCanvas d canvas c) canvas fun c => { c with st := .loaded, loadOp := none }) c.loadOp stOk
          canvas

/-! ### Start -/

/-- The due time of the switch after seat `k`, whose own period began at `base` (R77, R627). -/
def nextRotation (tl : Tile) (period base k : Nat) : Nat × Nat :=
  match tfind tl.seats (k + 1) with
  | some s => (k + 1, base + s.offset)
  | none => (0, base + period)

/-- The restore of a seat begins. -/
def beginRestore (d : Dev) (t k : Nat) : Dev :=
  modSeat (modTile d t fun tl => { tl with cur := some k, sw := .restoring, minDone := false }) t k
    fun s => { s with st := .restoring }

/-- A tile at canvas start: its seat's restore begins and its rotation cue is armed. -/
def startTile (t0 period : Nat) (d : Dev) (t : Nat) : Dev :=
  let tl := tileOf d t
  let k := tl.cur.getD 0
  let (o, due) := nextRotation tl period t0 k
  let d := modTile d t fun tl => { tl with leaving := false, pendingSw := [], nextOrder := o, nextDue := due,
                                           rotArmed := decide (tl.seats.length > 1), rotPast := false }
  beginRestore d t k

/-- The start of a canvas at T0: its rotation cues are armed and its first seats restored. -/
def armCanvas (d : Dev) (n t0 : Nat) (op : Option Nat) : Dev :=
  match canvasOf d n with
  | none => d
  | some c => eachTile (modCanvas d n fun c => { c with st := .armed, t0 := t0, startOp := op }) n (startTile t0 c.period)

/-- CANVAS_START (R75 to R77, R627).
DESIGN CHOICE, unsafe (log 29). -/
def handleCanvasStart (w : Win) : Handler := fun d r op =>
  let n := r.args.getD 0 0
  let t := r.args.getD 1 0
  match canvasOf d n with
  | none => (some stCanvasState, d)
  | some c =>
    if svcOwned w c then (some stSvcOwned, d)
    else if !(c.st == .loaded || c.st == .stopped) || c.unloading then (some stCanvasState, d)
    else if t ≠ 0 && t < d.tb.now + 4000 then (some stCanvasSchedule, d)
    else
      (some stOk, armCanvas d n (if t = 0 then d.tb.now + 4000 else t) op)

/-- CANVAS_START: the receipt read of a record with its opcode (R447). -/
def execCanvasStart (w : Win) (s : State) : Result :=
  act s fun d => submitAs d w 0x02 (handleCanvasStart w)

/-- The time base has reached T0. -/
def beginIssue (d : Dev) (canvas : Nat) : Dev :=
  match canvasOf d canvas with
    | none => d
    | some c => if c.st == .armed && decide (c.t0 ≤ d.tb.now) && !d.creset.active then modCanvas d canvas fun c => { c with st := .running } else d

/-! ### Stop -/

/-- CANVAS_STOP.
DESIGN CHOICE, unsafe (log 29). -/
def handleCanvasStop (w : Win) : Handler := fun d r op =>
  let n := r.args.getD 0 0
  match canvasOf d n with
  | none => (some stCanvasState, d)
  | some c =>
    if svcOwned w c then (some stSvcOwned, d)
    else if c.st != .running then (some stCanvasState, d)
    else (some stOk, beginDrain (modCanvas d n fun c => { c with stopOp := op }) n)

/-- CANVAS_STOP: the receipt read of a record with its opcode (R447). -/
def execCanvasStop (w : Win) (s : State) : Result :=
  act s fun d => submitAs d w 0x03 (handleCanvasStop w)

/-- A tile has left its seat with none following. -/
def hasLeft (d : Dev) (t : Nat) : Bool :=
  let tl := tileOf d t
  tl.sw == .none && match tl.cur.bind (tfind tl.seats) with
    | some s => s.st == .parked
    | none => true

/-- Every tile has left its seat; the stop and the start complete. -/
def completeDrain (d : Dev) (canvas : Nat) : Dev :=
  match canvasOf d canvas with
    | none => d
    | some c =>
      if c.st == .draining && !d.creset.active && (tilesOf d canvas).all (hasLeft d) then
        let d := completeOpt (completeOpt d c.stopOp stOk) c.startOp stOk
        modCanvas d canvas fun c => { c with st := .stopped, startOp := none, stopOp := none }
      else d

/-! ### Unload -/

/-- The cue acts for a stage of the canvas. -/
def cueOfCanvas (d : Dev) (n : Nat) (c : Cue) : Bool := match c.unit with
  | .tile t => (tileOf d t).canvas == some n
  | _ => false

/-- The unload begins. -/
def beginUnload (d : Dev) (n : Nat) (op : Option Nat) : Dev :=
  discardCues (modCanvas d n fun c => { c with unloadOp := op, unloading := true }) (cueOfCanvas d n)

/-- CANVAS_UNLOAD (R75, R107, R279): its cues go at once; the rest follows its transfers.
DESIGN CHOICE, unsafe (log 29). -/
def handleCanvasUnload (w : Win) : Handler := fun d r op =>
  let n := r.args.getD 0 0
  match canvasOf d n with
  | none => (some stCanvasState, d)
  | some c =>
    if svcOwned w c then (some stSvcOwned, d)
    else if !(c.st == .loaded || c.st == .stopped || c.st == .faulted) || c.unloading then (some stCanvasState, d)
    else (some stOk, beginUnload d n op)

/-- CANVAS_UNLOAD: the receipt read of a record with its opcode (R447). -/
def execCanvasUnload (w : Win) (s : State) : Result :=
  act s fun d => submitAs d w 0x04 (handleCanvasUnload w)

/-- Free everything that a canvas holds (R75), the cues armed since its unload began among it (R107). -/
def freeCanvas (d : Dev) (n : Nat) (c : Canvas) : Dev :=
  let d := discardCues d (cueOfCanvas d n)
  let d := c.pins.foldl (fun d id => freePreserveEntry d id false) (withHue d c.seatHue)
  let d := invalidateAll d fun i k => isTl k && inSpan (1024 * i) c.spillBase c.spillSize
  let d := makeUndef d c.spillBase c.spillSize
  let d := (tilesOf d n).foldl (fun d t => modTile d t fun tl =>
    { tl with canvas := none, seats := [], cur := none, sw := .none, rotArmed := false, rotPast := false, pendingSw := [],
              leaving := false, atBoundary := false }) d
  packPins { d with canvases := tdel d.canvases n, streams := d.streams.filter fun e => e.1 / 65536 ≠ n }

/-- Every transfer that its stages started is done. -/
def completeUnload (d : Dev) (canvas : Nat) : Dev :=
  match canvasOf d canvas with
    | none => d
    | some c =>
      if c.unloading && !d.creset.active && !(d.xfers.any fun x => x.origin == .stage canvas) then
        completeOpt (freeCanvas d canvas c) c.unloadOp stOk
      else d

end Sys2Proof.Machine
end

