-- ==== Sys2Proof/Machine/Sittings.lean ====
section
/-! DEFINITION. Sittings (R77 to R86, R190, R191): the switch of a tile from one seat to the next, and the prefetches
before it. A saved context is held in the seat's own record; the bytes it would take are counted at the slice. -/
namespace Sys2Proof.Machine
open Sys2Proof

/-! ### Falling due -/

/-- A cue of a stage of the tile, due no later than `due`, has still to fire (R105).
DESIGN CHOICE, unsafe (log 31). -/
def stageCueFirst (d : Dev) (t due : Nat) : Bool :=
  (cuesOf d (.tile t)).any fun c => !c.pending && decide (c.due ≤ due)

/-- The rotation cue of a tile, for the count of late cues (R77, R104).
DESIGN CHOICE, unsafe (log 31). -/
def rotationCue (t : Nat) (tl : Tile) : Cue :=
  { unit := .tile t, hue := 0, action := actStepStart, due := tl.nextDue, stage := 0, tag := 0, arg := 0, past := tl.rotPast }

/-- The rotation cue of a tile fires, never before its due time (R77, R83), and behind every stage cue that is due
(R105). -/
def fireRotation (d : Dev) (t : Nat) : Dev :=
  let tl := tileOf d t
  match tl.canvas.bind (canvasOf d) with
  | none => d
  | some c =>
    if c.st == .running && tl.rotArmed && decide (tl.nextDue ≤ unitNow d (.tile t)) && !stageCueFirst d t tl.nextDue then
      let d := modTile (noteFire d (rotationCue t tl)) t fun x =>
        { x with rotArmed := false, pendingSw := [(tl.nextOrder, tl.nextDue)] }
      match curSeat d t with
      | some (_, st) => if st.st == .seated && tl.sw == .none then askSwitch d t else d
      | none => d
    else d

/-- SITTING_SWITCH: the rotation cue of a tile fires. -/
def execSittingSwitch (t : Nat) (s : State) : Result := act s fun d => fireRotation d t

/-- The canvas of a tile runs or drains. -/
def canvasIssues (d : Dev) (t : Nat) : Bool := match (tileOf d t).canvas.bind (canvasOf d) with
  | some c => c.st == .running || c.st == .draining
  | none => false

/-- MIN_SEAT_ELAPSED: MIN_SEAT pace cycles have passed since the seat was seated (R79 step 1). -/
def execMinSeatElapsed (t : Nat) (s : State) : Result :=
  act s fun d => match curSeat d t with
    | none => d
    | some (_, st) =>
      if st.st == .seated && canvasIssues d t && !(tileOf d t).minDone then
        let w := (tileOf d t).sw == .waitMinSeat
        let d := modTile d t fun tl => { tl with minDone := true }
        if w then beginSwitch d t else d
      else d

/-- YIELD_WINDOW_EXPIRES: no boundary came within YIELD; issue stops and the context is mid-step (R79 steps 2, 3). -/
def execYieldWindowExpires (t : Nat) (s : State) : Result :=
  act s fun d => if (tileOf d t).sw == .waitYield then drainTile d t else d

/-! ### Saving -/

/-- A lane at a switch point: an instruction that has not retired is issued again after the restore (R145); waits at
barriers and release lines stay. -/
def switchLane (l : Lane) : Lane := match l.wait with
  | .streamWrite => { l with wait := .ready }
  | .streamRead _ => { l with wait := .ready }
  | .easel => { l with wait := .ready }
  | .easelWait _ => { l with wait := .ready }
  | _ => l

def switchGroup (gr : Group) : Group := { gr with lanes := gr.lanes.map switchLane }

/-- What the live context becomes as it is saved: a boundary context holds no per-lane state (R80). -/
def savedCtx (now : Nat) (mid : Bool) (swap : Mem) (c : Ctx) : Ctx :=
  if mid then { c with mid := true, gen := 1, lanesW := 32, fromTile := none, savedAt := now, swap := swap, groups := tmap (fun _ g => switchGroup g) c.groups }
  else { c with mid := false, gen := 1, lanesW := 32, fromTile := none, savedAt := now, swap := swap, groups := [], barriers := [], vregs := [] }

/-- Writes that a tile's stage holds for credit are dropped; they are issued again (R67, R79 step 6). -/
def dropHeld (d : Dev) (s : Seat) : Dev :=
  match canvasOf d s.canvas with
  | none => d
  | some c => (List.range c.streams.length).foldl (fun d n =>
      match c.streams[n]? with
      | some e =>
        if e.producer = s.stage then
          modStream d s.canvas n fun r => { r with held := r.held.filter fun h => !(h.rank == s.rank) }
        else d
      | none => d) d

/-- SWITCH_POINT: everything issued is done; the save begins (R79 steps 4 to 7, R190). -/
def execSwitchPoint (t : Nat) (s : State) : Result :=
  act s fun d => match curSeat d t with
    | none => d
    | some (k, st) =>
      if (tileOf d t).sw == .draining && st.st == .seated then
        let mid := !(tileOf d t).atBoundary
        let d := dropHeld (cutEasel d t) st
        let lo := st.swapBase * 1024
        let n := st.swapSize * 1024
        let d := sbScrub d t lo n
        let d := grantSeat d t st mid
        let swap := memSlice (tileOf d t).sb lo n
        let d := modCtx d t k fun c => savedCtx d.tb.now mid swap c
        let d := modSeat d t k fun x => { x with st := .saving }
        modTile d t fun tl => { tl with sw := .saving, atBoundary := false }
      else d

/-- SAVE_DONE: the context is stored, the seat is parked and its successor restored, or none when the canvas drains (R86). A
tile that is cut off from the Kreten die loses it, and the canvas faults (R361, R550).
DESIGN CHOICE, unsafe (log 58). -/
def execSaveDone (t : Nat) (s : State) : Result :=
  act s fun d => match curSeat d t with
    | none => d
    | some (k, st) =>
      let r := match canvasOf d st.canvas with
        | some cv => storeImage d cv t { st with saved := none }
        | none => (d, true)
      if !((tileOf d t).sw == .saving && st.st == .saving) then d
      else if cutOff d t then stageFault (loseCut d t 2 0) t 0 stCrcFinal 0 0
      else if !r.2 then r.1
      else
        let d := modSeat r.1 t k fun x => { x with st := .parked, saved := none }
        let tl := tileOf d t
        match tl.leaving, tl.pendingSw with
        | false, (o, _) :: _ => beginRestore d t o
        | _, _ => modTile d t fun tl => { tl with sw := .none, leaving := false, pendingSw := [] }

/-! ### Restoring -/

/-- Vector-unit registers after a boundary context: the image does not hold them, so each is free.
DESIGN CHOICE, safe (log 32). -/
def freeVregs (e : Nat) : Tab Reg32 :=
  (List.range 2048).map fun k => (k, mkReg (Config.openValue 142 (BitVec.ofNat 64 e) (BitVec.ofNat 64 k)).toNat false)

/-- The easel's reloads at a restore (R191): each valid record, an FP32 record for both banks at once. -/
def startReloads (s : Seat) (e : Easel) : Easel :=
  let wide : Bool := match s.hold0.bind fun h => pairInfo h.fmt with
    | some p => p.wide
    | none => false
  { e with reload0 := s.hold0, reload1 := if wide then none else s.hold1, bad0 := false, bad1 := false,
           held0 := [], held1 := [], scales0 := [], scales1 := [] }

/-- The cues of a stage that wait PENDING fire in order of due time, each counted late (R82, R107). -/
def firePending (d : Dev) (t k stage : Nat) : Dev :=
  let cs := sortBy (·.due) ((cuesOf d (.tile t)).filter fun c => c.pending && c.stage == stage)
  cs.foldl (fun d c => modCtx (countLate (removeCue d c) (.tile t) 1) t k fun x => releaseLine x (c.arg.toNat % 16)) d

/-- The rotation cue arms itself for the next due time after a switch (R77); a due time already past fires it at once
(R104). -/
def rearm (d : Dev) (t k due offset : Nat) : Dev :=
  match (tileOf d t).canvas.bind (canvasOf d) with
  | none => d
  | some c =>
    let (o, next) := nextRotation (tileOf d t) c.period (due - offset) k
    let past := decide (next < unitNow d (.tile t))
    let d := modTile d t fun tl => { tl with nextOrder := o, nextDue := next, rotArmed := true, rotPast := past,
                                             pendingSw := [] }
    if past then fireRotation d t else d

/-- Words of a context image that a link has lost for good arrive poisoned (R361): all of them at a tile that is cut off from
the Kreten die (R550). -/
def lostWords (d : Dev) (t : Nat) (ws : List (DWord × Bool)) : Dev × List (DWord × Bool) :=
  if cutOff d t then ((List.range (ceilDiv ws.length 16)).foldl (fun d _ => loseCut d t 1 0) d, ws.map fun w => (w.1, true))
  else
  ((List.range (ceilDiv ws.length 16)).foldl (fun d k => takeLost d (.restore t) k) d,
    ws.mapIdx fun i w => (w.1, w.2 || bitAt (lostMask d (.restore t) (i / 16)) (i % 16)))

/-- The saved context is back on the tile: the swapped region, the reloads of a mid-step context, a fresh step of a
boundary context, and the pending cues of its stage (R82, R145, R191). -/
def restoreSeat (d : Dev) (t k : Nat) (st : Seat) : Dev :=
  let d := grantSeat d t st st.ctx.mid
  let d := modTile d t fun tl => { tl with
    fetch := [], sw := .none, minDone := st.minSeat == 0, atBoundary := false, easel := startReloads st tl.easel,
    sb := memPaste tl.sb (st.swapBase * 1024) (st.swapSize * 1024) st.ctx.swap }
  let d := modSeat d t k fun x => { x with st := .seated, prefetched := false, ctx := st.ctx, saved := some st.ctx }
  let d := if st.ctx.mid then d
    else
      let d := modCtx { d with freeCnt := d.freeCnt + 1 } t k fun c => { c with vregs := freeVregs d.freeCnt }
      modTile (startStep d t k) t fun tl => { tl with easel := { tl.easel with reload0 := none, reload1 := none } }
  firePending d t k st.stage

/-- What a tile does once its seat is restored: leave again, arm its rotation cue, or go on (R77, R86). -/
def resumeSeat (d : Dev) (t k : Nat) (st : Seat) : Dev :=
  let tl := tileOf d t
  match tl.leaving, tl.pendingSw with
  | true, _ => askSwitch d t
  | false, [] => d
  | false, (o, due) :: _ => if o = k then rearm d t k due st.offset else askSwitch d t

/-- The restore of the saved context of a seat ends: its image is read and checked; an image that fails faults the canvas
with the status of the check (R146). While a spilled context has lines to fetch, the restore goes on.
DESIGN CHOICE, unsafe (log 128). -/
def endRestore (d : Dev) (t k : Nat) (st : Seat) (cv : Canvas) : Dev :=
  if seatIntact d t st then resumeSeat (restoreSeat d t k st) t k st
  else match storedImage d cv t st with
  | (_, none) => fetchSpilled d cv t st
  | (d, some ws) =>
    let l := lostWords d t ws
    match contextOf l.1 cv t st l.2 with
    | (d, .error f) => stageFault d t 0 f 0 0
    | (d, .ok x) => resumeSeat (restoreSeat d t k { st with ctx := x }) t k st

/-- RESTORE_DONE: the context is back, its pending cues fire, issue resumes (R82, R86). -/
def execRestoreDone (t : Nat) (s : State) : Result :=
  act s fun d => match curSeat d t with
    | none => d
    | some (k, st) =>
      if !((tileOf d t).sw == .restoring && st.st == .restoring) then d
      else match canvasOf d st.canvas with
        | some cv => endRestore d t k st cv
        | none => d

/-! ### Prefetches before a switch (R84) -/

/-- Prefetch the lines of a cold segment, each by the mover of the rind die of its stack: one prefetch at every mover that
serves any (R84, R275).
DESIGN CHOICE, unsafe (log 30). -/
def prefetchSegment (d : Dev) (g : SegEnt) : Dev :=
  let lines := ((List.range (g.size / 1024)).map (g.addr / 1024 + ·)).filter fun i => backed d (1024 * i) 1024
  (List.range 8).foldl (fun d r =>
    let ls := lines.filter fun i => rindOfStack (hbmLoc d (1024 * i)).stack == r
    if ls.isEmpty || !blkOn d (blkMover r) then d
    else { d with prefetches := d.prefetches ++ [{ rind := r, lines := ls, left := ls, hue := d.hue }] }) d

/-- The due time of the coming switch into a seat, counted on from the switch that is armed or has fallen due. -/
def comingDue (tl : Tile) (period order : Nat) : Option Nat :=
  let from_ : Option (Nat × Nat) := if tl.rotArmed then some (tl.nextOrder, tl.nextDue) else tl.pendingSw.head?
  from_.bind fun x => (tfind tl.seats x.1).bind fun a => (tfind tl.seats order).map fun b =>
    x.2 - a.offset + b.offset + (if order < x.1 then period else 0)

/-- SEAT_PREFETCH_START: LEAD ticks before the due time of the coming switch into seat `order`, whether or not that is the
next switch and whether or not the canvas has reached T0.
DESIGN CHOICE, unsafe (log 30). -/
def execSeatPrefetchStart (t order : Nat) (s : State) : Result :=
  act s fun d =>
    let tl := tileOf d t
    match tfind tl.seats order, tl.canvas.bind (canvasOf d) with
    | some st, some c =>
      if (c.st == .running || c.st == .armed) && st.st == .parked && !st.prefetched
          && (comingDue tl c.period order).any fun due => decide (due ≤ unitNow d (.tile t) + st.lead) then
        let segs := c.segments.filter fun g => g.stage == st.stage && g.place == 2
        let h := (stageOf c st.stage).hue
        let d := segs.foldl prefetchSegment (withHue (modSeat d t order fun x => { x with prefetched := true }) h)
        fetchSpilled d c t st
      else d
    | _, _ => d

end Sys2Proof.Machine
end

