-- ==== Sys2Proof/Machine/Services.lean ====
section
/-! DEFINITION. Autonomous services (R475 to R485): loads, states, the STEP, SERVE and LOOP runtimes. -/
namespace Sys2Proof.Machine
open Sys2Proof

def svcOf (d : Dev) (n : Nat) : Option Svc := tfind d.svcs n
def putSvc (d : Dev) (n : Nat) (v : Svc) : Dev := { d with svcs := tput d.svcs n v }
def modSvc (d : Dev) (n : Nat) (f : Svc → Svc) : Dev := match svcOf d n with
  | some v => putSvc d n (f v)
  | none => d

def svcParam (v : Svc) (i : Nat) : Nat := (v.params.getD i 0).toNat

/-- The canvas that service `n` owns (R483). -/
def ownedBy (d : Dev) (n : Nat) : Option Nat := (d.canvases.find? fun e => e.2.owner == some n).map (·.1)

/-- Ownership is given up. -/
def disown (d : Dev) (n : Nat) : Dev :=
  { d with canvases := tmap (fun _ c => if c.owner == some n then { c with owner := none } else c) d.canvases }

def setSvc (d : Dev) (n : Nat) (st : SvcSt) : Dev := modSvc d n fun v => { v with st := st, stopWait := false }

/-- The service fails with a status (R478). -/
def failSvc (d : Dev) (n : Nat) (st : Half) : Dev :=
  modSvc (disown (setSvc d n .failed) n) n fun v => { v with lastStatus := st }

/-! ### Transfers of the runtime (R477, R481, R482) -/

/-- Bytes as a tensor in device memory. -/
def byteDesc (fmt a n : Nat) : Desc :=
  { rank := 1, fmt := fmt, panel := false, combine := 0, sb := false, x := 0, y := 0, base := a,
    dims := [{ extent := n, stride := 1 }] }

/-- A COPY of `n` bytes; `peerSide` 1 writes to the peer, 2 reads from it.
DESIGN CHOICE, unsafe (log 77). -/
def copyCmd (d : Dev) (peerSide peer src dst n : Nat) : MoverCmd :=
  { op := opCopy, hue := coreHue d, peerSide := peerSide, spent := false, peer := peer, complMode := 0, complScope := 3,
    complSb := false, complX := 0, complY := 0, complAddr := 0, tag := 0, fill := 0, counts := [n], srcOrigin := [0],
    dstOrigin := [0], src := some (byteDesc 0 src n), dst := some (byteDesc 0 dst n) }

/-- The progress word `w` to a reply area, as the runtime read it, with REQ_NO in the word after it (R480).
DESIGN CHOICE, unsafe (log 77). -/
def progressCmd (d : Dev) (peerSide peer dst : Nat) (w : DWord) (reqNo : Nat) : MoverCmd :=
  { copyCmd d peerSide peer 0 dst 4 with
    op := opFill, src := none, srcOrigin := [0], dst := some (byteDesc 0x09 dst 4),
    words := [w.toNat % 2 ^ 32, w.toNat / 2 ^ 32, 0, reqNo] }

/-! ### The command port (R478, R484) -/

/-- A record of the runtime: QUIET, with the service's number as USER.
DESIGN CHOICE, safe (log 76). -/
def portRecord (n opcode : Nat) (args : List Nat) : BitVec 512 :=
  BitVec.ofNat 512 (0x00010101 + (opcode <<< 32) + (1 <<< 40) + (n <<< 64) +
    (args.mapIdx fun i a => a <<< (128 + 64 * i)).foldl (· + ·) 0)

/-- A canvas command of service `n` through its core's command port: the operation it becomes, or the status that turns
it away. -/
def portCommand (d : Dev) (v : Svc) (n opcode : Nat) (args : List Nat) : Dev × Except Half Nat :=
  let w := Win.core v.core
  let d := putWin d w { winOf d w with record := portRecord n opcode args }
  match longCheck d w opcode with
  | some st => (rejectRecord d d w opcode st, .error st)
  | none =>
    let r := acceptOp d w opcode (BitVec.ofNat 64 n) true
    (putReceipt r.1 w (receiptValue stOk opcode 0), .ok r.2.1)

/-- CANVAS_UNLOAD of the canvas that a service has loaded, unless it is on its way out. A canvas whose unload the port
turns away is left loaded, and the service has none.
DESIGN CHOICE, safe (log 76). -/
def portUnload (d : Dev) (n : Nat) (v : Svc) : Dev := match v.canvas, v.canvas.bind (canvasOf d) with
  | some k, some c =>
    if c.unloading then d
    else match portCommand d v n 0x04 [k] with
      | (d, .ok op) => beginUnload d k (some op)
      | (d, .error st) => modSvc d n fun v => { v with lastStatus := st, canvas := none }
  | _, _ => d

/-- The mover of the rind die of the stack that holds an address.
DESIGN CHOICE, unsafe (log 77). -/
def moverFor (d : Dev) (a : Nat) : Nat := rindOfStack (hbmLoc d a).stack

/-- Queue a transfer of the runtime; a status where the mover takes none.
DESIGN CHOICE, unsafe (log 77). -/
def runtimeXfer (d : Dev) (a : Nat) (c : MoverCmd) (o : XferOrigin) : Except Half (Dev × Nat) :=
  let r := moverFor d a
  if !blkAccepts d (blkMover r) then .error stBlockGated
  else if queueUsed d r ≥ 256 then .error stMoverFull
  else if c.peerSide ≠ 0 && c.peer == regField d .xrCfg [] 15 0 then .error stMoverField
  else .ok (addXfer d r .queued c o)

/-! ### Requests of a SERVE service (R480) -/

def serveEntry (v : Svc) (i : Nat) : Nat := svcParam v 0 + i * bits (svcParam v 1) 63 32
def serveCount (v : Svc) : Nat := bits (svcParam v 1) 31 0
def resultOff (v : Svc) : Nat := bits (svcParam v 2) 31 0
def listLen (v : Svc) : Nat := bits (svcParam v 4) 15 0
def admitLimit (v : Svc) : Nat := bits (svcParam v 4) 31 16

/-- A read of 64-bit words by the service's core; `none` while it waits or where a word is poisoned. -/
def svcRead (d : Dev) (v : Svc) (a n : Nat) : Dev × Option (List Byte) :=
  if !backed d a n then (d, none)
  else
    let r := devRead (withHue d (coreHue d)) (.core v.core) a n
    (r.1, r.2.bind fun x => if x.2 then none else some x.1)

/-- A write by the service's core, performed now or as soon as the line's host copy is back. -/
def svcWrite (d : Dev) (v : Svc) (a : Nat) (bs : List Byte) : Dev :=
  access (withHue d (coreHue d)) { agent := .core v.core, addr := a, kind := .write bs false }

/-- STATE of an entry becomes DONE; it counts. -/
def finishEntry (d : Dev) (n : Nat) (v : Svc) (i : Nat) : Dev :=
  modSvc (svcWrite d v (serveEntry v i) [3]) n fun v =>
    { v with admitted := v.admitted.filter (fun e => !(e.1 == i)), ending := v.ending.filter (fun e => !(e.1 == i)),
             done := (v.done + 1) % 2 ^ 64 }

/-- Reply device and address of an entry's word 0x08. -/
def replyOf (w : Nat) : Nat × Nat := (bits w 63 48, bits w 47 0)

/-- A reply area is 64 B aligned, and backed where it lies in this device. -/
def replyOk (d : Dev) (w : Nat) : Bool :=
  let (dev, a) := replyOf w
  a % 64 == 0 && (dev != regField d .xrCfg [] 15 0 || backed d a 64)

def progressWord (final : Bool) (st : Half) (bytes : Nat) : DWord :=
  BitVec.ofNat 64 ((final.toNat <<< 63) + (st.toNat <<< 32) + bytes % 2 ^ 32)

/-- PEER_SIDE toward a reply device. -/
def replySide (d : Dev) (dev : Nat) : Nat := if dev = regField d .xrCfg [] 15 0 then 0 else 1

/-- Every request in flight is to end with a status (R478): its entry becomes DONE when its last progress word is
delivered. -/
def endRequests (d : Dev) (n : Nat) (st : Half) : Dev :=
  modSvc d n fun v => { v with deliver := none, admitted := [], ending := v.ending ++ v.admitted.map fun e => (e.1, st, e.2) }

/-! ### Releases (R479) -/

/-- The lowest tag that no cue of the stage on a tile holds.
DESIGN CHOICE, unsafe (log 77). -/
def freeTag (d : Dev) (t stage : Nat) : Nat :=
  ((List.range 65).find? fun n => (cuesOf d (.tile t)).all fun c => !(c.stage == stage && c.tag == n)).getD 65

/-- Arm one STEP_START. -/
def armStep (d : Dev) (t stage hue due line : Nat) : Dev × Half :=
  let w0 := 0x0203 + (1 <<< 16) + (actStepStart <<< 32) + (hue <<< 48)
  let w2 := ((t % 16) <<< 40) + ((t / 16) <<< 32) + (freeTag d t stage <<< 16) + stage
  let r := storeCue d { w0 := w0, w1 := due % 2 ^ 64, w2 := w2, w3 := line }
  let st := r.2.getD stOk
  (if st = stOk then (r.1.cues.getLast?).elim r.1 fun c => if c.past then fireStep r.1 t c else r.1 else r.1, st)

/-- Release a step: each named line, of every stage, on every tile that seats it.
DESIGN CHOICE, unsafe (log 78). -/
def releaseStep (d : Dev) (n : Nat) (c : Canvas) (due lines : Nat) : Dev :=
  c.seats.foldl (fun d e => (bitList 16 lines).foldl (fun d l =>
    let (d, st) := armStep d (seatTile e) e.stage (c.stages.getD e.stage ⟨1, 1, 0, 64, 0, 0, 0, 1, 0, 0, 0⟩).hue due l
    if st = stOk then d else modSvc d n fun v => { v with lastStatus := st }) d) d

/-- Release lines of a service. -/
def svcLines (v : Svc) : Nat := if v.kind = 2 then bits (svcParam v 5) 15 0 else bits (svcParam v 1) 15 0

def countStep (v : Svc) : Svc := { v with done := (v.done + 1) % 2 ^ 64 }

/-- A LOOP releases step `k`.
DESIGN CHOICE, unsafe (log 78). -/
def loopRelease (d : Dev) (n k due : Nat) : Dev :=
  match svcOf d n, ownedBy d n with
  | some v, some c => match canvasOf d c with
    | some x => modSvc (releaseStep d n x due (svcLines v)) n fun v => { countStep v with step := k, ckptOn := false }
    | none => d
  | _, _ => d

/-! ### Loads (R477) -/

/-- A load ends without its data: the service fails, or goes on to stop. -/
def loadStops (d : Dev) (n : Nat) (st : Half) : Dev :=
  match svcOf d n with
  | none => d
  | some v => if v.st == .stopping then modSvc d n fun v => { v with stopWait := false, lastStatus := st } else failSvc d n st

/-- Begin the load that stands next: a PEER load queues its transfer.
DESIGN CHOICE, unsafe (log 77). -/
def beginLoad (d : Dev) (n : Nat) : Dev :=
  match svcOf d n with
  | none => d
  | some v => match v.loads[v.loadIx]? with
    | some e =>
      if e.src ≠ 1 then d
      else match runtimeXfer d e.dstAddr (copyCmd d 2 e.peer e.srcAddr e.dstAddr e.size) (.service n) with
        | .ok (d, id) => modSvc d n fun v => { v with xfer := id }
        | .error st => loadStops d n st
    | none => d

/-- The service begins its loads. -/
def startLoads (d : Dev) (n : Nat) : Dev := beginLoad (modSvc (setSvc d n .loading) n fun v => { v with loadIx := 0 }) n

/-- The service goes to its canvas with no load to run. -/
def skipLoads (d : Dev) (n : Nat) : Dev := modSvc (setSvc d n .starting) n fun v => { v with loadIx := v.loads.length }

/-- CANVAS_LOAD of IMAGE for a service in STARTING; a read that waits is repeated. -/
def loadImage (d : Dev) (n : Nat) (v : Svc) : Dev :=
  if !backed d v.image v.imageSize then failSvc d n stUnbacked
  else match readWhole (withHue d (coreHue d)) (.core v.core) v.image v.imageSize with
  | (d, none) => d
  | (d, some (l, p)) => match portCommand d v n 0x01 [v.image, v.imageSize] with
    | (d, .error st) => failSvc d n st
    | (d, .ok op) => match poisonVerdict d p with
      | (some st, d) => failSvc (complete d op st) n st
      | (none, d) => match loadCanvas d l v.imageSize (some op) with
        | .error st => failSvc (complete d op st) n st
        | .ok (d, c) => modSvc (modCanvas d c fun x => { x with owner := some n }) n fun v => { v with canvas := some c }

/-! ### The state table (R478) -/

/-- CANVAS_START of the service's canvas. A LOOP releases its first step with it, or after a restart the step that was in
progress.
DESIGN CHOICE, unsafe (log 78). -/
def startSvc (d : Dev) (n : Nat) (v : Svc) (c : Nat) : Dev :=
  let t0 := (d.tb.now + v.t0Delay) % 2 ^ 64
  match portCommand d v n 0x02 [c, t0] with
  | (d, .error st) => failSvc d n st
  | (d, .ok op) =>
    let d := modSvc (setSvc (armCanvas d c t0 (some op)) n .running) n fun v => { v with ptr := 0 }
    if v.kind = 3 then loopRelease d n (max v.step 1) t0 else d

/-- CANVAS_STOP of the service's canvas. -/
def stopSvc (d : Dev) (n : Nat) (v : Svc) (c : Nat) : Dev :=
  match portCommand d v n 0x03 [c] with
  | (d, .error st) => modSvc d n fun v => { v with lastStatus := st }
  | (d, .ok op) => beginDrain (modCanvas d c fun x => { x with stopOp := some op }) c

/-- A request or step still keeps a stopping service's canvas. -/
def svcBusy (v : Svc) : Bool := v.stopWait || !v.admitted.isEmpty || !v.ending.isEmpty

/-- One move of a service that needs no event of its own. -/
def moveSvc (d : Dev) (n : Nat) : Dev :=
  match svcOf d n with
  | none => d
  | some v => match v.st with
    | .waiting =>
      let ready : Bool := match v.depends with
        | none => true
        | some m => (svcOf d m).any fun u => u.st == .running
      if ready then startLoads d n else d
    | .loading => if v.loads.length ≤ v.loadIx then setSvc d n .starting else d
    | .starting =>
      if d.creset.active then d
      else match v.canvas.bind (canvasOf d) with
        | none => loadImage d n v
        | some c => if (c.st == .loaded || c.st == .stopped) && !c.unloading then startSvc d n v (v.canvas.getD 0) else d
    | .stopping =>
      if svcBusy v then d
      else match v.canvas.bind (canvasOf d) with
        | none => disown (setSvc d n .stopped) n
        | some c =>
          if c.st == .running then stopSvc d n v (v.canvas.getD 0)
          else if c.st == .faulted then
            modSvc (disown (setSvc d n .stopped) n) n fun v => { v with lastStatus := c.faultSt }
          else if c.st == .stopped || c.st == .loaded || c.unloading then disown (setSvc d n .stopped) n
          else d
    | _ => d

/-- Services move as far as they can. -/
def moveSvcs (d : Dev) : Dev :=
  iter (fun d => (d.svcs.map (·.1)).foldl moveSvc d) 4 d

/-! ### Canvas events that services follow -/

/-- CANVAS_LOAD_COMPLETE. -/
def execCanvasLoadComplete (canvas : Nat) (s : State) : Result := act s fun d => moveSvcs (completeLoad d canvas)

/-- CANVAS_BEGIN_ISSUE. -/
def execCanvasBeginIssue (canvas : Nat) (s : State) : Result := act s fun d => moveSvcs (beginIssue d canvas)

/-- CANVAS_DRAINED. -/
def execCanvasDrained (canvas : Nat) (s : State) : Result := act s fun d => moveSvcs (completeDrain d canvas)

/-- A canvas that is gone is no service's any more. -/
def forgetCanvas (d : Dev) : Dev :=
  { d with svcs := tmap (fun _ v => match v.canvas with
      | some c => if (canvasOf d c).isNone then { v with canvas := none } else v
      | none => v) d.svcs }

/-- CANVAS_UNLOAD_COMPLETE. -/
def execCanvasUnloadComplete (canvas : Nat) (s : State) : Result :=
  act s fun d => moveSvcs (forgetCanvas (completeUnload d canvas))

/-- SERVICE_CANVAS_FAULTED (R478). -/
def execServiceCanvasFaulted (n : Nat) (s : State) : Result :=
  act s fun d => match svcOf d n with
    | none => d
    | some v => match v.canvas.bind (canvasOf d) with
      | some c =>
        if c.st != .faulted || c.unloading || c.owner != some n then d
        else if v.st == .running then
          let d := portUnload (endRequests d n c.faultSt) n v
          if v.used < v.restarts then
            moveSvcs (modSvc (setSvc d n .starting) n fun v => { v with used := v.used + 1, lastStatus := c.faultSt })
          else failSvc d n c.faultSt
        else if v.st == .stopping then moveSvcs (modSvc (endRequests d n c.faultSt) n fun v => { v with stopWait := false })
        else d
      | none => d

/-! ### Loads end -/

/-- The load in progress is done: the next begins. A STOP lets them all finish (R478). -/
def loadDone (d : Dev) (n : Nat) : Dev :=
  let d := beginLoad (modSvc d n fun v => { v with loadIx := v.loadIx + 1 }) n
  moveSvcs (modSvc d n fun v => if v.loads.length ≤ v.loadIx then { v with stopWait := false } else v)

/-- A load ends without its data. -/
def loadFailed (d : Dev) (n : Nat) (st : Half) : Dev := moveSvcs (loadStops d n st)

/-- The load that a service has in progress. -/
def loading (v : Svc) : Option LoadEnt :=
  if v.st == .loading || (v.st == .stopping && v.stopWait) then v.loads[v.loadIx]? else none

/-- SERVICE_LOAD_DONE (R477): the copy from the flash is made (`ok` where the flash answers), or the transfer from the
peer has ended. -/
def execServiceLoadDone (n : Nat) (ok : Bool) (s : State) : Result :=
  act s fun d => match svcOf d n with
    | none => d
    | some v => match loading v with
      | none => d
      | some e =>
        if e.src = 0 then
          if !ok || !d.flashOk then loadFailed d n stNvm
          else if !backed d e.dstAddr e.size then loadFailed d n stUnbacked
          else match devWrite (withHue d (coreHue d)) (.core v.core) e.dstAddr (nvmBytes d e.srcAddr e.size) with
            | (d, true) => loadDone d n
            | (d, false) => d
        else if e.src = 1 then
          match v.xferEnd with
          | some (id, st) => if id ≠ v.xfer then d else if st = stOk then loadDone d n else loadFailed d n st
          | none => d
        else d

/-- WAIT_POLL (R477). -/
def execWaitPoll (n : Nat) (s : State) : Result :=
  act s fun d => match svcOf d n with
    | none => d
    | some v => match loading v with
      | none => d
      | some e =>
        if e.src ≠ 2 then d
        else match svcRead d v e.srcAddr 8 with
          | (d, some l) => if leNat l = e.size then loadDone d n else d
          | (d, none) => if backed d e.srcAddr 8 then d else loadFailed d n stUnbacked

/-! ### SVC_CTL (R478, R485) -/

/-- A restart is pending: STARTING after a fault. -/
def restartPending (v : Svc) : Bool := v.st == .starting && decide (v.used > 0)

/-- START by state; `none` where R478 lists none. From STOPPED without RELOAD a canvas that is no longer STOPPED is left
as it is and IMAGE loaded.
DESIGN CHOICE, unsafe (log 75). -/
def svcStart (d : Dev) (n : Nat) (v : Svc) (reload : Bool) : Option Dev :=
  let d := modSvc d n fun v => { v with used := 0, step := 0, stopWait := false }
  if v.st == .stopped && !reload then
    let stopped := (v.canvas.bind (canvasOf d)).any fun c => c.st == .stopped && !c.unloading
    let d := if stopped then modCanvas d (v.canvas.getD 0) fun c => { c with owner := some n }
      else modSvc d n fun v => { v with canvas := none }
    some (moveSvcs (skipLoads d n))
  else if v.st == .stopped || v.st == .failed || v.st == .disabled then
    let d := portUnload d n v
    some (moveSvcs (if reload then startLoads d n else skipLoads d n))
  else none

/-- STOP by state.
DESIGN CHOICE, unsafe (log 75). -/
def svcStop (d : Dev) (n : Nat) (v : Svc) : Option Dev :=
  let go (wait_ : Bool) : Dev := moveSvcs (modSvc (setSvc d n .stopping) n fun v => { v with stopWait := wait_ })
  if v.st == .waiting then some (go false)
  else if v.st == .loading then some (go (decide (v.loadIx < v.loads.length)))
  else if v.st == .running then some (go (v.kind == 3))
  else if restartPending v then some (go false)
  else none

/-- The rule of SVC_CTL. A service without a usable manifest entry, and any service while no firmware runs, takes
neither. -/
def writeSvcCtl (d : Dev) (r : Req) (off bytes : Nat) (v : DWord) : Dev :=
  withWrite d r off bytes v fun d t ix mask val =>
    let n := ix.headD 0
    let stop := bitAt val 0
    let start := bitAt val 1
    let reload := bitAt val 2
    if (start && stop) || (reload && !start && !stop) then discard d r stSvcField t ix mask
    else if !start && !stop then d
    else
      let x := if !d.fw.running then none
        else (svcOf d n).bind fun v => if start then svcStart d n v reload else svcStop d n v
      x.getD (discard d r stSvcState t ix mask)

/-- SVC_START: a write with START set. -/
def execSvcStart (r : Req) (n off bytes : Nat) (v : DWord) (s : State) : Result :=
  act s fun d => if n < 16 && off == regOff .svcCtl [n] && bitAt v.toNat 1 then writeSvcCtl d r off bytes v else d

/-- SVC_STOP: a write with STOP set. -/
def execSvcStop (r : Req) (n off bytes : Nat) (v : DWord) (s : State) : Result :=
  act s fun d => if n < 16 && off == regOff .svcCtl [n] && bitAt v.toNat 0 then writeSvcCtl d r off bytes v else d

/-! ### STEP (R479) -/

/-- STEP_RELEASE: the period elapses; a SERVE releases a step while any entry is ADMITTED. -/
def execStepRelease (n : Nat) (s : State) : Result :=
  act s fun d => match svcOf d n, (ownedBy d n).bind (canvasOf d) with
    | some v, some c =>
      if c.st != .running || d.creset.active then d
      else if v.kind = 1 && v.st == .running then modSvc (releaseStep d n c d.tb.now (svcLines v)) n countStep
      else if v.kind = 2 && !v.admitted.isEmpty then releaseStep d n c d.tb.now (svcLines v)
      else d
    | _, _ => d

/-! ### SERVE (R481) -/

/-- One entry of the scan; `none` stops the scan for this poll. A request whose LEN or REPLY is invalid is to end.
DESIGN CHOICE, unsafe (log 77). -/
def scanEntry (n cons : Nat) (acc : Option (Dev × Nat)) (i : Nat) : Option (Dev × Nat) :=
  acc.bind fun (d, prod) => match svcOf d n with
    | none => none
    | some v =>
      let a := serveEntry v i
      match svcRead d v a 24 with
      | (d, none) => some (d, prod)
      | (d, some l) =>
        if leAt l 0 1 ≠ 1 || (v.ending.any fun e => e.1 == i) || v.admitted.length ≥ admitLimit v ||
            (prod + 2 ^ 64 - cons) % 2 ^ 64 ≥ listLen v then some (d, prod)
        else if leAt l 16 4 + 0x40 > resultOff v || !replyOk d (leAt l 8 8) then
          some (modSvc d n fun v => { v with ending := v.ending ++ [(i, stSvcField, 0)] }, prod)
        else
          let list := svcParam v 3
          let d := svcWrite d v a [2]
          let d := svcWrite d v (list + 16 + 4 * (prod % listLen v)) (leBytes 4 i)
          let d := svcWrite d v list (leBytes 8 (prod + 1))
          some (modSvc d n fun v => { v with admitted := v.admitted ++ [(i, 0)], ptr := (i + 1) % serveCount v }, (prod + 1) % 2 ^ 64)

/-- Admission. -/
def admitEntries (d : Dev) (n : Nat) (v : Svc) : Dev :=
  match svcRead d v (svcParam v 3) 16 with
  | (d, none) => d
  | (d, some l) =>
    let count := serveCount v
    match ((List.range count).map fun k => (v.ptr + k) % count).foldl (scanEntry n (leAt l 8 8)) (some (d, leAt l 0 8)) with
    | some (d, _) => d
    | none => d

/-- Begin the delivery of an entry: its new result bytes, or its progress word where there are none. A reply area that is
not 64 B aligned is taken at the place below.
DESIGN CHOICE, unsafe (log 77). -/
def beginDelivery (d : Dev) (n : Nat) (v : Svc) (x : Delivery) (delivered reply : Nat) : Except Half Dev :=
  let (dev, a0) := replyOf reply
  let a := a0 / 64 * 64
  let side := replySide d dev
  let peer := if side = 0 then 0 else dev
  let e := serveEntry v x.entry
  let len := x.upTo - delivered
  let r := if x.progress || len = 0 then
      (runtimeXfer d e (progressCmd d side peer a x.word x.reqNo) (.service n)).map fun y => (y, true)
    else
      (runtimeXfer d e (copyCmd d side peer (e + resultOff v + delivered) (a + 64 + delivered) len) (.service n)).map
        fun y => (y, false)
  r.map fun y => modSvc y.1.1 n fun v => { v with xfer := y.1.2, deliver := some { x with progress := y.2 } }

/-- An entry whose reply cannot be reached becomes DONE (R481). -/
def dropEntry (d : Dev) (n : Nat) (v : Svc) (i : Nat) (st : Half) : Dev :=
  modSvc (finishEntry (logErr d st ukCore v.core 2) n v i) n fun v => { v with deliver := none, lastStatus := st }

/-- Take up an entry whose BYTES or FINAL changed. -/
def tryEntry (n : Nat) (d : Dev) (e : Nat × Nat) : Dev :=
  match svcOf d n with
  | none => d
  | some v =>
    if v.deliver.isSome then d
    else match svcRead d v (serveEntry v e.1) 32 with
      | (d, none) => d
      | (d, some l) =>
        let w := leAt l 24 8
        if bits w 31 0 = e.2 && !bitAt w 63 then d
        else match beginDelivery d n v { entry := e.1, upTo := bits w 31 0, word := BitVec.ofNat 64 w, reqNo := leAt l 4 4, progress := false }
            e.2 (leAt l 8 8) with
          | .ok d => d
          | .error st => if st = stMoverFull then d else dropEntry d n v e.1 st

/-- Take up an entry that the runtime ends: its last progress word; where its words cannot be read it is DONE without. -/
def tryEnding (n : Nat) (d : Dev) (e : Nat × Half × Nat) : Dev :=
  match svcOf d n with
  | none => d
  | some v =>
    let a := serveEntry v e.1
    if v.deliver.isSome then d
    else if !backed d a 16 then dropEntry d n v e.1 stUnbacked
    else match devRead (withHue d (coreHue d)) (.core v.core) a 16 with
      | (d, none) => d
      | (d, some (_, true)) => dropEntry d n v e.1 stPoison
      | (d, some (l, false)) =>
        let x : Delivery := { entry := e.1, upTo := e.2.2, word := progressWord true e.2.1 e.2.2, reqNo := leAt l 4 4, progress := true }
        match beginDelivery d n v x e.2.2 (leAt l 8 8) with
        | .ok d => d
        | .error st => if st = stMoverFull then d else dropEntry d n v e.1 st

/-- The delivery in progress has ended: the progress word follows the data; with FINAL the entry is DONE. -/
def endDelivery (d : Dev) (n : Nat) (v : Svc) : Dev :=
  match v.deliver, v.xferEnd with
  | some x, some (id, st) =>
    if id ≠ v.xfer then d
    else if st ≠ stOk then dropEntry d n v x.entry st
    else if !x.progress then
      match svcRead d v (serveEntry v x.entry + 8) 8 with
      | (d, none) => d
      | (d, some l) => match beginDelivery d n v { x with progress := true } x.upTo (leNat l) with
        | .ok d => d
        | .error st => if st = stMoverFull then d else dropEntry d n v x.entry st
    else
      let d := modSvc d n fun v => { v with
        deliver := none, admitted := v.admitted.filter (fun e => !(e.1 == x.entry)) ++ [(x.entry, x.upTo)] }
      if bitAt x.word.toNat 63 then finishEntry d n v x.entry else d
  | _, _ => d

/-- SERVE_POLL: every 2 µs (R481). Requests that the runtime ends are delivered in every state of the service. -/
def execServePoll (n : Nat) (s : State) : Result :=
  act s fun d => match svcOf d n with
    | none => d
    | some v =>
      if v.kind ≠ 2 || d.creset.active then d
      else
        let d := if v.st == .running then admitEntries d n v else d
        let d := (svcOf d n).elim d (endDelivery d n)
        let d := (svcOf d n).elim d fun v => v.ending.foldl (tryEnding n) d
        let d := (svcOf d n).elim d fun v => v.admitted.foldl (tryEntry n) d
        moveSvcs d

/-! ### LOOP (R482) -/

/-- A LOOP goes on after step `v.step`: to its end, or to the next step.
DESIGN CHOICE, unsafe (log 78). -/
def loopNext (d : Dev) (n : Nat) (v : Svc) : Dev :=
  if v.st == .stopping then moveSvcs (modSvc d n fun v => { v with stopWait := false, ckptOn := false })
  else if svcParam v 0 ≠ 0 && v.step ≥ svcParam v 0 then
    moveSvcs (modSvc (setSvc d n .stopping) n fun v => { v with ckptOn := false })
  else loopRelease d n (v.step + 1) ((d.tb.now + svcParam v 6) % 2 ^ 64)

/-- Submit one checkpoint command; one that is refused leaves its status.
DESIGN CHOICE, unsafe (log 75). -/
def submitCheckpoint (n : Nat) (v : Svc) (d : Dev) (i : Nat) : Dev :=
  let note (d : Dev) (st : Half) : Dev := modSvc d n fun v => { v with lastStatus := st }
  match svcRead d v (svcParam v 4 + 8 * i) 8 with
  | (d, none) => note d stUnbacked
  | (d, some l) => match submitMover d (moverFor d (leNat l)) (leNat l) (.service n) none none .queued with
    | (d, some (st, _)) => if st = stOk then d else note d st
    | (d, none) => note d stUnbacked

/-- A read of the checkpoint list or of a command must wait for the host. -/
def checkpointWaits (d : Dev) (v : Svc) (k : Nat) : Bool :=
  (devRead d (.core v.core) (svcParam v 4) (8 * k)).2.isNone ||
    (List.range k).any fun i =>
      let a := leNat (peekBytes d (.core v.core) (svcParam v 4 + 8 * i) 8)
      backed d a 512 && (devRead d (.mover (moverFor d a)) a 512).2.isNone

/-- LOOP_STEP_DONE: the step counter has reached the step released last. -/
def execLoopStepDone (n : Nat) (s : State) : Result :=
  act s fun d => match svcOf d n with
    | none => d
    | some v =>
      if v.kind ≠ 3 || v.ckptOn || !(v.st == .running || (v.st == .stopping && v.stopWait)) || d.creset.active then d
      else match svcRead d v (svcParam v 2) 8 with
        | (d, none) => d
        | (d, some l) =>
          if leNat l < v.step then d
          else
            let k := bits (svcParam v 5) 7 0
            if svcParam v 3 ≠ 0 && v.step % svcParam v 3 = 0 then
              if checkpointWaits d v k then (readWhole d (.core v.core) (svcParam v 4) (8 * k)).1
              else modSvc ((List.range k).foldl (submitCheckpoint n v) d) n fun v => { v with ckptOn := true }
            else loopNext d n v

/-- LOOP_CHECKPOINT_DONE: every checkpoint command has completed. -/
def execLoopCheckpointDone (n : Nat) (s : State) : Result :=
  act s fun d => match svcOf d n with
    | none => d
    | some v => if v.ckptOn && !(d.xfers.any fun x => x.origin == .service n) then loopNext d n v else d

/-! ### Compute reset (R478) and registers -/

/-- Services after a compute reset. -/
def resetSvc (d : Dev) (n : Nat) : Dev :=
  match svcOf d n with
  | none => d
  | some v => match v.st with
    | .starting => setSvc (endRequests d n stSvcReset) n .starting
    | .running => setSvc (endRequests d n stSvcReset) n .starting
    | .stopping => setSvc (endRequests d n stSvcReset) n .stopped
    | _ => d

def svcStCode : SvcSt → Nat
  | .disabled => 0
  | .waiting => 1
  | .loading => 2
  | .starting => 3
  | .running => 4
  | .stopping => 5
  | .stopped => 6
  | .failed => 7

/-- SVC_STATUS (R485). -/
def svcStatusWord (d : Dev) (n : Nat) : Nat :=
  match svcOf d n with
  | none => 0xFF <<< 32
  | some v => (v.lastStatus.toNat <<< 48) + ((v.used % 256) <<< 40) + ((ownedBy d n).getD 0xFF <<< 32) +
      ((v.admitted.length % 2 ^ 17) <<< 8) + svcStCode v.st

end Sys2Proof.Machine
end

