-- ==== Sys2Proof/Machine/Resets.lean ====
section
/-! DEFINITION. Resets (R463, R543 to R547, R553 to R557): the compute reset, the host port reset from the host's side,
and the cold reset. -/
namespace Sys2Proof.Machine
open Sys2Proof

/-! ### Cold reset (R553, R554) -/

/-- Everything but THERM_SHUT, the flash and its counters goes; the supplies, the reset input and what was already put out are not the
device's to reset.
DESIGN CHOICE, safe (log 95). -/
def coldReset (d : Dev) : Dev :=
  { regs := d.regs.filter (fun e => e.1 == regOff .thermShut []), nvm := d.nvm, pgLow := d.pgLow, rstHigh := d.rstHigh,
    thermTrip := d.thermTrip, fw := { svnFloor := d.fw.svnFloor, storeCnt := d.fw.storeCnt }, out := d.out, freeCnt := d.freeCnt, undefCnt := d.undefCnt }

/-! ### The tile map (R543 to R545) -/

/-- Columns of a row that hold a logical tile, in order. -/
def goodCols (d : Dev) (y : Nat) : List Nat := (List.range 17).filter fun c => !bitAt (tget 0 d.defects y) c

/-- Physical column of logical tile `t`; `none` where it is absent. -/
def tileCol (d : Dev) (t : Nat) : Option Nat := if d.noTiles then none else (goodCols d (t / 16))[t % 16]?

/-- Tiles and TILE_MAPy take what D(y) gives. -/
def buildTileMap (d : Dev) : Dev :=
  let d := (List.range 256).foldl (fun d t => modTile d t fun tl =>
    { tl with physCol := (tileCol d t).getD 0x1F, present := (tileCol d t).isSome }) d
  let d := (List.range 16).foldl (fun d y =>
    regPut d .tileMap [y] (((if d.noTiles then 0 else min 16 (goodCols d y).length) <<< 32) + tget 0 d.defects y)) d
  regSetField d .capDevice [] 24 16 ((List.range 256).filter fun t => (tileOf d t).present).length

/-- Slices in service (R615). -/
def countSlices (d : Dev) : Dev :=
  regSetField d .capMemory [] 56 48 ((List.range 256).filter fun s => !(sliceOf d s).out).length

/-- A column joins D(y) and the field repair log (R543). -/
def addDefect (d : Dev) (phys : Nat) : Dev :=
  let y := phys / 17
  let c := phys % 17
  let m := tget 0 d.defects y
  if y ≥ 16 || bitAt m c then d else repairRecord { d with defects := tput d.defects y (m + 2 ^ c) } [1, 0, c, y]

/-- A tile as reset leaves it: its generators seeded. -/
def freshTile (lo hi : DWord) (t : Nat) (tl : Tile) : Tile :=
  { gens := seedGens lo hi t, physCol := tl.physCol, present := tl.present }

/-- The entropy source can seed tiles; else seeds are zero, with ST_ENTROPY_FAIL (R245, R507).
DESIGN CHOICE, safe (log 40). -/
def seedable (d : Dev) : Bool := !d.entropy.failed && blkServes d blkEntropy

/-- A reset of tiles waits: the start-up test holds the source's output back (R234, R245).
DESIGN CHOICE, safe (log 40). -/
def seedsWait (d : Dev) : Bool := seedable d && d.entropy.startup

/-- A 128-bit seed from the entropy source: the next 128 pooled bits; where the pool holds fewer, what the source goes on
to make, which the command gives or, where it does not, a free value.
DESIGN CHOICE, safe (log 40). -/
def takeSeed (seeds : List (DWord × DWord)) (d : Dev) (t : Nat) : (DWord × DWord) × Dev :=
  let p := d.entropy.pool
  if p.length ≥ 16 then
    ((BitVec.ofNat 64 (leAt p 0 8), BitVec.ofNat 64 (leAt p 8 8)), modEntropy d fun e => { e with pool := e.pool.drop 16 })
  else match seeds[t]? with
    | some s => (s, d)
    | none =>
      let (a, d) := drawNat d
      let (b, d) := drawNat d
      ((BitVec.ofNat 64 a, BitVec.ofNat 64 b), d)

/-- A tile is reset and its generators seeded (R245).
DESIGN CHOICE, safe (log 40). -/
def resetTile (seeds : List (DWord × DWord)) (d : Dev) (t : Nat) : Dev :=
  let (s, d) := if seedable d then takeSeed seeds d t else ((0, 0), logErr d stEntropyFail ukTile t 3)
  latchKeep (modTile d t (freshTile s.1 s.2 t)) t

/-- Registers of a tile that its reset clears (R201 to R203, R233, R254, R401, R625).
DESIGN CHOICE, unsafe (log 74). -/
def tileResetRegs : List RegId :=
  [.easelRows, .easelIdle, .gateOpens, .arithEvents, .randEvents, .tileEvents, .hueBytesTile, .hueDemotedTile]

/-! ### Slices (R546, R547) -/

/-- Pending repairs of a slice take effect. -/
def repairSlice (d : Dev) (s : Nat) : Dev :=
  let sl := sliceOf d s
  let bad := sl.pendBanks.foldl (fun l b => nadd b l) sl.badBanks
  let third := decide (bad.length ≥ 3)
  let d := if third && !sl.pendOut && !sl.out then repairRecord d [4, 0, s % 256, s / 256] else d
  let d := putSlice d s { sl with badBanks := bad, pendBanks := [], out := sl.out || sl.pendOut || third, pendOut := false }
  let d := if (vportOf d s 0).waiting.isEmpty then d else swapWaiting d s 0
  if (vportOf d s 1).waiting.isEmpty then d else swapWaiting d s 1

/-- Slices that no slice serves are logged as that befalls them. -/
def logUnmappable (before d : Dev) : Dev :=
  (d.slices.map (·.1)).foldl (fun d s =>
    if (servingSlice d s).isNone && (servingSlice before s).isSome then logErr d stKrUnmappable ukSlice s 3 else d) d

/-- A slice whose map-out comes with the next reset. -/
def goingOut (sl : Slice) : Bool :=
  !sl.out && (sl.pendOut || decide ((sl.pendBanks.foldl (fun l b => nadd b l) sl.badBanks).length ≥ 3))

/-! ### Compute reset (R555) -/

/-- Step 1: the reset is accepted, and wakes the device from deep (R505), or joins the one in progress (R556).
DESIGN CHOICE, unsafe (log 96). -/
def startReset (d : Dev) (wb : Bool) (op : Option Nat) (thenPort : Bool) : Dev :=
  let c := d.creset
  if c.active then
    { d with creset := { c with writeback := c.writeback || (wb && decide (c.phase < 4)), ops := c.ops ++ op.toList,
                                thenPort := c.thenPort || thenPort } }
  else { leaveDeep d with creset := { active := true, phase := 1, writeback := wb, ops := op.toList, thenPort := thenPort } }

def setPhase (d : Dev) (n : Nat) : Dev := { d with creset := { d.creset with phase := n } }

/-- A tile's access that waits for the host. -/
def tileAccessWaits (d : Dev) : Bool := d.accesses.any fun a => match a.agent with
  | .tile _ => true
  | _ => false

/-- End a transfer that names a stage buffer (R279). -/
def abortXfer (d : Dev) (x : Transfer) : Dev :=
  let d := { d with requests := d.requests.filter fun q => q.xfer != x.id }
  if x.cmd.complMode ≠ 0 && x.cmd.complSb then freeXfer d x stMoverAborted
  else
    let place := if x.st == .queued then (freePlace d x.rind).getD 16 else x.place
    let x := { x with st := .failing, status := stMoverAborted, place := place, waiting := 0 }
    endXfer { d with xfers := lmod (fun y => y.id == x.id) (fun _ => x) d.xfers } x stMoverAborted

/-- Step 3. -/
def abortXfers (d : Dev) : Dev :=
  (d.xfers.filter fun x => x.st != .reserved && !(namedTiles x.cmd).isEmpty).foldl abortXfer d

/-- Dirty lines that the host may hold: (slice, line index). -/
def dirtyHeld (d : Dev) : List (Nat × Nat) :=
  d.slices.flatMap fun e => (e.2.lines.filter fun l =>
    lineDirty l.2 && !isTl l.2.kind && (dirFind e.2 l.2.idx).isSome).map fun l => (e.1, l.2.idx)

def landFills (d : Dev) : Dev :=
  (d.slices.map (·.1)).foldl (fun d s => (sliceOf d s).fills.foldl (fun d f => landFill d s f) d) d

def dirtyLines (d : Dev) : Nat :=
  (d.slices.map fun e => (e.2.lines.filter fun l => lineDirty l.2).length).foldl (· + ·) 0

/-- Step 4 with WRITEBACK 0, once no dirty line is held by the host: buffer entries are written, lines are dropped.
DESIGN CHOICE, unsafe (log 96). -/
def dropDirty (d : Dev) : Dev :=
  let d := landFills d
  let n := dirtyLines d
  let d := { d with slices := tmap (fun _ sl => { sl with lines := sl.lines.filter fun l => !lineDirty l.2 }) d.slices }
  regSetField (flushAll d fun _ _ => true) .resetStatus [] 47 16 n

/-- Step 4; `none` while the host's copies of dirty lines are called back. -/
def resetStep4 (d : Dev) : Dev × Bool :=
  if d.creset.writeback then (regSetField (flushAll d fun _ _ => true) .resetStatus [] 47 16 0, true)
  else
    let held := dirtyHeld d
    if held.isEmpty then (dropDirty d, true) else (held.foldl (fun d x => startSnoop d x.1 x.2 true) d, false)

/-- Registers of the Kreten die that a compute reset clears (R316 to R320, R385, R401). -/
def krResetRegs : List RegId :=
  [.krThrashFlag, .krStatus, .krSliceAcc, .krSliceSpent, .smudgeDataKr, .smudgeCtlKr, .hueBytesSlice, .hueDemotedSlice]

/-- What a compute reset leaves of a slice: its directory, snoops, banks and ports. -/
def emptySlice (sl : Slice) : Slice :=
  { sl with lines := [], fills := [], wbuf := [], stones := [], winHits := 0, winAcc := 0, gleanAt := 0 }

/-- Step 5; it waits while host copies of lines of slices going out are called back. -/
def resetStep5 (d : Dev) : Dev × Bool :=
  let held := d.slices.flatMap fun e => if goingOut e.2 then e.2.dir.map fun x => (e.1, x.idx) else []
  if !held.isEmpty then (held.foldl (fun d x => startSnoop d x.1 x.2 true) d, false)
  else
    let d := flushAll d fun _ _ => true
    let before := d
    let d := { d with slices := tmap (fun _ sl => emptySlice sl) d.slices, preserves := [] }
    let d := (d.slices.map (·.1)).foldl repairSlice d
    (krResetRegs.foldl regResetAll (countSlices (logUnmappable before d)), true)

/-- COMPUTE_RESET: steps 2 to 5, as far as the host's answers allow.
DESIGN CHOICE, unsafe (log 96). -/
def execComputeReset (s : State) : Result :=
  act s fun d =>
    if !d.creset.active || d.creset.phase ≥ 6 then d
    else if d.creset.phase ≤ 3 && tileAccessWaits d then setPhase d 2
    else
      let d := if d.creset.phase ≤ 3 then
          setPhase (abortXfers (d.canvases.foldl (fun d e => eachTile d e.1 haltEasel) d)) 4
        else d
      let r := if d.creset.phase = 4 then resetStep4 d else (d, true)
      if !r.2 then r.1
      else
        let r := resetStep5 (setPhase r.1 5)
        if r.2 then setPhase r.1 6 else r.1

/-- Physical number of a logical tile. -/
def physTile (d : Dev) (t : Nat) : Nat := 17 * (t / 16) + (tileOf d t).physCol

/-- Tiles that step 6 tests: present ones whose quadrant has power. -/
def testedTiles (d : Dev) : List Nat :=
  (List.range 256).filter fun t => (tileOf d t).present && blkServes d (quadOf t)

/-- Canvases become EMPTY; what their seats and spill areas held is gone (R75). -/
def discardCanvases (d : Dev) : Dev :=
  let d := d.canvases.foldl (fun d e => makeUndef d e.2.spillBase e.2.spillSize) d
  { d with canvases := [], streams := [] }

/-- Handles of canvas, context and preserve commands end (R557). -/
def abortOps (d : Dev) : Dev :=
  (d.ops.filter fun o => nmem o.opcode resetOpcodes).foldl (fun d o => complete d o.id stResetAborted) d

/-- COMPUTE_RESET_COMPLETE: steps 6 and 7, with the tiles that fail their test and the seeds of the rest.
DESIGN CHOICE, unsafe (log 96). -/
def execComputeResetComplete (f : ResetFindings) (s : State) : Result :=
  act s fun d =>
    if !d.creset.active || d.creset.phase ≠ 6 || seedsWait d then d
    else
      let c := d.creset
      let tested := testedTiles d
      let d := (tested.filter fun t => f.badTiles.contains (physTile d t)).foldl (fun d t => addDefect d (physTile d t)) d
      let d := buildTileMap (discardCanvases (discardCues d fun c => tileUnit c.unit))
      let d := ((List.range 256).filter fun t => blkServes d (quadOf t)).foldl (resetTile f.seeds) d
      let d := tileResetRegs.foldl regResetAll d
      let d := abortOps d
      let d := c.ops.foldl (fun d o => complete d o stOk) d
      let d := (d.svcs.map (·.1)).foldl resetSvc (forgetCanvas { d with creset := {} })
      let d := regBump d .resetStatus [] 63 48 1
      moveSvcs (if c.thenPort then hostPortReset d false else d)

/-! ### Requests (R463, R556) -/

/-- What an accepted RESET of the host port or cold kind does once its receipt is returned: its handle never completes.
DESIGN CHOICE, unsafe (log 97). -/
def afterReceipt (kind op : Nat) (d : Dev) : Dev :=
  let d := { d with ops := d.ops.filter fun o => o.id != op }
  if kind = 0 then hostPortReset d false else coldReset d

/-- The compute kind acts at acceptance; a core's, before bring-up ends, is rejected (R537). -/
def handleReset : Handler := fun d c op =>
  let a := c.args.headD 0
  if bits a 7 0 = 1 then
    if regBit d .bootStatus [] 4 then (some stOk, startReset d (bitAt a 8) op false) else (some stResetState, d)
  else (some stOk, d)

/-- A receipt read of a RESET record: the other kinds act once the receipt is returned.
DESIGN CHOICE, unsafe (log 97). -/
def submitReset (d : Dev) (w : Win) : Dev :=
  let kind := bits ((windowRecord d w).args.headD 0) 7 0
  let d' := submitAs d w 0x30 handleReset
  if d'.nextOp = d.nextOp || kind = 1 then d' else afterReceipt kind d.nextOp d'

/-- RESET. -/
def execReset (w : Win) (s : State) : Result := act s fun d => submitReset d w

/-- PERST: PERST_N, a hot reset or link down, by the board's policy. -/
def execPerst (s : State) : Result :=
  act s fun d => if d.board.resetPolicy = 1 then coldReset d else hostPortReset d true

/-- FUNCTION_LEVEL_RESET: the link stays up. -/
def execFunctionLevelReset (s : State) : Result := act s fun d => if d.link.up then hostPortReset d false else d

/-- CXL_RESET: a compute reset with write-back, then the host port reset. -/
def execCxlReset (s : State) : Result := act s fun d => if d.link.up then startReset d true none true else d

/-- COLD_RESET: COLD_RST_N is low; THERM_TRIP_N is let go (R596). -/
def execColdReset (s : State) : Result :=
  actAlways s fun d =>
    let d := if d.thermTrip then emit d (.pin "THERM_TRIP_N" true) else d
    { coldReset d with rstHigh := false, thermTrip := false }

end Sys2Proof.Machine
end

