-- ==== Sys2Proof/Machine/Thermal.lean ====
section
/-! DEFINITION. Temperature (R516 to R535): sensors with their cross-check, levers, bands, the thermal registers. Temperatures
are in units of 0.25 °C. -/
namespace Sys2Proof.Machine
open Sys2Proof

/-! ### Sensors (R516, R520, R541) -/

/-- The number of a sensor: those of R541, the stem sites at their nodes, then the HBM dies. -/
def sensorKey : SensorId → Nat
  | .compute p i => 7 * p + i
  | .via i => 1904 + i
  | .kreten s i => 2048 + 2 * s + i
  | .rind r i => 2560 + 4 * r + i
  | .stem i => 2592 + i
  | .hbm s d => 3000 + 13 * s + d

/-- The device has such a sensor. -/
def sensorExists : SensorId → Bool
  | .compute p i => decide (p < 272 ∧ i < 7)
  | .via i => decide (i < 144)
  | .kreten s i => decide (s < 256 ∧ i < 2)
  | .rind r i => decide (r < 8 ∧ i < 4)
  | .stem i => decide (i < 16)
  | .hbm s d => decide (s < 16 ∧ d < 13)

def sensorAt (d : Dev) (k : Nat) : Sensor := tget {} d.sensors k
def sensorOf (d : Dev) (s : SensorId) : Sensor := sensorAt d (sensorKey s)

/-- The four adjacent places of `n` in rows of `w` columns. -/
def adjacent (w rows n : Nat) : List Nat :=
  let r := n / w
  let c := n % w
  (if r = 0 then [] else [n - w]) ++ (if r + 1 < rows then [n + w] else []) ++ (if c = 0 then [] else [n - 1]) ++
    (if c + 1 < w then [n + 1] else [])

/-- The neighbours of a sensor. -/
def neighbours : SensorId → List SensorId
  | .compute p i => (adjacent 17 16 p).map fun q => .compute q i
  | .kreten s i => .kreten s (1 - i) :: (adjacent 16 16 s).map fun q => .kreten q i
  | .rind r i => ((List.range 4).filter fun k => k != i).map fun k => .rind r k
  | .hbm s d =>
    if d = 12 then [.hbm s 0, .rind (rindOfStack s) (s % 2)]
    else if d = 0 then [.hbm s 12, .hbm s 1]
    else if d = 11 then [.hbm s 10]
    else [.hbm s (d - 1), .hbm s (d + 1)]
  | .stem _ => []
  | .via _ => []

/-- Neighbours that the mean is over: for die 11 the model's value stands in for the missing die. -/
def neighbourCount (s : SensorId) : Nat := match s with
  | .hbm _ 11 => 2
  | _ => (neighbours s).length

/-- Sum over the neighbours of used temperature less model value: the expected value is M(i) plus its mean.
DEDUCED, unsafe (log 81). -/
def neighbourSum (d : Dev) (s : SensorId) : Int :=
  (neighbours s).foldl (fun acc n => acc + (sensorOf d n).used - (sensorOf d n).model) 0

/-- Six degrees. -/
abbrev suspectLimit : Nat := 24

/-- A reading differs by more than 6 °C from its expected value and from the model.
DEDUCED, unsafe (log 81). -/
def suspectReading (d : Dev) (s : SensorId) (reading model : Int) : Bool :=
  let n := neighbourCount s
  let far : Bool := if n = 0 then decide ((reading - model).natAbs > suspectLimit)
    else decide (((reading - model) * (n : Int) - neighbourSum d s).natAbs > suspectLimit * n)
  far && decide ((reading - model).natAbs > suspectLimit)

/-- The used temperature of a site (R520). -/
def usedTemp (s : SensorId) (reading model : Int) (flagged : Bool) : Int := match s with
  | .hbm _ _ => if reading < model then model else reading
  | .stem _ => model
  | _ => if flagged && decide (reading < model) then model else reading

/-- The logical tile at a physical place. -/
def logicalTile (d : Dev) (p : Nat) : Option Nat :=
  (List.range 16).findSome? fun x =>
    let t := 16 * (p / 17) + x
    if (tileOf d t).present && (tileOf d t).physCol == p % 17 then some t else none

/-- Reporting unit of a site (R368): kind and number. A physical tile that holds no logical tile reports for the stem. -/
def sensorUnit (d : Dev) : SensorId → Nat × Nat
  | .compute p _ => match logicalTile d p with
    | some t => (ukTile, t)
    | none => (ukStem, 0)
  | .kreten s _ => (ukSlice, s)
  | .rind r _ => (ukRind, r)
  | .hbm s _ => (ukStack, s)
  | .stem _ => (ukStem, 0)
  | .via _ => (ukStem, 0)

/-- A record of a sensor site under the unit that it lies in.
DESIGN CHOICE, unsafe (log 61). -/
def logSite (d : Dev) (st : Half) (s : SensorId) : Dev := let (k, n) := sensorUnit d s; logErr d st k n 3

/-! ### Levers (R521 to R526) -/

abbrev leverCore : Nat := 0
abbrev leverRind : Nat := 1
abbrev leverStem : Nat := 2
abbrev leverHbm : Nat := 3

/-- The lever that a site's die answers to; via-field sensors have none.
DEDUCED, unsafe (log 81). -/
def leverOf : SensorId → Option Nat
  | .compute _ _ => some leverCore
  | .kreten _ _ => some leverCore
  | .rind _ _ => some leverRind
  | .stem _ => some leverStem
  | .hbm _ _ => some leverHbm
  | .via _ => none

/-- Sensor numbers of a lever's dies. -/
def inLever (l k : Nat) : Bool :=
  if l = leverCore then decide (k < 1904) || decide (2048 ≤ k ∧ k < 2560)
  else if l = leverRind then decide (2560 ≤ k ∧ k < 2592)
  else if l = leverStem then decide (2592 ≤ k ∧ k < 2608)
  else decide (3000 ≤ k)

def leverTemps (d : Dev) (l : Nat) : List Int := (d.sensors.filter fun e => inLever l e.1).map (·.2.used)

/-- Three degrees. -/
abbrev hysteresis : Int := 12

def requestLimit (d : Dev) (l : Nat) : Int :=
  4 * ((if l = leverRind || l = leverStem then 100 else 95 : Nat) - regField d .thermCtl [] 3 0 : Nat)

def tripLimit (l : Nat) : Int := if l = leverRind || l = leverStem then 440 else 420

/-- HBM dies shut down at 110 °C, the rind and the stem at 120 °C, the others at 115 °C. -/
def shutLimit (l : Nat) : Int := if l = leverHbm then 440 else if l = leverCore then 460 else 480

def lever (d : Dev) (l : Nat) : Lever := tget {} d.levers l
def putLever (d : Dev) (l : Nat) (x : Lever) : Dev := { d with levers := tput d.levers l x }

def vtMv (d : Dev) : Nat := regField d .thermStatus [] 47 32
def tlOf (d : Dev) : Nat := regField d .thermStatus [] 26 24
def setVt (d : Dev) (v : Nat) : Dev := regSetField d .thermStatus [] 47 32 v
def setTl (d : Dev) (v : Nat) : Dev := regSetField d .thermStatus [] 26 24 v
def setRindCap (d : Dev) (v : Nat) : Dev := regSetField d .thermStatus [] 17 16 v
def setStemCap (d : Dev) (v : Nat) : Dev := regSetField d .thermStatus [] 19 18 v
def hbmLevelOf (d : Dev) (s : Nat) : Nat := tget 0 d.hbmLevel s
def setHbmLevel (d : Dev) (s k : Nat) : Dev := { d with hbmLevel := tput d.hbmLevel s k }

/-- The stack temperature of R331. -/
def stackTemp (d : Dev) (s : Nat) : Int :=
  (List.range 12).foldl (fun m i => max m (sensorOf d (.hbm s i)).used) (sensorOf d (.hbm s 12)).used

/-- Vector 65 and a PLDM event. -/
def thermalSignal (d : Dev) (st : Half) : Dev := emit (sendMsix d 65) (.pldmEvent st)

/-- One enforcement step of a lever; under the HBM lever each stack at or above the limit takes one. -/
def enforceStep (d : Dev) (l : Nat) : Dev :=
  if l = leverCore then
    if vtMv d > 550 then setVt d (max 550 (vtMv d - 10)) else setTl d (min 7 (tlOf d + 1))
  else if l = leverRind then setRindCap d (rindCap d - 1)
  else setStemCap d (stemCap d - 1)

/-- One step back. -/
def stepBack (d : Dev) (l : Nat) : Dev :=
  if l = leverCore then
    if tlOf d > 0 then setTl d (tlOf d - 1) else setVt d (min 900 (vtMv d + 5))
  else if l = leverRind then setRindCap d (min 2 (rindCap d + 1))
  else setStemCap d (min 2 (stemCap d + 1))

/-- The HBM lever: each stack steps by its own temperature.
DESIGN CHOICE, unsafe (log 80). -/
def hbmStep (d : Dev) (s : Nat) : Dev :=
  let u := stackTemp d s
  let lim := requestLimit d leverHbm
  if lim ≤ u then setHbmLevel d s (min 7 (hbmLevelOf d s + 1))
  else if lim - hysteresis ≤ u then d
  else setHbmLevel d s (hbmLevelOf d s - 1)

/-- The lever is at its unrestricted setting. -/
def unrestricted (d : Dev) (l : Nat) : Bool :=
  if l = leverCore then vtMv d == 900 && tlOf d == 0
  else if l = leverRind then rindCap d == 2
  else if l = leverStem then stemCap d == 2
  else d.hbmLevel.all fun e => e.2 == 0

/-- What an enforced lever does at the end of a telemetry window (R523): the hottest site decides. ENFORCE ends as the lever
comes back to its unrestricted setting, or stands there below the band.
DESIGN CHOICE, unsafe (log 80). -/
def leverWindow (d : Dev) (l : Nat) : Dev :=
  let x := lever d l
  if !x.enforce || x.trip then d
  else
    let lim := requestLimit d l
    let ts := leverTemps d l
    let cool : Bool := ts.all fun u => decide (u < lim - hysteresis)
    let free := unrestricted d l
    let d :=
      if l = leverHbm then (List.range 16).foldl hbmStep d
      else if ts.any fun u => decide (lim ≤ u) then enforceStep d l
      else if cool then stepBack d l
      else d
    if unrestricted d l && (cool || !free) then putLever d l { lever d l with enforce := false } else d

/-- The grace time has passed since REQUEST rose: ENFORCE sets (R523). -/
def graceOver (d : Dev) (l : Nat) : Dev :=
  let x := lever d l
  match x.grace with
  | none => d
  | some t =>
    if x.request && !x.enforce && decide (t + msTicks * regField d .thermCtl [] 47 32 ≤ d.tb.now) then
      thermalSignal (logErr (putLever d l { x with enforce := true }) stThermalEnforce ukStem 0 3) stThermalEnforce
    else d

/-- The floor of a lever (R524); under the HBM lever that of the stack that reached the trip limit. -/
def toFloor (d : Dev) (s : SensorId) : Dev := match s with
  | .hbm n _ => setHbmLevel d n 7
  | .rind _ _ => setRindCap d 0
  | .stem _ => setStemCap d 0
  | _ => setTl (setVt d 550) 4

/-- REQUEST follows the temperatures of the lever (R522).
DESIGN CHOICE, unsafe (log 80). -/
def followRequest (d : Dev) (l : Nat) (s : SensorId) : Dev :=
  let x := lever d l
  let lim := requestLimit d l
  let ts := leverTemps d l
  if !x.request && ts.any fun u => decide (lim ≤ u) then
    emit (thermalSignal (logSite (putLever d l { x with request := true, grace := some d.tb.now }) stThermalRequest s)
      stThermalRequest) .coreIrq
  else if x.request && ts.all fun u => decide (u < lim - hysteresis) then
    putLever d l { x with request := false, grace := none }
  else d

/-- The lever goes to its floor (R524). -/
def tripLever (d : Dev) (l : Nat) (s : SensorId) : Dev :=
  let x := lever d l
  let g := if x.request then x.grace else some d.tb.now
  let d := toFloor (putLever d l { request := true, enforce := true, trip := true, grace := g }) s
  if x.trip then d else logSite d stThermalTrip s

/-- TRIP ends once every temperature is 3 °C below the limit (R524).
DESIGN CHOICE, unsafe (log 80). -/
def followTrip (d : Dev) (l : Nat) : Dev :=
  let x := lever d l
  if x.trip && (leverTemps d l).all fun u => decide (u < tripLimit l - hysteresis) then putLever d l { x with trip := false }
  else d

/-- KIND and UNIT of THERM_SHUT.
DESIGN CHOICE, unsafe (log 61). -/
def shutUnit (d : Dev) : SensorId → Nat × Nat
  | .compute p _ => (0, (logicalTile d p).getD 0)
  | .kreten s _ => (1, s)
  | .rind r _ => (2, r)
  | .hbm s _ => (3, s)
  | .stem _ => (4, 0)
  | .via _ => (0, 0)

/-- Shutdown (R525): the site is recorded, every domain except AON stops, THERM_TRIP_N falls; the bypass pairs close. -/
def shutDown (d : Dev) (s : SensorId) (used : Int) : Dev :=
  let (k, n) := shutUnit d s
  let d := regPut d .thermShut [] (2 ^ 63 + (k <<< 48) + (n <<< 32) + (wrapInt 12 used <<< 20))
  emit { d with phase := .shutdown, switches := [], thermTrip := true } (.pin "THERM_TRIP_N" false)

/-! ### Bands (R331, R527) -/

/-- The band of a temperature: up at a bound at once, down 3 °C below it. -/
def bandOf (bounds : List Int) (old : Nat) (u : Int) : Nat :=
  let up := (bounds.filter fun b => decide (b ≤ u)).length
  let stay := (bounds.filter fun b => decide (b - hysteresis ≤ u)).length
  if old < up then up else min old stay

abbrev stackBounds : List Int := [340, 380, 420]
abbrev eqBounds : List Int := [220, 300, 360]
abbrev derateBounds : List Int := [240, 320, 380]

/-- Highest used temperature of a physical tile. -/
def physTemp (d : Dev) (p : Nat) : Int :=
  (List.range 6).foldl (fun m i => max m (sensorOf d (.compute p i)).used) (sensorOf d (.compute p 6)).used

/-- The band that a site selects. -/
def followBand (d : Dev) (s : SensorId) : Dev := match s with
  | .hbm n _ =>
    let x := stackOf d n
    { d with stks := tput d.stks n { x with band := bandOf stackBounds x.band (stackTemp d n) } }
  | .rind r i =>
    if i = 2 then regSetField d .thermRind [r] 11 10 (bandOf eqBounds (regField d .thermRind [r] 11 10) (sensorOf d s).used)
    else if i = 3 then regSetField d .thermRind [r] 9 8 (bandOf eqBounds (regField d .thermRind [r] 9 8) (sensorOf d s).used)
    else d
  | .compute p _ => match logicalTile d p with
    | some t => regSetField d .thermTile [t] 11 10 (bandOf derateBounds (regField d .thermTile [t] 11 10) (physTemp d p))
    | none => d
  | _ => d

/-! ### Readings -/

/-- What a used temperature does: only the strongest rule (R526). -/
def actOnTemp (d : Dev) (s : SensorId) : Dev :=
  match leverOf s with
  | none => d
  | some l =>
    let u := (sensorOf d s).used
    if shutLimit l ≤ u then shutDown d s u
    else followBand (if tripLimit l ≤ u then tripLever d l s else followTrip (followRequest d l s) l) s

/-- A reading with the model's value: the cross-check, then the used temperature (R520). -/
def takeReading (d : Dev) (s : SensorId) (reading model : Int) : Dev :=
  let x := sensorOf d s
  let n := if suspectReading d s reading model then x.suspect + 1 else 0
  let flag := x.flagged || decide (n ≥ 8)
  let y : Sensor := { reading := reading, model := model, used := usedTemp s reading model flag,
                      suspect := if flag then 0 else n, flagged := flag }
  let d := { d with sensors := tput d.sensors (sensorKey s) y }
  if flag && !x.flagged then logSite d stThermSensor s else d

/-- The device has the site: a populated stack, for an HBM die. -/
def siteFitted (d : Dev) (s : SensorId) : Bool := sensorExists s && match s with
  | .hbm n _ => (stackOf d n).populated
  | _ => true

/-- SENSOR_READING (R516, R520): a stem site has no sensor. -/
def execSensorReading (s : SensorId) (reading model : Int) (st : State) : Result :=
  act st fun d => match s with
    | .stem _ => d
    | _ => if siteFitted d s then actOnTemp (takeReading d s reading model) s else d

/-- GRACE_EXPIRES (R523): at the end of a telemetry window. -/
def execGraceExpires (l : Nat) (s : State) : Result := act s fun d => if l < 4 then graceOver d l else d

/-- A new model value of a site at the end of a window (R519): its used temperature follows where the model counts. -/
def takeModel (d : Dev) (e : SensorId × Int) : Dev :=
  if !siteFitted d e.1 || d.phase == .shutdown then d
  else
    let x := sensorOf d e.1
    let y := { x with model := e.2, used := usedTemp e.1 x.reading e.2 x.flagged }
    actOnTemp { d with sensors := tput d.sensors (sensorKey e.1) y } e.1

/-- What the end of a telemetry window does to the levers: grace first, then steps.
DESIGN CHOICE, unsafe (log 80). -/
def leversWindow (d : Dev) : Dev := (List.range 4).foldl (fun d l => leverWindow (graceOver d l) l) d

/-! ### Registers (R530 to R535) -/

/-- The rule of THERM_CTL. -/
def writeThermCtl (d : Dev) (r : Req) (off bytes : Nat) (v : DWord) : Dev :=
  withWrite d r off bytes v fun d t ix mask val =>
    let x := newValue d t ix mask val
    if bits x 47 32 < 10 || bits x 47 32 > 2000 then logAccess d r stThermField off false true bytes
    else regPut d .thermCtl [] x

/-- THERM_STATUS as it reads. -/
def thermStatusWord (d : Dev) : Nat :=
  let levers := List.range 4
  let mask (f : Lever → Bool) : Nat := ofBitList (levers.filter fun l => f (lever d l))
  ((regGet d .thermStatus [] / 2 ^ 16) <<< 16) + ((levers.any fun l => (lever d l).trip).toNat <<< 15) +
    (mask (·.enforce) <<< 4) + mask (·.request)

def tempField (u : Int) (lo : Nat) : Nat := wrapInt 12 u <<< lo

def maxInt (l : List Int) : Int := match l with
  | [] => 0
  | x :: t => t.foldl max x

/-- Flags of a list of sensors, the first at the lowest bit. -/
def flagBits (l : List Sensor) : Nat := ofBitList ((List.range l.length).filter fun i => (l[i]?.map (·.flagged)).getD false)

/-- THERM_STACKs as it reads; an unpopulated site reads zero. -/
def thermStackWord (d : Dev) (s : Nat) : Nat :=
  if !(stackOf d s).populated then 0
  else
    let l := (List.range 13).map fun i => sensorOf d (.hbm s i)
    let hot := ((List.range 13).find? fun i => (l[i]?.map (·.used)).getD 0 == stackTemp d s).getD 0
    tempField (stackTemp d s) 52 + tempField (maxInt (l.map (·.reading))) 40 + tempField (maxInt (l.map (·.model))) 28 +
      (flagBits l <<< 15) + (hot <<< 8) + hbmLevelOf d s

/-- THERM_RINDr as it reads. -/
def thermRindWord (d : Dev) (r : Nat) : Nat :=
  let l := (List.range 4).map fun i => sensorOf d (.rind r i)
  let u (i : Nat) : Int := (sensorOf d (.rind r i)).used
  tempField (u 0) 52 + tempField (u 1) 40 + tempField (u 2) 28 + tempField (u 3) 16 + (flagBits l <<< 12) +
    regField d .thermRind [r] 11 8 * 2 ^ 8

/-- THERM_TILEt as it reads; an absent tile shows physical column 0x1F and no pace (R544), and before bring-up every
tile its reset value (R535). -/
def thermTileWord (d : Dev) (t : Nat) : Nat :=
  let tl := tileOf d t
  let kr := (List.range 2).map fun i => sensorOf d (.kreten t i)
  let slice := tempField (maxInt (kr.map (·.used))) 24 + (flagBits kr <<< 22)
  if !tl.present then slice + (if d.phase == .coldHold then 0 else 0x1F <<< 4)
  else
    let p := physTile d t
    let cs := (List.range 7).map fun i => sensorOf d (.compute p i)
    (regField d .thermTile [t] 63 48 <<< 48) + tempField (physTemp d p) 36 + slice + (flagBits cs <<< 15) +
      (regField d .thermTile [t] 11 10 <<< 10) + ((nmem p d.class1).toNat <<< 9) + (tl.physCol <<< 4)

/-- Clear a sensor's flag: it starts a new count at once (R520). -/
def clearFlag (d : Dev) (s : SensorId) : Dev :=
  let x := sensorOf d s
  if !x.flagged then d
  else { d with sensors := tput d.sensors (sensorKey s)
                  { x with flagged := false, suspect := 0, used := usedTemp s x.reading x.model false } }

/-- A write of 1 clears flags, the lowest at bit `lo`. -/
def clearFlags (d : Dev) (val lo : Nat) (l : List SensorId) : Dev :=
  (l.mapIdx fun i s => (i, s)).foldl (fun d e => if bitAt val (lo + e.1) then clearFlag d e.2 else d) d

/-- The rules of THERM_STACKs, THERM_RINDr and THERM_TILEt. -/
def writeThermFlags (d : Dev) (t : RegDef) (ix : List Nat) (val : Nat) : Dev :=
  let n := ix.headD 0
  if t.id = .thermStack then clearFlags d val 15 ((List.range 13).map fun i => .hbm n i)
  else if t.id = .thermRind then clearFlags d val 12 ((List.range 4).map fun i => .rind n i)
  else
    let d := clearFlags d val 22 ((List.range 2).map fun i => .kreten n i)
    if (tileOf d n).present then clearFlags d val 15 ((List.range 7).map fun i => .compute (physTile d n) i) else d

end Sys2Proof.Machine
end

