-- ==== Sys2Proof/Machine/Power.lean ====
section
/-! DEFINITION. Power (R488 to R515): measurement, the power limit and core voltage, the sequencers of the clocked rails,
power states, telemetry samples, and the observation clock's register. -/
namespace Sys2Proof.Machine
open Sys2Proof

/-! ### Rails and domains (R488, R489, R491 to R493) -/

/-- Domains of a rail, in the order of R488: VCORE, VKR, VRIND, VSER, VSTEM, VHBM, VAON. -/
def railDomains (n : Nat) : List Nat :=
  if n = 0 then [0, 1, 2, 3] else if n = 1 then [4] else if n = 2 then [5, 6, 7, 8, 9, 10, 11, 12]
  else if n = 3 then [13, 14, 15, 16, 22] else if n = 4 then [21] else if n = 5 then [17, 18, 19, 20] else [23]

/-- What the module reports for one rail. -/
def takeRail (d : Dev) (e : Nat × RailReport) : Dev :=
  let d := { d with railReads := tput d.railReads e.1 (e.2.mv, e.2.deciA) }
  let d := if e.1 = 0 then { d with overCurrent := e.2.overCurrent } else d
  if e.2.bad || (e.1 == 0 && e.2.overCurrent) then logErr d stVpmFault ukStem e.1 3 else d

/-- PMBUS_POLL. -/
def execPmbusPoll (rails : List RailReport) (s : State) : Result :=
  act s fun d => ((rails.take 7).mapIdx fun i x => (i, x)).foldl takeRail d

/-- Averages of a domain as PWR_DOMn and PWR_SNAPn hold them; VZ1-E12 has no stacks on the west edge. -/
def domainWord (d : Dev) (n : Nat) (x : DomainSample) : Nat :=
  let idle : Bool := n == 20 && d.limits.ordering == 2
  let a := if idle then 0 else min 0xFFFF x.deciA
  let p := if idle then 0 else min 0xFFFFFF x.mw
  (a <<< 48) + (min 0xFFFF x.mv <<< 32) + (p <<< 8)

def domainAt (l : List DomainSample) (n : Nat) : DomainSample := l.getD n { deciA := 0, mv := 0, mw := 0 }

/-- The device's current of a rail in the last window, in 0.1 A. -/
def railCurrent (d : Dev) (n : Nat) : Nat := ((railDomains n).map fun k => regField d .pwrDom [k] 63 48).foldl (· + ·) 0

/-- READ_IOUT differs by more than 5 % from the device's own figure.
DESIGN CHOICE, unsafe (log 82). -/
def railDisagrees (d : Dev) (n : Nat) : Bool := match tfind d.railReads n with
  | some (_, a) => decide (20 * ((a : Int) - (railCurrent d n : Int)).natAbs > railCurrent d n)
  | none => false

/-- Count windows in which a rail disagrees; at ten in a row ST_PWR_SENSE is logged, once per cold reset (R493).
DESIGN CHOICE, unsafe (log 82). -/
def senseRail (d : Dev) (n : Nat) : Dev :=
  let k := if railDisagrees d n then tget 0 d.senseRun n + 1 else 0
  let d := { d with senseRun := tput d.senseRun n k }
  if k ≥ 10 && !d.senseLogged then logErr { d with senseLogged := true } stPwrSense ukStem n 3 else d

/-- Package power of the last window in mW. -/
def packageMw (d : Dev) : Nat := ((List.range 24).map fun k => regField d .pwrDom [k] 31 8).foldl (· + ·) 0

/-- PACE of the present tiles (R528). -/
def putPaces (d : Dev) (r : RegId) (paces : List Nat) : Dev :=
  (List.range 256).foldl (fun d t => if (tileOf d t).present then regSetField d r [t] 63 48 (min 0xFFFF (paces.getD t 0)) else d) d

/-- TELEMETRY_WINDOW_END (R492, R493, R519, R523, R528): a window of 2,000,000 ticks has ended, once for each. -/
def execTelemetryWindowEnd (domains : List DomainSample) (models : List (SensorId × Int)) (paces : List Nat) (s : State) :
    Result :=
  act s fun d =>
    if d.tb.now / 2000000 = d.windowNo then d
    else
      let d := { d with windowNo := d.tb.now / 2000000 }
      let d := (List.range 24).foldl (fun d n => regPut d .pwrDom [n] (domainWord d n (domainAt domains n))) d
      let d := regSetField d .pwrPkg [] 47 32 (min 0xFFFF (packageMw d / 1000))
      let d := (List.range 7).foldl senseRail d
      let d := putPaces (models.foldl takeModel d) .thermTile paces
      if d.phase == .shutdown then d else leversWindow d

/-! ### Telemetry samples (R495, R529) -/

/-- Copy the bits of `mask` of a value into a snapshot register. -/
def snapBits (d : Dev) (r : RegId) (ix : List Nat) (mask v : Nat) : Dev :=
  regPut d r ix (Nat.lor (Nat.land (regGet d r ix) (2 ^ 64 - 1 - mask)) (Nat.land v mask))

/-- Bits [hi:lo]. -/
def maskOf (hi lo : Nat) : Nat := 2 ^ (hi + 1) - 2 ^ lo

/-- The samples that ARG names. -/
def takeSample (d : Dev) (arg due : Nat) (s : TelemSample) : Dev :=
  let d := regBump d .telemSeq [] 63 0 1
  let d := if bitAt arg 0 then
      (List.range 24).foldl (fun d n => regPut d .pwrSnap [n] (domainWord d n (domainAt s.domains n))) d else d
  let d := if bitAt arg 1 then
      let d := (List.range 16).foldl (fun d n => snapBits d .thermStackSnap [n] (maskOf 63 15) (thermStackWord d n)) d
      let d := (List.range 8).foldl (fun d n => snapBits d .thermRindSnap [n] (maskOf 63 12) (thermRindWord d n)) d
      (List.range 256).foldl (fun d n => snapBits d .thermTileSnap [n] (maskOf 47 15) (thermTileWord d n)) d
    else d
  let d := if bitAt arg 2 then putPaces d .thermTileSnap s.paces else d
  regBump (regPut d .telemDue [] due) .telemSeq [] 63 0 1

/-- A TELEMETRY_SAMPLE fires; with the sampler not ON it fires without sampling (R507). -/
def fireSample (d : Dev) (c : Cue) (x : TelemSample) : Dev :=
  let d := takeCue d c
  if blkOn d blkTelem then takeSample d c.arg.toNat c.due x else d

/-- TELEMETRY_SAMPLE_FIRES: the stem's next cue. -/
def execTelemetrySampleFires (x : TelemSample) (s : State) : Result :=
  act s fun d => (nextCue d .stem).elim d fun c => fireSample d c x

/-! ### The power limit and the core voltage (R496 to R499, R512) -/

/-- The lowest of the values that are not 0. -/
def lowestSet (l : List Nat) : Nat := match l.filter (· != 0) with
  | [] => 0
  | x :: t => t.foldl min x

/-- The effective limit in W.
DESIGN CHOICE, unsafe (log 82). -/
def powerLimit (d : Dev) : Nat := lowestSet [d.limits.powerW, regField d .pwrCtl [] 63 48]

/-- LIMIT_W follows.
DESIGN CHOICE, unsafe (log 82). -/
def noteLimit (d : Dev) : Dev := regSetField d .pwrPkg [] 63 48 (powerLimit d)

def vcoreMv (d : Dev) : Nat := regField d .pwrPkg [] 31 16
def throttle (d : Dev) : Nat := regField d .pwrPkg [] 10 8
def vcoreCap (d : Dev) : Nat := regField d .pwrCtl [] 47 32

/-- The ceiling C. -/
def vcoreCeiling (d : Dev) : Nat := lowestSet [d.limits.vcoreMv, vcoreCap d, vtMv d]

/-- LIMITER of a ceiling: the thermal voltage whenever it is that ceiling (R526). -/
def ceilingCode (d : Dev) : Nat :=
  if vtMv d = vcoreCeiling d then 2 else if vcoreCap d = vcoreCeiling d then 1 else 0

/-- LIMITER of PWR_PKG.
DESIGN CHOICE, unsafe (log 82). -/
def setLimiter (d : Dev) (n : Nat) : Dev := regSetField d .pwrPkg [] 3 0 n
def setThrottle (d : Dev) (n : Nat) : Dev := regSetField d .pwrPkg [] 10 8 n

/-- Write VCORE, and VKR as the greater of 0.60 V and VCORE. -/
def writeVcore (d : Dev) (mv : Nat) : Dev :=
  emit (emit (regSetField d .pwrPkg [] 31 16 mv) (.avsWrite 0 mv)) (.avsWrite 1 (max 600 mv))

/-- THROTTLE rises at 0.55 V. -/
def raiseThrottle (d : Dev) : Dev :=
  let n := throttle d
  let d := setLimiter (setThrottle d (min 7 (n + 1))) 4
  if n = 0 then logErr d stPowerLimit ukStem 0 3 else d

/-- R498 and R499 with the estimate E in mW. -/
def manageVcore (d : Dev) (e : Nat) : Dev :=
  let lim := 1000 * powerLimit d
  let v := vcoreMv d
  let c := vcoreCeiling d
  let above : Bool := decide (100 * e > 99 * lim)
  if above || d.overCurrent || decide (v > c) then
    let code := if v > c && (vtMv d == c || !(above || d.overCurrent)) then ceilingCode d else 3
    if v > 550 then setLimiter (writeVcore d (max 550 (v - 10))) code
    else if above then raiseThrottle d
    else setLimiter d code
  else if 100 * e < 97 * lim then
    if throttle d > 0 then setLimiter (setThrottle d (throttle d - 1)) 4
    else if v + 5 ≤ c then setLimiter (writeVcore d (v + 5)) 3
    else setLimiter d (ceilingCode d)
  else setLimiter d (if throttle d > 0 then 4 else 3)

/-- POWER_MANAGER_TICK: once at each time base value that is a multiple of 2,000 (R490, R498). -/
def execPowerManagerTick (e : Nat) (s : State) : Result :=
  act s fun d =>
    if d.tb.now % 2000 = 0 && d.managedAt != some d.tb.now then manageVcore { d with managedAt := some d.tb.now } e else d

/-- The rule of PWR_CTL (R511). -/
def writePwrCtl (d : Dev) (r : Req) (off bytes : Nat) (v : DWord) : Dev :=
  withWrite d r off bytes v fun d t ix mask val =>
    let x := newValue d t ix mask val
    let w := bits x 63 48
    let c := bits x 47 32
    if (w != 0 && decide (w < 500)) || (c != 0 && !(decide (550 ≤ c ∧ c ≤ 900))) || bits x 23 16 = 0 || bits x 15 8 = 0 then
      logAccess d r stPwrField off false true bytes
    else noteLimit (regPut d .pwrCtl [] x)

/-! ### Sequencers (R501, R502) -/

/-- SEQUENCER_TARGET: the point that the device's rules call for.
DESIGN CHOICE, unsafe (log 83). -/
def execSequencerTarget (r : Rail) (p : Nat) (s : State) : Result :=
  act s fun d => if p = wantedPoint d r then seqTarget d r p else d

/-- VOLTAGE_SETTLED: the sensed voltage is within 5 mV of the target, which the last write has named. -/
def execVoltageSettled (r : Rail) (s : State) : Result :=
  act s fun d =>
    let x := seqOf d r
    if x.mv ≠ x.goal then d
    else match x.st with
    | .raiseV => putSeq d r { x with st := .raiseF }
    | .lowerV => seqStable d r
    | _ => d

/-- CLOCK_SWITCH_DONE. -/
def execClockSwitchDone (r : Rail) (s : State) : Result :=
  act s fun d =>
    let x := seqOf d r
    match x.st with
    | .raiseF => seqStable (putSeq d r { x with point := x.target }) r
    | .lowerF =>
      let d := writeRail (putSeq d r { x with point := x.target }) r (pointMv r x.target)
      putSeq d r { seqOf d r with st := .lowerV }
    | _ => d

/-- SEQUENCER_TIMEOUT: 50 µs without reaching the target; the lower frequency stays.
DESIGN CHOICE, unsafe (log 83). -/
def execSequencerTimeout (r : Rail) (s : State) : Result :=
  act s fun d =>
    let x := seqOf d r
    if x.st == .raiseV || x.st == .lowerV then
      logErr (putSeq d r { x with st := .stable, retry := some x.target }) stVpmFault ukStem (railNo r) 3
    else d

/-- SEQUENCER_RETRY: 1 ms later the target is tried again.
DESIGN CHOICE, unsafe (log 83). -/
def execSequencerRetry (r : Rail) (s : State) : Result :=
  act s fun d =>
    let x := seqOf d r
    match x.retry with
    | none => d
    | some p =>
      if x.st ≠ .stable then d
      else if x.point = p then
        let d := writeRail (putSeq d r { x with target := p, retry := none }) r (pointMv r p)
        putSeq d r { seqOf d r with st := .lowerV }
      else seqStart d r p

/-! ### Power states (R503 to R506) -/

/-- Due times of the armed cues that satisfy `p`, rotation cues of the tiles that satisfy `q` among them. -/
def armedDues (d : Dev) (p : Cue → Bool) (q : Nat → Bool) : List Nat :=
  ((d.cues.filter fun c => p c && !c.pending).map (·.due)) ++
    ((d.tiles.filter fun e => q e.1 && e.2.rotArmed).map (·.2.nextDue))

/-- When FILL_HOLD of a seat's gated stream will expire. -/
def fillExpiry (d : Dev) (s : Seat) : Option Nat :=
  match canvasOf d s.canvas with
  | none => none
  | some c => match gatedStream c s.stage with
    | none => none
    | some n =>
      let ep : ConsEp := tget {} (streamRt d s.canvas n).cons s.rank
      match (filledSlots ep).map (·.filledAt) with
      | [] => none
      | x :: t =>
        let e := t.foldl min x + (stageOf c s.stage).fillHold
        if d.tb.now < e then some e else none

/-- The known events of a tile. -/
def tileKnown (d : Dev) (t : Nat) : List Nat :=
  armedDues d (fun c => c.unit == .tile t) (fun k => k == t) ++ ((tileOf d t).seats.filterMap fun e => fillExpiry d e.2)

/-- The known events of the device. The compare values of control-core timers lie in the cores.
DESIGN CHOICE, unsafe (log 84). -/
def deviceKnown (d : Dev) : List Nat := armedDues d (fun _ => true) fun _ => true

/-- The next known event is at least `n` ticks away.
DESIGN CHOICE, unsafe (log 84). -/
def quietFor (d : Dev) (l : List Nat) (n : Nat) : Bool := l.all fun x => decide (d.tb.now + n ≤ x)

/-- The seated stage has a runnable path. -/
def runnable (d : Dev) (t : Nat) : Bool := match curSeat d t with
  | none => false
  | some (_, s) =>
    s.st == .seated && ((tileOf d t).atBoundary || s.ctx.groups.any fun g => !(readyPcs g.2).isEmpty)

/-- A tile is idle (R504).
DESIGN CHOICE, unsafe (log 84). -/
def tileIdle (d : Dev) (t : Nat) : Bool :=
  let tl := tileOf d t
  !runnable d t && tl.easel.queue.isEmpty && tl.easel.keeper == .idle && tl.sw == .none

def setPwr (d : Dev) (t : Nat) (p : TilePwr) : Dev := modTile d t fun tl => { tl with pwr := p }

/-- TILE_NAP_ENTER: the next known event is at least 40 ns away. -/
def execTileNapEnter (t : Nat) (s : State) : Result :=
  act s fun d =>
    let tl := tileOf d t
    if tl.present && blkServes d (quadOf t) && tl.pwr == .run && tileIdle d t && quietFor d (tileKnown d t) 80 then
      setPwr (modTile d t fun tl => { tl with napAt := d.tb.now }) t .nap
    else d

/-- TILE_NAP_WAKE: an arrival, or the next known event is near. -/
def execTileNapWake (t : Nat) (s : State) : Result :=
  act s fun d => if (tileOf d t).pwr == .nap then setPwr d t .run else d

/-- Retention: what the easel cells hold is lost. -/
def dozeTile (d : Dev) (t : Nat) : Dev :=
  modTile d t fun tl => { tl with
    pwr := .doze,
    easel := { tl.easel with held0 := [], held1 := [], scales0 := [], scales1 := [], reload0 := none, reload1 := none } }

/-- TILE_DOZE_ENTER: idle for DOZE_IDLE, taken from its nap, and the next known event is at least 4 µs away.
DESIGN CHOICE, unsafe (log 84). -/
def execTileDozeEnter (t : Nat) (s : State) : Result :=
  act s fun d =>
    if (tileOf d t).pwr == .nap && regBit d .pwrCtl [] 1 && tileIdle d t && quietFor d (tileKnown d t) 8000
        && decide ((tileOf d t).napAt + usTicks * regField d .pwrCtl [] 23 16 ≤ d.tb.now) then dozeTile d t
    else d

/-- Power is back: each bank with a valid hold record reloads (R191). -/
def wakeDoze (d : Dev) (t : Nat) : Dev :=
  let s := curSeat d t
  modTile d t fun tl => { tl with pwr := .run, easel := match s with
    | some (_, x) => if x.st == .seated then startReloads x tl.easel else tl.easel
    | none => tl.easel }

/-- TILE_DOZE_WAKE. -/
def execTileDozeWake (t : Nat) (s : State) : Result :=
  act s fun d => if (tileOf d t).pwr == .doze && !d.deep then wakeDoze d t else d

def setRest (d : Dev) (s : Nat) (b : Bool) : Dev := { d with stks := tput d.stks s { stackOf d s with resting := b } }

/-- STACK_REST_ENTER: no access for REST_IDLE, no session selects it, the device's next known event is at least 100 µs
away. -/
def execStackRestEnter (n : Nat) (s : State) : Result :=
  act s fun d =>
    let x := stackOf d n
    if x.populated && !x.resting && regBit d .pwrCtl [] 2 && !d.link.memEn
        && !(d.sessions.any fun e => bitAt e.2.desc.stackMask n) && quietFor d (deviceKnown d) 200000
        && decide (x.accessAt + 100 * usTicks * regField d .pwrCtl [] 15 8 ≤ d.tb.now) then setRest d n true
    else d

/-- STACK_REST_WAKE: an access, a session opening, MEM_EN rising, or the next known event is near. -/
def execStackRestWake (n : Nat) (s : State) : Result :=
  act s fun d => if (stackOf d n).resting && !d.deep then setRest d n false else d

/-- The conditions of deep (R504).
DESIGN CHOICE, unsafe (log 84). -/
def mayDeepen (d : Dev) : Bool :=
  !d.deep && regBit d .pwrCtl [] 3 && !d.link.up &&
  !(d.canvases.any fun e => e.2.st == .armed || e.2.st == .running || e.2.st == .draining) &&
  (d.xfers.all fun x => x.st == .reserved) && d.sessions.isEmpty && d.sweeps.isEmpty &&
  quietFor d (deviceKnown d) 20000000

/-- DEEP_ENTER: every tile dozes, every stack rests, the clocked points fall. -/
def execDeepEnter (s : State) : Result :=
  act s fun d =>
    if !mayDeepen d then d
    else
      let d := { d with deep := true }
      let d := (List.range 256).foldl (fun d t => if (tileOf d t).present then dozeTile d t else d) d
      let d := (List.range 16).foldl (fun d n => if (stackOf d n).populated then setRest d n true else d) d
      seqTarget (seqTarget d .rind (wantedPoint d .rind)) .stem (wantedPoint d .stem)

/-- DEEP_EXIT. -/
def execDeepExit (s : State) : Result := act s leaveDeep

/-- PWR_STATE as it reads (R513). -/
def pwrStateWord (d : Dev) : Nat :=
  let n (p : TilePwr) : Nat := (d.tiles.filter fun e => e.2.present && e.2.pwr == p).length
  (d.deep.toNat <<< 63) + (ofBitList ((List.range 16).filter fun s => (stackOf d s).resting) <<< 32) + (n .doze <<< 16) + n .nap

/-! ### The observation clock (R514, R515) -/

/-- KIND, UNIT_Y and UNIT name a source. -/
def obsOk (d : Dev) (x : Nat) : Bool :=
  let k := bits x 31 24
  let y := bits x 23 16
  let u := bits x 15 0
  if k = 7 then decide (y < 16 ∧ u < 16)
  else if y ≠ 0 then false
  else if k = 2 then decide (u < 8)
  else if k = 3 then decide (u < 16) && (stackOf d u).populated
  else if k = 8 then decide (u < 256)
  else decide (k ≤ 8)

/-- Frequency of a clocked source in kHz; `none` where it is a self-timed pace. -/
def obsKhz (d : Dev) (x : Nat) : Option Nat :=
  let k := bits x 31 24
  if k = 1 then some (if (seqOf d .stem).point = 0 then 600000 else if (seqOf d .stem).point = 1 then 1200000 else 1600000)
  else if k = 2 then some (if (seqOf d .rind).point = 0 then 1000000 else if (seqOf d .rind).point = 1 then 1500000 else 2000000)
  else if k = 3 then some (if d.limits.safe || d.limits.hbmRate < 104 then 1200000 else 1300000)
  else if k = 4 then some 156250
  else if k = 5 then some 100000
  else if k = 6 then some 2000000
  else none

/-- The source of a selection is powered and runs. -/
def obsRuns (d : Dev) (x : Nat) : Bool :=
  let k := bits x 31 24
  if k = 0 || d.deep && k != 6 then false
  else if k = 3 then !(stackOf d (bits x 15 0)).resting
  else if k = 7 then
    let t := 16 * bits x 23 16 + bits x 15 0
    (tileOf d t).present && blkServes d (quadOf t) && (tileOf d t).pwr != .doze
  else if k = 8 then !(sliceOf d (bits x 15 0)).out
  else true

/-- A new selection whose output period is shorter than 4 ns sets OVERRANGE; a pace of less than 2 G/s divided by 8 or
more never does, and below that it is the pace of the moment.
DESIGN CHOICE, safe (log 85). -/
def obsOverrange (d : Dev) (x : Nat) : Bool × Dev :=
  if !bitAt x 63 || !obsRuns d x then (false, d)
  else
    let div := bits x 47 32 + 1
    match obsKhz d x with
    | some f => (decide (f > 250000 * div), d)
    | none => if div ≥ 8 then (false, d) else drawBool d

/-- The rule of OBS_CTL. -/
def writeObsCtl (d : Dev) (r : Req) (off bytes : Nat) (v : DWord) : Dev :=
  withWrite d r off bytes v fun d t ix mask val =>
    let x := newValue d t ix mask val
    if !obsOk d x then logAccess d r stPwrField off false true bytes
    else
      let (o, d) := obsOverrange d x
      let d := regPut d .obsCtl [] x
      if o then regSetBit d .obsCtl [] 62 else d

end Sys2Proof.Machine
end

