-- ==== Sys2Proof/Machine/Convert.lean ====
section
/-! DEFINITION. The conversion instructions (R221 to R226, R230 to R233). -/
namespace Sys2Proof.Machine
open Sys2Proof

/-! ### Shared checks -/

/-- A code that CVT, VCVT and VCVT.PACK convert between (R230). -/
def cvtFmt (f : Nat) : Bool := decide (1 ≤ f ∧ f ≤ 0x0B)

/-- An element format of VCVT.MX and VCVT.UNMX (R230). -/
def mxFmt (f : Nat) : Bool := decide (4 ≤ f ∧ f ≤ 8) || f == 0x0A

/-- Vector registers 0 to 15 (R143). -/
def vregOk (v : Nat) : Bool := decide (v < 16)

/-- Alignment, then the region rule, of a stage-buffer operand (R149, R230). -/
def sbFault (s : Seat) (a n align : Nat) : Option Half :=
  if a % align ≠ 0 then some stMemAlign else if sbOk s a n then none else some stSbRange

/-- The first of several checks that fails. -/
def firstFault (l : List (Option Half)) : Option Half := l.findSome? id

/-- Bytes of 128 packed elements. -/
def packedBytes (f : Nat) : Nat := 128 * fmtWidth f / 8

def vals (c : Ctx) (v : Nat) : List Nat := (List.range 128).map fun l => (vReg c v l).val.toNat

/-- Write 128 values to a vector register. -/
def setV (d : Dev) (i : Iss) (v : Nat) (xs : List Nat) : Dev :=
  modCtx d i.t i.key fun c => (xs.mapIdx fun l x => (l, x)).foldl (fun c e => setVReg c v e.1 e.2 false) c

/-- Roundings of a vector instruction: lane l draws element BASE + l from generator l (R250). -/
def vroundings (d : Dev) (i : Iss) (mode : Nat) : Dev × List Rounding :=
  let k := roundKeying i.seat.ctx
  let (tl, rs) := roundings (tileOf d i.t) k mode ((List.range 128).map fun l => (l, k.base + l))
  (putTile d i.t tl, rs)

def sumSat (cs : List Converted) : Nat := (cs.map (·.sat)).foldl (· + ·) 0
def sumLost (cs : List Converted) : Nat := (cs.map (·.lost)).foldl (· + ·) 0

/-- Count what a list of conversions adds to ARITH_EVENTS. -/
def countConv (d : Dev) (t : Nat) (cs : List Converted) : Dev := countArith d t (sumSat cs) (sumLost cs) 0

/-! ### Conversions of registers -/

/-- Convert a register of the executing lanes: lane l of group g draws element BASE + 32 g + l from generator
32 (g mod 4) + l. -/
def convertLanes (d : Dev) (i : Iss) (src srcFmt dstFmt round : Nat) (sat : Bool) : Dev × List Converted :=
  let k := roundKeying i.seat.ctx
  let (tl, rs) := roundings (tileOf d i.t) k round (i.lanes.map fun l => (32 * (i.g % 4) + l, k.base + 32 * i.g + l))
  let cs := List.zipWith (fun l rd => toElem dstFmt rd sat (elemVal srcFmt (gReg i.gr src l).val.toNat)) i.lanes rs
  (countConv (putTile d i.t tl) i.t cs, cs)

/-- CVT: one element a lane (R230, R232).
DESIGN CHOICE, unsafe (log 16). -/
def doCvt (dst src srcFmt dstFmt round : Nat) (sat : Bool) (d : Dev) (i : Iss) : Issued :=
  guardOk (decide (dst < 64) && decide (src < 64)) <|
    if !(cvtFmt srcFmt && cvtFmt dstFmt && decide (round ≤ 2)) then .fault stCvtFormat 0
    else orFault (firstFault [consumed i [.reg src] i.lanes, roundFault i round]) <|
      let (d, cs) := convertLanes d i src srcFmt dstFmt round sat
      .done (writeLanes d i (.reg dst) (List.zipWith (fun l c => (l, c.x, false)) i.lanes cs))

/-- CVT (R230). -/
def execCvt (t g dst src srcFmt dstFmt round : Nat) (sat : Bool) (s : State) : Result :=
  act s fun d => issue d t g [] (doCvt dst src srcFmt dstFmt round sat)

/-- Convert a vector register. -/
def convertV (d : Dev) (i : Iss) (src srcFmt dstFmt round : Nat) (sat : Bool) : Dev × List Converted :=
  let (d, rs) := vroundings d i round
  let cs := List.zipWith (fun x rd => toElem dstFmt rd sat (elemVal srcFmt x)) (vals i.seat.ctx src) rs
  (countConv d i.t cs, cs)

/-- VCVT: a vector register at a time (R230, R232).
DESIGN CHOICE, unsafe (log 16). -/
def doVcvt (vdst vsrc srcFmt dstFmt round : Nat) (sat : Bool) (d : Dev) (i : Iss) : Issued :=
  guardOk (vregOk vdst && vregOk vsrc) <|
    if !(cvtFmt srcFmt && cvtFmt dstFmt && decide (round ≤ 2)) then .fault stCvtFormat 0
    else orFault (firstFault [vConsumed i.seat.ctx vsrc, roundFault i round]) <|
      let (d, cs) := convertV d i vsrc srcFmt dstFmt round sat
      .done (setV d i vdst (cs.map (·.x)))

/-- VCVT (R230). -/
def execVcvt (t g vdst vsrc srcFmt dstFmt round : Nat) (sat : Bool) (s : State) : Result :=
  act s fun d => issue d t g [] (doVcvt vdst vsrc srcFmt dstFmt round sat)

/-! ### Packing and unpacking -/

def doVcvtPack (addr : Opnd) (vsrc dstFmt round : Nat) (sat : Bool) (d : Dev) (i : Iss) : Issued :=
  guardOk (opndOk addr && vregOk vsrc) <|
    if !(cvtFmt dstFmt && decide (round ≤ 2)) then .fault stCvtFormat 0
    else
      let a := (opndVal i i.low addr).val
      orFault (firstFault [consumed i [addr] [i.low], vConsumed i.seat.ctx vsrc, roundFault i round,
          sbFault i.seat a (packedBytes dstFmt) 32]) <|
        let (d, cs) := convertV d i vsrc 1 dstFmt round sat
        .done (sbWrite d i.t a (leBytes (packedBytes dstFmt) (packElems (fmtWidth dstFmt) (cs.map (·.x)))) false)

/-- VCVT_PACK (R205, R230). -/
def execVcvtPack (t g : Nat) (addr : Opnd) (vsrc dstFmt round : Nat) (sat : Bool) (s : State) : Result :=
  act s fun d => issue d t g [] (doVcvtPack addr vsrc dstFmt round sat)

/-- W2T codes 0b10 among 128 packed elements are values that VCVT.UNPACK reads; BAD_WEIGHT counts held ones only.
DESIGN CHOICE, unsafe (log 37). -/
def doVcvtUnpack (vdst : Nat) (addr : Opnd) (srcFmt : Nat) (d : Dev) (i : Iss) : Issued :=
  guardOk (opndOk addr && vregOk vdst) <|
    if !decide (1 ≤ srcFmt ∧ srcFmt ≤ 0x0F) then .fault stCvtFormat 0
    else
      let a := (opndVal i i.low addr).val
      let n := packedBytes srcFmt
      orFault (firstFault [consumed i [addr] [i.low],
          sbFault i.seat a n (if srcFmt = 0x0E || srcFmt = 0x0F then 16 else 32)]) <|
        let (d, bs, bad) := sbRead d i.t a n
        if bad then .faultIn d stPoisonConsumed 0
        else
          let v := leNat bs
          .done (setV d i vdst ((List.range 128).map fun l =>
            (fp32Round (elemVal srcFmt (packedElem v (fmtWidth srcFmt) l))).toNat))

/-- VCVT_UNPACK (R230). -/
def execVcvtUnpack (t g vdst : Nat) (addr : Opnd) (srcFmt : Nat) (s : State) : Result :=
  act s fun d => issue d t g [] (doVcvtUnpack vdst addr srcFmt)

/-! ### Block scaling (R226) -/

/-- emax of an element format. -/
def mxEmax (f : Nat) : Int :=
  if f = 4 then 8 else if f = 5 then 15 else if f = 6 then 4 else if f = 7 then 2 else if f = 8 then 2 else 0

/-- The element's own exponent factor: MXINT8 elements count in 2⁻⁶. -/
def mxShift (f : Nat) : Int := if f = 0x0A then 6 else 0

/-- Largest ⌊log₂⌋ of the non-zero finite values. -/
def blockTop (vs : List FVal) : Option Int :=
  vs.foldl (fun acc v => match v with
    | .fin _ m e => if m = 0 then acc else match acc with
      | none => some (topExp m e)
      | some x => some (max x (topExp m e))
    | _ => acc) none

/-- A block of 32: its scale, its elements, what it adds to SAT, and whether it held a NaN or an infinity. -/
def mxBlock (f : Nat) (vs : List FVal) (rs : List Rounding) : Nat × List Converted × Nat :=
  if vs.any fun v => !(match v with
      | .fin _ _ _ => true
      | _ => false) then (0xFF, vs.map fun _ => { x := 0 }, 1)
  else match blockTop vs with
  | none => (0, vs.map fun v => toElem f .rne true v, 0)
  | some top =>
    let x := (clampInt 0 254 (top - mxEmax f + 127)).toNat
    let sc (v : FVal) : FVal := vmul v (.fin false 1 (127 - (x : Int) + mxShift f))
    (x, List.zipWith (fun v rd => toElem f rd true (sc v)) vs rs, 0)

/-- The value of a scaled element (R214, R226, R230).
DEDUCED, unsafe (log 38). -/
def mxVal (f x e : Nat) : Word :=
  if x = 0xFF then 0x7FC00000
  else fp32Round (vmul (elemVal f e) (.fin false 1 ((x : Int) - 127 - mxShift f)))

def doVcvtMx (elemAddr scaleAddr : Opnd) (vsrc fmt round : Nat) (d : Dev) (i : Iss) : Issued :=
  guardOk (opndOk elemAddr && opndOk scaleAddr && vregOk vsrc) <|
    if !(mxFmt fmt && decide (round ≤ 2)) then .fault stCvtFormat 0
    else
      let a := (opndVal i i.low elemAddr).val
      let b := (opndVal i i.low scaleAddr).val
      orFault (firstFault [consumed i [elemAddr, scaleAddr] [i.low], vConsumed i.seat.ctx vsrc, roundFault i round,
          sbFault i.seat a (packedBytes fmt) 32, sbFault i.seat b 4 4]) <|
        let (d, rs) := vroundings d i round
        let vs := (vals i.seat.ctx vsrc).map (elemVal 1)
        let blocks := List.zipWith (mxBlock fmt) (pieces 32 vs) (pieces 32 rs)
        let cs := blocks.flatMap fun b => b.2.1
        let d := countArith d i.t (sumSat cs) ((blocks.map fun b => b.2.2).foldl (· + ·) 0) 0
        let d := sbWrite d i.t a (leBytes (packedBytes fmt) (packElems (fmtWidth fmt) (cs.map (·.x)))) false
        .done (sbWrite d i.t b (blocks.map fun b => BitVec.ofNat 8 b.1) false)

/-- VCVT_MX (R226, R230). -/
def execVcvtMx (t g : Nat) (elemAddr scaleAddr : Opnd) (vsrc fmt round : Nat) (s : State) : Result :=
  act s fun d => issue d t g [] (doVcvtMx elemAddr scaleAddr vsrc fmt round)

/-- VCVT.UNMX: block elements times their scale (R230).
DEDUCED, unsafe (log 38). -/
def doVcvtUnmx (vdst : Nat) (elemAddr scaleAddr : Opnd) (fmt : Nat) (d : Dev) (i : Iss) : Issued :=
  guardOk (opndOk elemAddr && opndOk scaleAddr && vregOk vdst) <|
    if !mxFmt fmt then .fault stCvtFormat 0
    else
      let a := (opndVal i i.low elemAddr).val
      let b := (opndVal i i.low scaleAddr).val
      orFault (firstFault [consumed i [elemAddr, scaleAddr] [i.low], sbFault i.seat a (packedBytes fmt) 32,
          sbFault i.seat b 4 4]) <|
        let (d, es, p1) := sbRead d i.t a (packedBytes fmt)
        let (d, xs, p2) := sbRead d i.t b 4
        if p1 || p2 then .faultIn d stPoisonConsumed 0
        else
          let v := leNat es
          .done (setV d i vdst ((List.range 128).map fun l =>
            (mxVal fmt (leAt xs (l / 32) 1) (packedElem v (fmtWidth fmt) l)).toNat))

/-- VCVT_UNMX (R230). -/
def execVcvtUnmx (t g vdst : Nat) (elemAddr scaleAddr : Opnd) (fmt : Nat) (s : State) : Result :=
  act s fun d => issue d t g [] (doVcvtUnmx vdst elemAddr scaleAddr fmt)

end Sys2Proof.Machine
end

