-- ==== Sys2Proof/Machine/Random.lean ====
section
/-! DEFINITION. The entropy source (R234 to R238, R245) and the draw instructions (R247 to R252, R254). -/
namespace Sys2Proof.Machine
open Sys2Proof

/-! ### The entropy source -/

/-- The source runs: its block is powered and no start-up test or failure holds it back. -/
def entropyRuns (d : Dev) : Bool := blkServes d blkEntropy && !d.entropy.startup && !d.entropy.failed

/-- A run of identical raw bits, and whether 41 in a row have been met, after one more bit (R234). -/
def runNext (r : Bool × Nat × Bool) (b : Bool) : Bool × Nat × Bool :=
  let n := if r.2.1 ≠ 0 && r.1 == b then r.2.1 + 1 else 1
  (b, n, r.2.2 || decide (n ≥ 41))

/-- Raw bits in the order in which they come, each byte from bit 0.
DESIGN CHOICE, unsafe (log 129). -/
def rawBits (raw : List Byte) : List Bool := raw.flatMap fun b => (List.range 8).map (bitAt b.toNat)

/-- Bits of a window that equal its first (R234). -/
def likeFirst (w : List Bool) : Nat := match w with
  | [] => 0
  | b :: _ => w.countP (· == b)

/-- The health tests over a window of 1,024 raw bits: the run after it, and whether they pass (R234). -/
def healthTest (e : Entropy) (raw : List Byte) : (Bool × Nat) × Bool :=
  let bs := rawBits (fitBytes 128 raw)
  let r := bs.foldl runNext (e.runBit, e.runLen, false)
  ((r.1, r.2.1), !r.2.2 && decide (likeFirst bs < 640))

/-- An error response to a read of ENTROPY_DATA while FAILED is 1 (R238). -/
def entropyError (d : Dev) (r : Req) : Dev :=
  emit (logAccess d r stEntropyFail (regOff .entropyData []) false false 8) (.regError r (regOff .entropyData []))

/-- A health test fails (R236): reads that wait are answered with the error response. -/
def failHealth (d : Dev) : Dev :=
  let w := d.entropy.waiting
  let upd (e : Entropy) : Entropy :=
    { e with failed := true, pool := [], fails := min (e.fails + 1) (2 ^ 32 - 1), latched := e.latched || decide (e.fails + 1 ≥ 3),
             startup := false, restart := false, waiting := [] }
  w.foldl entropyError (logErr (modEntropy d upd) stEntropyFail ukStem 0 3)

/-- Whether the source takes raw bits: it runs, or its start-up test does (R234). -/
def entropyTests (d : Dev) : Bool := blkServes d blkEntropy && (d.entropy.startup || !d.entropy.failed)

/-- ENTROPY_CONDITION (R234, R235): 1,024 raw bits are tested; those that pass give 256 bits, unless the pool is full.
Raw bits of the start-up test are tested only.
DESIGN CHOICE, unsafe (log 129). -/
def execEntropyCondition (raw : List Byte) (s : State) : Result :=
  act s fun d =>
    if !entropyTests d then d
    else
      let h := healthTest d.entropy raw
      let d := modEntropy d fun e => { e with runBit := h.1.1, runLen := h.1.2 }
      if !h.2 then failHealth d
      else if entropyRuns d && decide (d.entropy.pool.length < 512) then
        modEntropy d fun e => { e with pool := (e.pool ++ shake256 (fitBytes 128 raw) 32).take 512 }
      else d

/-- ENTROPY_HEALTH_FAIL (R236): a test fails on raw bits that no ENTROPY_CONDITION brings. -/
def execEntropyHealthFail (atStartup : Bool) (s : State) : Result :=
  act s fun d =>
    if blkServes d blkEntropy && (d.entropy.startup == atStartup) && !(d.entropy.failed && !atStartup) then failHealth d
    else d

/-- The rule of ENTROPY_STATUS (R237): a 1 in RESTART starts the source again, unless LATCHED. -/
def writeEntropyStatus (d : Dev) (r : Req) (off bytes : Nat) (v : DWord) : Dev :=
  withWrite d r off bytes v fun d _ _ _ val =>
    if bitAt val 3 && !d.entropy.latched then modEntropy d fun e => { e with restart := true, startup := true, runLen := 0 }
    else d

/-- ENTROPY_RESTART. -/
def execEntropyRestart (r : Req) (off bytes : Nat) (v : DWord) (s : State) : Result :=
  act s fun d => if off / 8 * 8 = regOff .entropyStatus [] then writeEntropyStatus d r off bytes v else d

/-- ENTROPY_STARTUP_DONE (R234, R236, R237): the start-up test passes; the run of identical bits begins anew.
DESIGN CHOICE, unsafe (log 129). -/
def execEntropyStartupDone (s : State) : Result :=
  act s fun d =>
    if blkServes d blkEntropy && d.entropy.startup then
      modEntropy d fun e => { e with startup := false, restart := false, failed := false, runLen := 0 }
    else d

/-- Take 64 bits from the pool for a requester. -/
def entropyTake (d : Dev) (r : Req) : Dev :=
  let v := leNat (d.entropy.pool.take 8)
  emit (modEntropy d fun e => { e with pool := e.pool.drop 8 }) (.regRead r (regOff .entropyData []) (BitVec.ofNat 64 v))

/-- Pooled bits may go out: 64 of them, and no start-up test runs (R234). -/
def entropyGives (d : Dev) : Bool := !d.entropy.startup && decide (d.entropy.pool.length ≥ 8)

/-- The rule of ENTROPY_DATA (R234, R238). -/
def readEntropyData (d : Dev) (r : Req) (off bytes : Nat) : Dev :=
  withRead d r off bytes fun d _ _ =>
    if d.entropy.failed then (entropyError d r, none)
    else if d.entropy.waiting.isEmpty && entropyGives d then (entropyTake d r, none)
    else (modEntropy d fun e => { e with waiting := e.waiting ++ [r] }, none)

/-- ENTROPY_DATA_READ. -/
def execEntropyDataRead (r : Req) (off bytes : Nat) (s : State) : Result :=
  act s fun d => if off / 8 * 8 = regOff .entropyData [] then readEntropyData d r off bytes else d

/-- ENTROPY_DATA_DELIVERED (R238): the read that has waited longest gets its 64 bits. -/
def execEntropyDataDelivered (s : State) : Result :=
  act s fun d => match d.entropy.waiting with
    | [] => d
    | r :: rest =>
      if entropyGives d then entropyTake (modEntropy d fun e => { e with waiting := rest }) r else d

/-! ### Operands of draws (R241, R247, R248) -/

/-- The registers that a draw reads beside its own operands. -/
def seedOpnds (seed : Nat) : List Opnd := [.sreg seed, .sreg (seed + 1)]

def seedOk (seed : Nat) : Bool := seed % 2 == 0 && decide (seed ≤ 30)

def keying (i : Iss) (seed tkey base mode : Nat) : Keying :=
  { lo := BitVec.ofNat 64 (sRegVal i.seat.ctx seed), hi := BitVec.ofNat 64 (sRegVal i.seat.ctx (seed + 1)),
    tkey := BitVec.ofNat 64 tkey, base := bits base 47 0, phys := mode == 1 }

/-- BASE or INDEX leaves bits [63:48] zero. -/
def baseOk (b : Nat) : Bool := decide (b < 2 ^ 48)

/-- Fault with the operand status unless a condition holds. -/
def randOk (ok : Bool) : Option Half := if ok then none else some stRandOperand

/-- Draw for the lanes of a vector instruction. -/
def vdraws (d : Dev) (i : Iss) (k : Keying) (c : Nat) : Dev × List Nat :=
  let (tl, rs) := drawBits (tileOf d i.t) k c ((List.range 128).map fun l => (l, k.base + l))
  (putTile d i.t tl, rs)

/-! ### Draws -/

/-- RAND at issue: one element per lane (R247).
DESIGN CHOICE, unsafe (log 16). -/
def doRand (dst seed : Nat) (tkey index c : Opnd) (mode : Nat) (d : Dev) (i : Iss) : Issued :=
  guardOk (decide (dst < 64) && decide (mode ≤ 1) && [tkey, index, c].all opndOk) <|
    if !seedOk seed then .fault stRandOperand 0
    else orFault (consumed i (seedOpnds seed ++ [tkey, index, c]) i.lanes) <|
      let cv (l : Nat) : Nat := (opndVal i l c).val
      let iv (l : Nat) : Nat := (opndVal i l index).val
      if i.lanes.any fun l => !(baseOk (iv l) && decide (1 ≤ cv l ∧ cv l ≤ 32)) then .fault stRandOperand 0
      else
        let (d, rs) := i.lanes.foldl (fun (acc : Dev × List (Nat × Nat × Bool)) l =>
          let k := keying i seed (opndVal i l tkey).val (iv l) mode
          let (tl, xs) := drawBits (tileOf acc.1 i.t) k (cv l) [(32 * (i.g % 4) + l, k.base)]
          (putTile acc.1 i.t tl, acc.2 ++ [(l, xs.headD 0, false)])) (d, [])
        .done (writeLanes d i (.reg dst) rs)

/-- RAND. -/
def execRand (t g dst seed : Nat) (tkey index : Opnd) (c : Opnd) (mode : Nat) (s : State) : Result :=
  act s fun d => issue d t g [] (doRand dst seed tkey index c mode)

/-- RAND_JUMP (R240, R247). -/
def execRandJump (t g : Nat) (gen : Opnd) (s : State) : Result :=
  act s fun d => issue d t g [] fun d i =>
    guardOk (opndOk gen) <| orFault (consumed i [gen] [i.low]) <|
      let n := (opndVal i i.low gen).val
      let jump (tl : Tile) (k : Nat) : Tile := { tl with gens := tput tl.gens k (genJump (genOf tl k)) }
      if n = 255 then .done (modTile d i.t fun tl => (List.range 128).foldl jump tl)
      else if n ≤ 127 then .done (modTile d i.t fun tl => jump tl n)
      else .fault stRandOperand 0

/-- RAND_PSEED (R244, R245, R247). -/
def execRandPseed (t g seed : Nat) (s : State) : Result :=
  act s fun d => issue d t g [] fun d i =>
    if !seedOk seed then .fault stRandOperand 0
    else orFault (consumed i (seedOpnds seed) [i.low]) <|
      let k := keying i seed 0 0 0
      .done (modTile d i.t fun tl => { tl with gens := seedGens k.lo k.hi i.t })

def doVrandBits (vdst seed : Nat) (tkey base c : Opnd) (mode : Nat) (d : Dev) (i : Iss) : Issued :=
  guardOk (vregOk vdst && decide (mode ≤ 1) && [tkey, base, c].all opndOk) <|
    if !seedOk seed then .fault stRandOperand 0
    else orFault (consumed i (seedOpnds seed ++ [tkey, base, c]) [i.low]) <|
      let v (o : Opnd) : Nat := (opndVal i i.low o).val
      orFault (randOk (baseOk (v base) && decide (1 ≤ v c ∧ v c ≤ 32))) <|
        let (d, rs) := vdraws d i (keying i seed (v tkey) (v base) mode) (v c)
        .done (setV d i vdst rs)

/-- VRAND_BITS (R247). -/
def execVrandBits (t g vdst seed : Nat) (tkey base : Opnd) (c : Opnd) (mode : Nat) (s : State) : Result :=
  act s fun d => issue d t g [] (doVrandBits vdst seed tkey base c mode)

/-- (R + 0.5) × 2⁻²⁴ in FP32. From R = 2²³ on it needs 25 bits, which FP32 does not hold: the result is one of its two
neighbours, at most 1 − 2⁻²⁵; which is a free value.
DESIGN CHOICE, safe (log 37). -/
def unif (r : Nat) : Word :=
  let up := !decide (r = 2 ^ 24 - 1) && bitAt (Config.openValue 247 (BitVec.ofNat 64 r) 0).toNat 0
  fp32Round (.fin false (if r < 2 ^ 23 then 2 * r + 1 else if up then 2 * r + 2 else 2 * r) (-25))

def doVrandUnif (vdst seed : Nat) (tkey base : Opnd) (mode : Nat) (d : Dev) (i : Iss) : Issued :=
  guardOk (vregOk vdst && decide (mode ≤ 1) && [tkey, base].all opndOk) <|
    if !seedOk seed then .fault stRandOperand 0
    else orFault (consumed i (seedOpnds seed ++ [tkey, base]) [i.low]) <|
      let v (o : Opnd) : Nat := (opndVal i i.low o).val
      orFault (randOk (baseOk (v base))) <|
        let (d, rs) := vdraws d i (keying i seed (v tkey) (v base) mode) 24
        .done (setV d i vdst (rs.map fun r => (unif r).toNat))

/-- VRAND_UNIF (R247). -/
def execVrandUnif (t g vdst seed : Nat) (tkey base : Opnd) (mode : Nat) (s : State) : Result :=
  act s fun d => issue d t g [] (doVrandUnif vdst seed tkey base mode)

/-- Q of R247: P × 2²⁴ to nearest even; `none` where P is NaN, below 0 or above 1. -/
def bernQ (p : Word) : Option Nat :=
  match fp32Val p with
  | .fin s m e =>
    if m = 0 then some 0
    else if s || fcmp p 0x3F800000 == some .gt then none
    else some (roundAt .rne m e (-24))
  | _ => none

def doVrandBern (addr p : Opnd) (seed : Nat) (tkey base : Opnd) (mode : Nat) (d : Dev) (i : Iss) : Issued :=
  guardOk (decide (mode ≤ 1) && [addr, p, tkey, base].all opndOk) <|
    if !seedOk seed then .fault stRandOperand 0
    else orFault (consumed i (seedOpnds seed ++ [addr, p, tkey, base]) [i.low]) <|
      let v (o : Opnd) : Nat := (opndVal i i.low o).val
      match bernQ (w32 (v p)) with
      | none => .fault stRandOperand 0
      | some q =>
        orFault (firstFault [randOk (baseOk (v base)), sbFault i.seat (v addr) 16 16]) <|
          let (d, rs) := vdraws d i (keying i seed (v tkey) (v base) mode) 24
          let m := (List.range 128).filter fun l => decide (rs.getD l 0 < q)
          .done (sbWrite d i.t (v addr) (leBytes 16 (ofBitList m)) false)

/-- VRAND_BERN (R247). -/
def execVrandBern (t g : Nat) (addr : Opnd) (p : Opnd) (seed : Nat) (tkey base : Opnd) (mode : Nat) (s : State) :
    Result :=
  act s fun d => issue d t g [] (doVrandBern addr p seed tkey base mode)

/-! ### Categorical draws and sampling -/

/-- Add to RAND_EVENTS (R254). -/
def countRand (d : Dev) (t bad empty : Nat) : Dev :=
  regBump (regBump d .randEvents [t] 31 0 bad) .randEvents [t] 47 32 empty

/-- A weight as R251 takes it, and whether it counts as 0. -/
def weightOf (x : Word) : Word × Bool :=
  match fp32Val x with
  | .fin s m _ => if m = 0 then (0, false) else if s then (0, true) else (x, false)
  | _ => (0, true)

/-- Prefix sums, in order. -/
def prefixSums : List Word → List Word
  | [] => []
  | x :: t => x :: (t.foldl (fun (acc : Word × List Word) y => let s := fadd acc.1 y; (s, acc.2 ++ [s])) (x, [])).2

def isGt (a b : Word) : Bool := fcmp a b == some .gt
def isGe (a b : Word) : Bool := fcmp a b == some .gt || fcmp a b == some .eq

/-- The index that VRAND.CAT returns for a 24-bit draw; `none` when every weight is 0 (R251). -/
def catIndex (ws : List Word) (r : Nat) : Option Nat :=
  let ps := prefixSums ws
  let top := ps.getLastD 0
  if isZeroV (fp32Val top) then none
  else
    let t := fmul (unif r) top
    match ps.findIdx? fun p => isGt p t with
    | some i => some i
    | none => ((ws.mapIdx fun i w => (i, w)).filter fun e => isGt e.2 0).getLast?.map (·.1)

/-- Draw among weights, each with whether it counted as 0, and write the index to every lane; 0xFFFFFFFF where every
weight is 0. -/
def writeCat (d : Dev) (i : Iss) (dst : Nat) (k : Keying) (ws : List (Word × Bool)) : Dev :=
  let (tl, rs) := drawBits (tileOf d i.t) k 24 [(0, k.base)]
  let d := countRand (putTile d i.t tl) i.t (ws.filter (·.2)).length 0
  match catIndex (ws.map (·.1)) (rs.headD 0) with
  | some x => writeAll d i (.reg dst) x
  | none => writeAll (countRand d i.t 0 1) i (.reg dst) 0xFFFFFFFF

def weightsOf (bs : List Byte) : List (Word × Bool) := (pieces 4 bs).map fun b => weightOf (BitVec.ofNat 32 (leNat b))

/-- VRAND.CAT (R247, R251).
DEDUCED, unsafe (log 39). -/
def doVrandCat (dst : Nat) (addr n : Opnd) (seed : Nat) (tkey base : Opnd) (mode : Nat) (d : Dev) (i : Iss) : Issued :=
  guardOk (decide (dst < 64) && decide (mode ≤ 1) && [addr, n, tkey, base].all opndOk) <|
    if !seedOk seed then .fault stRandOperand 0
    else orFault (consumed i (seedOpnds seed ++ [addr, n, tkey, base]) [i.low]) <|
      let v (o : Opnd) : Nat := (opndVal i i.low o).val
      let cnt := v n
      orFault (firstFault [randOk (baseOk (v base) && decide (1 ≤ cnt ∧ cnt ≤ 65536)), sbFault i.seat (v addr) (4 * cnt) 4]) <|
        let (d, bs, bad) := sbRead d i.t (v addr) (4 * cnt)
        if bad then .faultIn d stPoisonConsumed 0
        else .done (writeCat d i dst (keying i seed (v tkey) (v base) mode) (weightsOf bs))

/-- VRAND_CAT (R251). -/
def execVrandCat (t g dst : Nat) (addr n : Opnd) (seed : Nat) (tkey base : Opnd) (mode : Nat) (s : State) : Result :=
  act s fun d => issue d t g [] (doVrandCat dst addr n seed tkey base mode)

/-- A place in the order of FP32 values that are not NaN; the two zeros share one. -/
def fpRank (x : Word) : Nat := if x.toNat ≥ 2 ^ 31 then 2 ^ 31 - (x.toNat - 2 ^ 31) else 2 ^ 31 + x.toNat

/-- Candidates by x descending, then i ascending (R252). -/
def sampleOrder (cs : List (Nat × Word)) : List (Nat × Word) := sortBy (fun c => 2 ^ 33 - fpRank c.2) cs

def fneg (x : Word) : Word := fp32Round (vneg (fp32Val x))
def fsub (a b : Word) : Word := fadd a (fneg b)

/-- The top-p mask: the shortest prefix whose running sum reaches TOP_P × s. -/
def topP (cs : List (Nat × Word)) (topp : Word) : List (Nat × Word) :=
  match cs with
  | [] => []
  | c :: _ =>
    let ps := prefixSums (cs.map fun x => exp2Exact (fmul (fsub x.2 c.2) 0x3FB8AA3B))
    let goal := fmul topp (ps.getLastD 0)
    match ps.findIdx? fun p => isGe p goal with
    | some q => cs.take (q + 1)
    | none => cs

/-- The Gumbel key of a candidate for its draw (R252). -/
def gumbelKey (x : Word) (r : Nat) : Word :=
  let ln2 : Word := 0x3F317218
  fadd x (fneg (fmul ln2 (log2Exact (fneg (fmul ln2 (log2Exact (unif r)))))))

/-- The greatest key, the smallest index on ties. -/
def bestKey (ks : List (Nat × Word)) : Option Nat :=
  (ks.foldl (fun (acc : Option (Nat × Word)) k => match acc with
    | none => some k
    | some b => if isGt k.2 b.2 then some k else if fcmp k.2 b.2 == some .eq && decide (k.1 < b.1) then some k else acc)
    none).map (·.1)

/-- INV_T, TOPK and TOP_P lie in their ranges (R252). -/
def sampleOk (invT topk : Nat) (topp : Word) : Bool :=
  let w := w32 invT
  isFinite (fp32Val w) && isGt w 0 && isGt topp 0 && isGe 0x3F800000 topp && decide (topk ≤ 1024) &&
    (fcmp topp 0x3F800000 == some .eq || decide (1 ≤ topk))

/-- The logits times INV_T, by index. -/
def scaledLogits (bs : List Byte) (invT : Word) : List (Nat × Word) :=
  (pieces 4 bs).mapIdx fun j b => (j, fmul (BitVec.ofNat 32 (leNat b)) invT)

def nanCount (xs : List (Nat × Word)) : Nat := (xs.filter fun x => isNan (fp32Val x.2)).length

/-- The candidates in order: no NaN and not −∞, the TOPK first where TOPK is not 0, then the top-p prefix. -/
def candidates (xs : List (Nat × Word)) (topk : Nat) (tp : Word) : List (Nat × Word) :=
  let cand := sampleOrder (xs.filter fun x => !isNan (fp32Val x.2) && isGt x.2 0xFF800000)
  let cand := if topk > 0 then cand.take topk else cand
  if fcmp tp 0x3F800000 == some .lt then topP cand tp else cand

/-- The index chosen among the candidates, of which the first is `c`: that one where GREEDY is set, else the one of the
greatest key, each candidate drawing the element BASE + its index. -/
def pickSample (tl : Tile) (k : Keying) (greedy : Bool) (c : Nat × Word) (cand : List (Nat × Word)) : Tile × Nat :=
  if greedy then (tl, c.1)
  else
    let es := sortBy (·.1) cand
    let (tl, rs) := drawBits tl k 24 (es.map fun e => (e.1 % 128, k.base + e.1))
    (tl, (bestKey (List.zipWith (fun e r => (e.1, gumbelKey e.2 r)) es rs)).getD c.1)

/-- Sample among candidates and write the index to every lane; 0xFFFFFFFF where there is none. -/
def writeSample (d : Dev) (i : Iss) (dst : Nat) (k : Keying) (greedy : Bool) : List (Nat × Word) → Dev
  | [] => writeAll (countRand d i.t 0 1) i (.reg dst) 0xFFFFFFFF
  | c :: cs =>
    let (tl, x) := pickSample (tileOf d i.t) k greedy c (c :: cs)
    writeAll (putTile d i.t tl) i (.reg dst) x

/-- VSAMPLE (R247, R252).
DEDUCED, unsafe (log 39). -/
def doVsample (dst : Nat) (addr n invT topk topp : Opnd) (greedy : Bool) (seed : Nat) (tkey base : Opnd) (mode : Nat)
    (d : Dev) (i : Iss) : Issued :=
  guardOk (decide (dst < 64) && decide (mode ≤ 1) && [addr, n, invT, topk, topp, tkey, base].all opndOk) <|
    if !seedOk seed then .fault stRandOperand 0
    else orFault (consumed i (seedOpnds seed ++ [addr, n, invT, topk, topp, tkey, base]) [i.low]) <|
      let v (o : Opnd) : Nat := (opndVal i i.low o).val
      let cnt := v n
      let tp := w32 (v topp)
      orFault (firstFault [randOk (baseOk (v base) && decide (1 ≤ cnt ∧ cnt ≤ 65536) && sampleOk (v invT) (v topk) tp),
          sbFault i.seat (v addr) (4 * cnt) 4]) <|
        let (d, bs, bad) := sbRead d i.t (v addr) (4 * cnt)
        if bad then .faultIn d stPoisonConsumed 0
        else
          let xs := scaledLogits bs (w32 (v invT))
          .done (writeSample (countRand d i.t (nanCount xs) 0) i dst (keying i seed (v tkey) (v base) mode) greedy
            (candidates xs (v topk) tp))

/-- VSAMPLE (R252). -/
def execVsample (t g dst : Nat) (addr n invT topk topp : Opnd) (greedy : Bool) (seed : Nat) (tkey base : Opnd)
    (mode : Nat) (s : State) : Result :=
  act s fun d => issue d t g [] (doVsample dst addr n invT topk topp greedy seed tkey base mode)

end Sys2Proof.Machine
end

