-- ==== Sys2Proof/Machine/Xeost.lean ====
section
/-! DEFINITION. The commands and events of Xeost ports, messages, collectives and time transfer (R402 to R435). -/
namespace Sys2Proof.Machine
open Sys2Proof

/-! ### Switches, enabling and training (R403, R405 to R408) -/

def portIx (p : Nat) : List Nat := [p / 8, p % 8]
def switchOpen (d : Dev) (p : Nat) : Bool := nmem (p / 2) d.switches

/-- Set the rate in use. -/
def setRate (d : Dev) (p rate preset : Nat) : Dev :=
  let upd (x : Port) : Port := { x with rate := rate, preset := preset }
  emit (noteSerdes (putXpStatus (modPort d p upd) p 10 8 rate)) (.train p rate preset)

/-- Enter DETECT: TRAIN frames at 56 Gb/s with preset 0. -/
def enterDetect (d : Dev) (p : Nat) : Dev :=
  let upd (x : Port) : Port := { x with triedRate := 0, exchanges := [], echo := none }
  sendTrain (setRate (modPort (enterPort d p .detect) p upd) p 2 0) p

/-- A port that is enabled behind an open switch begins to train. -/
def wakePort (d : Dev) (p : Nat) : Dev :=
  let st := (portOf d p).st
  if st == .disabled || st == .bypassed then
    if portEnabled d p && switchOpen d p then enterDetect d p
    else if switchOpen d p then enterPort d p .disabled
    else d
  else d

/-- A port stops: what it has sent and not been answered ends (R423). -/
def stopPort (d : Dev) (p : Nat) (next : PortSt) : Dev :=
  let st := (portOf d p).st
  if st == .disabled || st == .bypassed then enterPort d p next
  else if st == .active || st == .retrain then linkDown d p next
  else enterPort d p next

/-- A write of XP_CTL (R431). -/
def writeXpCtl (d : Dev) (r : Req) (p off bytes : Nat) (v : DWord) : Dev :=
  if off / 8 * 8 ≠ regOff .xpCtl (portIx p) then d
  else withWrite d r off bytes v fun d t ix mask val =>
    let new := newValue d t ix mask val
    let rate := bits new 10 8
    if rate > 2 || rate < d.limits.maxRate then discard d r stXpField t ix mask
    else
      let d := regPut d .xpCtl ix (putBit new 2 false)
      let d := if bitAt new 0 then wakePort d p
        else if (portOf d p).st == .bypassed then d else stopPort d p .disabled
      if bitAt val 2 && (portOf d p).st == .failed then enterDetect d p else d

/-- PORT_ENABLE (R405): a write that leaves ENABLE 1. -/
def execPortEnable (r : Req) (p off bytes : Nat) (v : DWord) (s : State) : Result :=
  act s fun d => if bitAt (accessValue off bytes v) 0 && !bitAt (accessValue off bytes v) 2 then writeXpCtl d r p off bytes v else d

/-- PORT_DISABLE (R405): a write with ENABLE 0. -/
def execPortDisable (r : Req) (p off bytes : Nat) (v : DWord) (s : State) : Result :=
  act s fun d => if !bitAt (accessValue off bytes v) 0 && !bitAt (accessValue off bytes v) 2 then writeXpCtl d r p off bytes v else d

/-- PORT_RETRAIN_WRITE (R431): a write that sets RETRAIN. -/
def execPortRetrainWrite (r : Req) (p off bytes : Nat) (v : DWord) (s : State) : Result :=
  act s fun d => if bitAt (accessValue off bytes v) 2 then writeXpCtl d r p off bytes v else d

/-- BYPASS_SWITCH_CHANGE (R403): the switch of a pair follows its conditions; the device runs, so its rind dies are
powered and cold reset is released. -/
def execBypassSwitchChange (pair : Nat) (s : State) : Result :=
  act s fun d =>
    if pair ≥ 32 then d
    else
      let a := 2 * pair
      let b := a + 1
      let want := portEnabled d a || portEnabled d b
      if want == nmem pair d.switches then d
      else if want then wakePort (wakePort { d with switches := nadd pair d.switches } a) b
      else stopPort (stopPort { d with switches := ndel pair d.switches } a .bypassed) b .bypassed

/-- The starting preset of a port's temperature band (R527). -/
def bandPreset (d : Dev) (p : Nat) : Nat :=
  1 + (if p % 8 < 4 then regField d .thermRind [p / 8] 11 10 else regField d .thermRind [p / 8] 9 8)

/-- What training tells of the partner (R432, R434, R474). -/
def notePartner (d : Dev) (p : Nat) (f : TrainRec) : Dev :=
  let d := putXpStatus (putXpStatus d p 63 48 f.device) p 47 40 f.port
  let d := regPut d .xpPartner (portIx p)
    (((f.versions % 65536) <<< 48) + ((f.gen % 256) <<< 40) + ((f.maxRate % 256) <<< 32) + ((f.flags % 256) <<< 24))
  match (portOf d p).expectDev with
  | some e => if e = (f.device, f.port) then d else logErr d stXpPartner ukXeost p 3
  | none => d

/-- The median of the exchanges: of an even number, free between the middle two.
DESIGN CHOICE, safe (log 66). -/
def medianRtt (d : Dev) (l : List Nat) : Nat × Dev :=
  let s := sortBy (fun x => x) l
  let lo := s.getD ((s.length - 1) / 2) 0
  let hi := s.getD (s.length / 2) 0
  if lo = hi then (lo, d)
  else let (n, d) := drawNat d; (lo + n % (hi - lo + 1), d)

/-- Record the measurements (R407, R433): d_in is RTT ÷ 2 + (s_in − s_out) ÷ 2 with the skew means, rounded down. -/
def recordMeasure (d : Dev) (p : Nat) : Dev :=
  let x := portOf d p
  if x.exchanges.isEmpty then d
  else
    let (rtt, d) := medianRtt d x.exchanges
    let din : Int := (4 * (rtt : Int) + (x.skewIn : Int) - (x.skewOut : Int)) / 8
    regPut (modPort d p fun x => { x with exchanges := [] }) .xpMeasure (portIx p)
      (((rtt % 2 ^ 24) <<< 40) + (wrapInt 24 din <<< 16) + x.loss % 65536)

/-- The stamp of a frame's arrival at the pins: the copy of the port's rind die in 1/16 tick with the fraction, less the
internal receive delay (R407, R428). -/
def arrivalOf (d : Dev) (p : Nat) (f : Frame) : Nat :=
  (16 * copyAt d.tb (256 + p / 8) + f.frac % 16 + 2 ^ 64 - (d.board.portDelays.getD p (0, 0)).2) % 2 ^ 64

/-- An exchange of records (R407). -/
def noteExchange (d : Dev) (p : Nat) (f : Frame) (x : TrainRec) : Dev :=
  let sum (l : List Nat) : Nat := (l.take 4).foldl (· + ·) 0
  let rtt := (arrivalOf d p f + 2 ^ 65 - x.tEcho - x.tHold) % 2 ^ 64
  let upd (y : Port) : Port := { y with exchanges := (y.exchanges ++ [rtt]).take 64, skewIn := sum f.skew,
                                        skewOut := sum x.skew, loss := f.loss }
  modPort d p upd

/-- Negotiation (R408): this device has header version 1. -/
def negotiate (d : Dev) (p : Nat) (f : TrainRec) : Dev :=
  if bitAt f.versions 0 then
    let cr : Tab Nat := (List.range 5).map fun c => (c, f.credits.getD c 0 % 65536)
    let upd (x : Port) : Port := { clearLink x with credits := cr }
    pumpPort (enterPort (modPort d p upd) p .active) p
  else enterPort (putXpStatus d p 31 16 stVersion.toNat) p .failed

/-! ### Frames received (R409 to R411) -/

/-- The header of a frame (R410). -/
structure Header where
  codes  : List Nat
  rsv    : Bool
  kind   : Nat
  nak    : Bool
  ack    : Nat
  seq    : Nat
  fmt    : Nat
  word1  : Nat
deriving DecidableEq, Repr

def headerOf (f : Frame) : Header :=
  let w0 := leAt f.bytes 0 8
  let w1 := leAt f.bytes 8 8
  let kind := bits w0 54 53
  { codes := (List.range 4).map fun k => bits w0 (2 * k + 57) (2 * k + 56),
    rsv := bitAt w0 55 || bits w0 31 24 != 0 || (kind == 0 && bits w1 63 50 != 0) || (kind == 3 && w1 != 0),
    kind := kind, nak := bitAt w0 52, ack := bits w0 51 42, seq := bits w0 41 32, fmt := bits w0 31 0, word1 := w1 }

def slotBytes (f : Frame) (k : Nat) : List Byte := slice f.bytes (16 + 128 * k) 128

/-- The poison bits of slot `k`: those of the header when KIND is 1, and zero otherwise. -/
def slotPoison (h : Header) (k : Nat) : Nat := if h.kind = 1 then bits h.word1 (16 * k + 15) (16 * k) else 0

/-- A slot passes its CRC (R409). -/
def slotOk (f : Frame) (h : Header) (k : Nat) : Bool := slotCrc (slotBytes f k) (slotPoison h k) == leAt f.bytes (528 + 4 * k) 4

/-- The decoder's flag and the header's prefix, with the reserved fields of the header (R53, R411 steps 1 and 2). The only
header version is 1. -/
def frameOk (f : Frame) (h : Header) : Bool := f.decodeOk && (checkPrefix 0x0601 h.fmt).isNone && !h.rsv

/-- Every slot passes its CRC. -/
def slotsOk (f : Frame) (h : Header) : Bool := (List.range 4).all (slotOk f h)

/-- A frame error (R411, R434): it is counted, and the next header carries NAK. -/
def frameError (d : Dev) (p : Nat) : Dev :=
  sendIdle (modPort (regBump d .xpFec (portIx p) 31 0 1) p fun x => { x with nak := true }) p

/-- The record that a TRAIN frame carries in slot 0 (R406). -/
def trainOf (f : Frame) : TrainRec :=
  let l := slotBytes f 0
  { device := leAt l 0 2, port := leAt l 2 1, gen := leAt l 3 1, versions := leAt l 4 2, maxRate := leAt l 6 1,
    proposed := leAt l 7 1, step := leAt l 8 1, flags := leAt l 9 1, tTx := leAt l 0x10 8, tEcho := leAt l 0x18 8,
    tHold := leAt l 0x20 8, credits := (List.range 5).map fun c => leAt l (0x28 + 2 * c) 2,
    skew := (List.range 4).map fun i => leAt l (0x40 + 2 * i) 2,
    rsv := decide (leAt l 9 1 ≥ 8) || !allZeroAt l 0xA 6 || !allZeroAt l 0x32 14 || !allZeroAt l 0x48 56 ||
      !allZeroAt f.bytes 144 384 }

/-- A record arrives: it is there to be echoed. -/
def noteRecord (d : Dev) (p : Nat) (f : Frame) (x : TrainRec) : Dev :=
  let at' := arrivalOf d p f
  modPort d p fun y => { y with echo := some (x.tTx, at'), rxSkew := f.skew.take 4 }

/-- What a training record does (R405, R406): it moves DETECT on, measures, negotiates, or takes an ACTIVE port down. One
with a reserved field that is not zero is rejected (R20).
DESIGN CHOICE, unsafe (log 65). -/
def takeTraining (d : Dev) (p : Nat) (f : Frame) : Dev :=
  let x := trainOf f
  if x.rsv then logErr d stReserved ukXeost p 3
  else
    let st := (portOf d p).st
    let d := noteRecord d p f x
    match st with
    | .detect =>
      let rate := max (ownProposal d p) x.proposed
      if x.proposed > 2 then d
      else sendTrain (setRate (enterPort (notePartner d p x) p .equalize) p rate (bandPreset d p)) p
    | .measure =>
      let d := noteExchange d p f x
      sendTrain (if (portOf d p).exchanges.length ≥ 64 then enterPort (recordMeasure d p) p .negotiate else d) p
    | .negotiate => negotiate (notePartner d p x) p x
    | .active => enterDetect (linkDown d p .disabled) p
    | .retrain => sendTrain (noteExchange d p f x) p
    | _ => d

/-- A port that receives: it is enabled and has not failed. -/
def hears (st : PortSt) : Bool := !(st == .disabled || st == .bypassed || st == .failed)

/-- Symbols that the decoder corrected (R434). -/
def countCorrected (d : Dev) (p : Nat) (f : Frame) : Dev := regBump d .xpFec (portIx p) 63 32 f.corrected

/-- TRAIN_FRAME (R406, R411): a frame of KIND 3. In DETECT the CRC of slot 0 is what counts. -/
def execTrainFrame (p : Nat) (f : Frame) (s : State) : Result :=
  act s fun d =>
    let h := headerOf f
    let st := (portOf d p).st
    if p ≥ 64 || h.kind ≠ 3 || !hears st then d
    else
      let d := countCorrected d p f
      if !frameOk f h || !(if st == .detect then slotOk f h 0 else slotsOk f h) then frameError d p else takeTraining d p f

/-- EQUALIZE_DONE (R405). -/
def execEqualizeDone (p : Nat) (s : State) : Result :=
  act s fun d => if (portOf d p).st == .equalize then
      sendTrain (enterPort (modPort d p fun x => { x with exchanges := [] }) p .measure) p else d

/-- EQUALIZE_TIMEOUT (R405): the next code, or FAILED. -/
def execEqualizeTimeout (p : Nat) (s : State) : Result :=
  act s fun d =>
    let x := portOf d p
    if x.st ≠ .equalize then d
    else if x.rate < 2 then
      sendTrain (setRate (modPort d p fun x => { x with triedRate := x.rate + 1 }) p (x.rate + 1) (bandPreset d p)) p
    else enterPort (putXpStatus (logErr d stLinkTrain ukXeost p 3) p 31 16 stLinkTrain.toNat) p .failed

/-- FAILED_RETRY_TIMER (R405). -/
def execFailedRetryTimer (p : Nat) (s : State) : Result :=
  act s fun d => if (portOf d p).st == .failed then enterDetect d p else d

/-- The link goes down and the port trains again (R405, R423). -/
def downAndTrain (d : Dev) (p : Nat) : Dev := enterDetect (linkDown d p .disabled) p

/-- SIGNAL_LOSS (R405). -/
def execSignalLoss (p : Nat) (s : State) : Result :=
  act s fun d => if (portOf d p).st == .active then downAndTrain d p else d

/-! ### Frames (R411 to R413) -/

/-- Enter RETRAIN; the third within one second takes the link down instead (R405). -/
def enterRetrain (d : Dev) (p : Nat) : Dev :=
  let ts := ((portOf d p).retrains.filter fun t => decide (d.tb.now < t + 2000000000)) ++ [d.tb.now]
  let d := enterPort (modPort d p fun x => { x with retrains := ts, exchanges := [] }) p .retrain
  let d := lostSource d p
  let d := if tbRole d = 2 && regField d .tbConfig [] 15 8 == p then loseReference d else d
  if ts.length ≥ 3 then downAndTrain (modPort d p fun x => { x with retrains := [] }) p else sendTrain d p

/-- Resend the frames from a sequence number on, in order, each with a header formed afresh (R412); one that has been sent
8 times ends the port's patience (R413). -/
def resendFrom (d : Dev) (p seq : Nat) : Dev :=
  let x := portOf d p
  let fs := x.txFrames.dropWhile fun f => f.seq != seq
  if fs.isEmpty then d
  else if fs.any fun f => decide (f.sent ≥ 8) then enterRetrain d p
  else
    let ss := fs.map (·.seq)
    let upd (x : Port) : Port := { x with txFrames := lmod (fun f => nmem f.seq ss) (fun f => { f with sent := f.sent + 1 }) x.txFrames }
    let d := regBump (modPort d p upd) .xpErrs (portIx p) 31 0 ss.length
    fs.foldl (fun d f => putTxFrame (f.slots.foldl (fun d y => if y.code = 0 then d else hueGrant d (.xtx p) y.hue 128) d) p f) d

def oldestSeq (d : Dev) (p : Nat) : Nat := ((portOf d p).txFrames.head?.map (·.seq)).getD 0

/-- RESEND_TIMEOUT (R412). -/
def execResendTimeout (p : Nat) (s : State) : Result :=
  act s fun d => if (portOf d p).st == .active then resendFrom d p (oldestSeq d p) else d

/-- RETRAIN_DONE (R405): measured again, back to ACTIVE, resending from the oldest frame. -/
def execRetrainDone (p : Nat) (s : State) : Result :=
  act s fun d =>
    if (portOf d p).st ≠ .retrain then d
    else
      let upd (x : Port) : Port := { x with txFrames := x.txFrames.map fun f => { f with sent := 0 } }
      let d := modPort (enterPort (recordMeasure d p) p .active) p upd
      pumpPort (resendFrom d p (oldestSeq d p)) p

/-- RETRAIN_TIMEOUT (R405). -/
def execRetrainTimeout (p : Nat) (s : State) : Result :=
  act s fun d => if (portOf d p).st == .retrain then downAndTrain d p else d

/-- ACK covers every frame up to it.
DESIGN CHOICE, safe (log 9). -/
def takeAck (d : Dev) (p ack : Nat) : Dev :=
  let x := portOf d p
  if x.txFrames.any fun f => f.seq == ack then
    modPort d p fun x => { x with txFrames := (x.txFrames.dropWhile fun f => f.seq != ack).drop 1, ackSeen := ack }
  else d

/-- FREED counts of the partner (R410, R414). -/
def takeFreed (d : Dev) (p w : Nat) : Dev :=
  modPort d p fun x => { x with freedTx := (List.range 5).foldl (fun t c => tput t c (bits w (10 * c + 9) (10 * c))) x.freedTx }

/-- The average of 16 offsets in 1/16 tick, as ticks, to nearest.
DESIGN CHOICE, unsafe (log 50). -/
def averageTicks (l : List Int) : Int := (l.foldl (· + ·) 0 + 128) / 256

/-- A stamp arrives (R428, R429).
DESIGN CHOICE, unsafe (log 50). -/
def takeStamp (d : Dev) (p tTx arrival : Nat) : Dev :=
  let d := modPort d p fun x => { x with stamp := some (tTx, arrival) }
  if !(tbRole d = 2 && regField d .tbConfig [] 15 8 == p) then d
  else
    let din := regField d .xpMeasure (portIx p) 39 16
    let o := sext 64 ((arrival + 2 ^ 65 - tTx % 2 ^ 64 - din) % 2 ^ 64)
    let os := d.tb.offsets ++ [o]
    if os.length < 16 then { d with tb := { d.tb with offsets := os } }
    else
      let d := { d with tb := { d.tb with offsets := [] } }
      let ref := ((d.tb.now : Int) - averageTicks os).toNat
      if regBit d .tbStatus [] 6 then returnReference d ref
      else if !d.tb.locked1 then correctTo d ref
      else slewBy d (averageTicks os)

/-- Hand an assembled message to the rind bridge: a request or relay chunk wakes the device from deep (R505), a request
counts at XRX, and its slots are free, but for those of a
message that is to be forwarded, which are free when it leaves (R395, R414). -/
def handOver (d : Dev) (p : Nat) (m : XMsg) (slots : Nat) : Dev :=
  let d := if isResponse m.op then d else leaveDeep d
  let d := if m.channel = 0 || m.channel = 1 then hueGrants d (.xrx p) (m.hue % 16) (128 * slots) 128 else d
  let here := m.dst == ownNo d || m.op == xoRelay
  let m := if here then m else { m with hold := some (p, m.channel, slots) }
  let upd (x : Port) : Port := { x with
    inbox := x.inbox ++ [m],
    freedRx := if here then tmod 0 x.freedRx m.channel fun n => (n + slots) % 1024 else x.freedRx }
  modPort d p upd

/-- Every message whose data is complete is handed over. -/
def finishAsm (d : Dev) (p : Nat) : Dev :=
  let x := portOf d p
  if x.asmNeed > 0 then d
  else
    let d := modPort d p fun x => { x with asm := [], asmData := [], asmPoison := [] }
    (x.asm.foldl (fun (acc : Dev × List Byte × List Bool × Bool) m =>
      let k := msgSectors m
      let m' := { m with data := acc.2.1.take (128 * k), poison := acc.2.2.1.take (16 * k) }
      (handOver acc.1 p m' (k + acc.2.2.2.toNat), acc.2.1.drop (128 * k), acc.2.2.1.drop (16 * k), false))
      (d, x.asmData, x.asmPoison, true)).1

/-- The descriptors of a descriptor sector; one whose words are all zero is unused (R415, R417). -/
def descsOf (l : List Byte) : List XMsg :=
  ((pieces 4 ((List.range 16).map fun i => BitVec.ofNat 64 (leAt l (8 * i) 8))).filter fun ws => ws.any (· != 0)).map parseDesc

/-- The poison bits of 16 words. -/
def poisonList (n : Nat) : List Bool := (List.range 16).map (bitAt n)

/-- One slot of an accepted frame (R415). -/
def takeSlot (d : Dev) (p : Nat) (f : Frame) (h : Header) (k : Nat) : Dev :=
  let l := slotBytes f k
  match h.codes.getD k 0 with
  | 1 =>
    let ms := descsOf l
    let need := (ms.map msgSectors).foldl (· + ·) 0
    finishAsm (modPort d p fun x => { x with asm := ms, asmNeed := need, asmData := [], asmPoison := [] }) p
  | 2 =>
    if (portOf d p).asmNeed = 0 then d
    else finishAsm (modPort d p fun x => { x with asmNeed := x.asmNeed - 1, asmData := x.asmData ++ l,
                                                  asmPoison := x.asmPoison ++ poisonList (slotPoison h k) }) p
  | _ => d

/-- An idle frame: every slot empty and KIND other than 1 (R410). -/
def isIdle (h : Header) : Bool := h.codes.all (· == 0) && h.kind != 1

/-- What an accepted header delivers. -/
def takeHeader (d : Dev) (p : Nat) (f : Frame) (h : Header) : Dev :=
  let d := takeAck d p h.ack
  let d := if h.kind = 0 then takeFreed d p h.word1
    else if h.kind = 2 then takeStamp d p h.word1 (arrivalOf d p f)
    else d
  let d := if h.nak then resendFrom d p ((h.ack + 1) % 1024) else d
  pumpPort d p

/-- The next frame in sequence is accepted: its header, then its slots, and the partner learns of it. -/
def acceptFrame (d : Dev) (p : Nat) (f : Frame) (h : Header) : Dev :=
  let d := takeHeader (modPort d p fun x => { x with expectSeq := (x.expectSeq + 1) % 1024, lastOk := h.seq, nak := false }) p f h
  sendIdle ((List.range 4).foldl (fun d k => takeSlot d p f h k) d) p

/-- FRAME_RECEIVED (R411), in order; a slot code of 3 is a frame error. Outside ACTIVE only TRAIN frames act.
DESIGN CHOICE, unsafe (log 65). -/
def execFrameReceived (p : Nat) (f : Frame) (s : State) : Result :=
  act s fun d =>
    let h := headerOf f
    let st := (portOf d p).st
    if p ≥ 64 || h.kind = 3 || !hears st then d
    else
      let d := countCorrected d p f
      if !frameOk f h then frameError d p
      else if st ≠ .active then d
      else if isIdle h then takeHeader d p f h
      else if h.seq ≠ (portOf d p).expectSeq then d
      else if !slotsOk f h || nmem 3 h.codes then frameError d p
      else acceptFrame d p f h

/-- STAMP_SEND (R428): an idle frame with the stamp leaves, `frac` sixteenths into a tick, so a frame that needs KIND 1
never defers it. -/
def execStampSend (p frac : Nat) (s : State) : Result :=
  act s fun d =>
    if (portOf d p).st == .active && regBit d .tbStatus [] 5 then
      putFrame d p 2 (portOf d p).txSeq (stampAt d p frac) []
    else d

/-- STAMP_TIMEOUT (R429). -/
def execStampTimeout (s : State) : Result :=
  act s fun d => if tbRole d = 2 then loseReference { d with tb := { d.tb with offsets := [] } } else d

/-! ### Messages (R417, R418) -/

/-- The `n`-th message waiting at a port. -/
def inboxAt (d : Dev) (p n : Nat) : Option XMsg := (portOf d p).inbox[n]?

/-- A message leaves the inbox. -/
def eraseMsg (d : Dev) (p n : Nat) : Dev := modPort d p fun x => { x with inbox := x.inbox.eraseIdx n }

/-- A message is dealt with, and slots that it still held are free (R414). -/
def takeMsg (d : Dev) (p n : Nat) : Dev := match inboxAt d p n with
  | some m => freeHold (eraseMsg d p n) m
  | none => d

/-- Answer and take the message; while the route's read waits the message stays. -/
def answerTake (d0 d : Dev) (p n : Nat) (m : XMsg) (st : Half) (data : List Byte) : Dev :=
  match answer d p m st data with
  | some d => takeMsg d p n
  | none => (routeEntry d0 (p / 8) m.src).1

/-- MESSAGE_FORWARD (R418). -/
def execMessageForward (p n : Nat) (s : State) : Result :=
  act s fun d => match inboxAt d p n with
    | none => d
    | some m =>
      if m.dst = ownNo d || m.op = xoRelay then d
      else
        let fail (d' : Dev) : Dev :=
          if isResponse m.op then takeMsg (undelivered d') p n else answerTake d d' p n m stLinkRoute []
        if !regBit d .xrCfg [] 16 then fail d
        else match routeEntry d (p / 8) m.dst with
          | (d, none) => d
          | (d', some v) =>
            match choosePort d' v m.addr m.src with
            | none => fail d'
            | some q =>
              if m.hops ≥ 31 then fail d'
              else queueMsg (eraseMsg d' p n) q { m with hops := m.hops + 1, channel := dateline v m.channel }

/-! ### Requests at the target (R420, R426) -/

/-- Step 1 of R420.
DESIGN CHOICE, unsafe (log 67). -/
def fieldBad (m : XMsg) : Bool :=
  let w := fmtWidth m.fmt / 8
  m.channel > 1 || m.rsv || m.hue > 15 || m.status ≠ 0 || m.len = 0 || m.len > 4096 || decide (m.addr % 4096 + m.len > 4096) ||
    !(m.coll == 0xFFFF || decide (m.coll < 128)) ||
    (if m.op = xoCombine then
       !combineFmt m.fmt || !(m.combine == 1 || m.combine == 2) || m.addr % w != 0 || m.len % w != 0
     else m.fmt != 0 || m.combine != 0) ||
    (m.op == xoRead && m.coll != 0xFFFF) || !(m.op == xoWrite || m.op == xoCombine || m.op == xoRead)

/-- A valid window permits the operation on the whole range (R421). -/
def windowOk (d : Dev) (m : XMsg) : Bool := (List.range 8).any fun n =>
  let v := regGet d .xrWindow [n]
  let base := bits v 39 20 <<< 20
  bitAt v 63 && bitAt v (if m.op = xoRead then 62 else 61) && decide (base ≤ m.addr) &&
    decide (m.addr + m.len ≤ base + (bits v 60 40 <<< 20))

/-- The collective checks (R426, R507). -/
def collCheck (d : Dev) (m : XMsg) : Option Half :=
  let r := m.coll / 16
  let n := m.coll % 16
  let c := collOf d r n
  let base := regGet d .xcBase [r, n]
  if !blkServes d (blkColl r) then some stBlockGated
  else if m.addr < base || m.addr + m.len > base + regGet d .xcSize [r, n] then some stXoWindow
  else if c.st ≠ .openSt then some stCollClosed
  else if c.received + m.len > regGet d .xcExpect [r, n] then some stCollOver
  else none

/-- The checks of R420, in order.
DESIGN CHOICE, unsafe (log 67). -/
def requestCheck (d : Dev) (m : XMsg) : Option Half :=
  if fieldBad m then some stXoField
  else if !backed d m.addr m.len then some stUnbacked
  else if m.coll ≠ 0xFFFF then collCheck d m
  else if !windowOk d m then some stXoWindow
  else none

/-- Log a poisoned access of a peer (R364). -/
def logPeerPoison (d : Dev) (p : Nat) (m : XMsg) : Dev :=
  logErr d stPoison ukXeost p 2 (m.addr + (m.src <<< 48))

/-- Bytes performed are counted; a complete count publishes and chains (R425): `none` while the completion write
waits. -/
def countColl (d : Dev) (m : XMsg) : Option Dev :=
  if m.coll = 0xFFFF then some d
  else
    let r := m.coll / 16
    let n := m.coll % 16
    let c := collOf d r n
    let got := c.received + m.len
    let put (d : Dev) (st : CollSt) : Dev := { d with colls := tput d.colls (collKey r n) { c with received := got, st := st } }
    if got < regGet d .xcExpect [r, n] then some (put d .openSt)
    else
      let a := regGet d .xcCompl [r, n]
      if a = 0 then some (startNexts (put d .done) r)
      else match devWrite d (.mover r) a (leBytes 8 ((stOk.toNat <<< 48) + got % 2 ^ 41)) with
        | (d, true) => some (startNexts (put d .done) r)
        | (_, false) => none

/-- The runs of a write with one poison mark each. -/
def msgRuns (m : XMsg) : List (Nat × List Byte × Bool) :=
  let bs := rangeBytes m
  writeRuns m.len (fun _ => true) (wordPoison m) fun i => bs.getD i 0

/-- Perform a WRITE: `none` while a line waits. -/
def performWrite (d : Dev) (m : XMsg) : Option Dev :=
  (msgRuns m).foldl (fun acc e => acc.bind fun d =>
    match devWrite d (.peer m.src) (m.addr + e.1) e.2.1 e.2.2 with
    | (d, true) => some d
    | (_, false) => none) (some d)

/-- Perform a COMBINE, one element at a time: `none` while a line waits; says whether a word was poisoned. -/
def performCombine (d : Dev) (m : XMsg) : Option (Dev × Bool) :=
  let w := fmtWidth m.fmt / 8
  let bs := rangeBytes m
  (List.range (m.len / w)).foldl (fun acc k => acc.bind fun (d, bad) =>
    let a := m.addr + w * k
    let v := leAt bs (w * k) w
    if wordPoison m (w * k) then
      match sectorWrite d (.peer m.src) a (peekBytes d (.peer m.src) a w) true with
      | (d, true) => some (d, bad)
      | (_, false) => none
    else match devAtomic d (.peer m.src) a w (fun old => combineElem m.combine m.fmt old v) false with
      | (d, some (_, q)) => some (d, bad || q)
      | (_, none) => none) (some (d, false))

/-- A request of one of the operations `ops` at the head of its turn: checked, performed and answered. `f` performs
it: the device, a status and the data of the response, or `none` while it waits.
DESIGN CHOICE, unsafe (log 67). -/
def serveRequest (d : Dev) (p n : Nat) (mine : Nat → Bool) (write : Bool) (f : Dev → XMsg → Option (Dev × Half × List Byte)) : Dev :=
  match inboxAt d p n with
  | none => d
  | some m =>
    if m.dst ≠ ownNo d || !mine m.op then d
    else match requestCheck d m with
      | some st => answerTake d d p n m st []
      | none =>
        let h := d.hue
        match f (withHue d m.hue) m with
        | none => startSnoops (startSnoops d (.peer m.src) m.addr m.len write) (.mover (m.coll / 16))
            (if m.coll = 0xFFFF then 0 else regGet d .xcCompl [m.coll / 16, m.coll % 16]) (if m.coll = 0xFFFF then 0 else 8) true
        | some (d', st, data) =>
          let d' := if st = stPoison then logPeerPoison d' p m else d'
          answerTake d (withHue d' h) p n m st data

/-- WRITE (R420); a message with an operation that no row names is answered here with its error. -/
def execWrite (p n : Nat) (s : State) : Result :=
  act s fun d => serveRequest d p n
    (fun op => !(nmem op [xoCombine, xoRead, xoWriteAck, xoReadData, xoRelay])) true fun d m =>
      (performWrite d m).bind fun d => (countColl d m).map fun d => (d, stOk, [])

/-- COMBINE (R417, R420). -/
def execCombine (p n : Nat) (s : State) : Result :=
  act s fun d => serveRequest d p n (fun op => op == xoCombine) true fun d m =>
    (performCombine d m).bind fun (d, bad) => (countColl d m).map fun d => (d, if bad then stPoison else stOk, [])

/-- READ (R420). -/
def execRead (p n : Nat) (s : State) : Result :=
  act s fun d => serveRequest d p n (fun op => op == xoRead) false fun d m =>
    match devRead d (.peer m.src) m.addr m.len with
    | (_, none) => none
    | (d, some (bs, bad)) => some (d, if bad then stPoison else stOk, if bad then [] else bs)

/-! ### Responses (R422) -/

/-- The status of a response: that of its descriptor, but ST_XO_FIELD where a reserved field of it is not zero (R20).
DESIGN CHOICE, unsafe (log 67). -/
def respStatus (m : XMsg) : Nat := if m.rsv then stXoField.toNat else m.status

/-- A response whose request has ended. -/
def lateResponse (d : Dev) (p n : Nat) : Dev := takeMsg (regBump d .xrCounts [] 15 0 1) p n

def requestOf (d : Dev) (tag : Nat) (isRead : Bool) : Option XReq :=
  d.requests.find? fun q => q.tag == tag && q.isRead == isRead

/-- WRITE_ACK (R417, R422). -/
def execWriteAck (p n : Nat) (s : State) : Result :=
  act s fun d => match inboxAt d p n with
    | none => d
    | some m =>
      if m.dst ≠ ownNo d || m.op ≠ xoWriteAck then d
      else match requestOf d m.tag false with
        | none => lateResponse d p n
        | some q =>
          let d := takeMsg d p n
          pumpAll (if respStatus m = 0 then dropRequest d q else endRequest d q (BitVec.ofNat 16 (respStatus m)))

/-- READ_DATA (R417, R422): the data goes to the transfer's destination; a PREFETCH drops it. In a compute reset no mover
writes (R279), and the message waits. -/
def execReadData (p n : Nat) (s : State) : Result :=
  act s fun d => match inboxAt d p n with
    | none => d
    | some m =>
      if m.dst ≠ ownNo d || m.op ≠ xoReadData || d.creset.active then d
      else match requestOf d m.tag true with
        | none => lateResponse d p n
        | some q =>
          if respStatus m ≠ 0 then pumpAll (endRequest (takeMsg d p n) q (BitVec.ofNat 16 (respStatus m)))
          else
            let bs := rangeBytes { m with addr := q.addr, len := q.len }
            match d.xfers.find? fun x => x.id == q.xfer && x.st == .active with
            | none => pumpAll (dropRequest (takeMsg d p n) q)
            | some x =>
              match landRead d x q (fun i => (bs.getD i 0).toNat) (fun i => wordPoison { m with addr := q.addr } i) with
              | some d => pumpAll (dropRequest (takeMsg d p n) q)
              | none => match x.cmd.dst with
                | some y => startSnoops d (.mover x.rind) ((dstBit x.cmd y q.first).getD 0 / 8) q.len true
                | none => d

/-- RELAY (R430): never forwarded; handed to the stem die where the port has RELAY set. One with a reserved field that is
not zero is dropped: it has no response to carry a status (R20).
DESIGN CHOICE, unsafe (log 67). -/
def execRelay (p n : Nat) (s : State) : Result :=
  act s fun d => match inboxAt d p n with
    | none => d
    | some m =>
      if m.op ≠ xoRelay then d
      else
        let d := takeMsg d p n
        if regBit d .xpCtl (portIx p) 1 && !m.rsv then grapevineChunk d p m.tag m.addr (rangeBytes m) else undelivered d

/-- REQUEST_TIMEOUT (R422). -/
def execRequestTimeout (tag : Nat) (s : State) : Result :=
  act s fun d => match d.requests.find? fun q => q.tag == tag with
    | none => d
    | some q =>
      if d.tb.now < q.sent + usTicks * regField d .xrTimeout [] 19 0 then d else pumpAll (endRequest d q stLinkTimeout)

/-! ### Collectives (R425, R427) -/

/-- The fields of an entry are valid (R427). -/
def collFieldsOk (d : Dev) (r n : Nat) : Bool :=
  let base := regGet d .xcBase [r, n]
  let size := regGet d .xcSize [r, n]
  let exp := regGet d .xcExpect [r, n]
  base % 4096 == 0 && size % 4096 == 0 && decide (4096 ≤ size) && decide (size ≤ 2 ^ 40) && decide (1 ≤ exp) &&
    decide (exp ≤ size) && regGet d .xcCompl [r, n] % 8 == 0 && decide (base + size ≤ 2 ^ 48)

def putColl (d : Dev) (r n : Nat) (c : Coll) : Dev := { d with colls := tput d.colls (collKey r n) c }

/-- An entry is ARMED with its checked NEXT, at once or, while the unit is ON_PENDING, when it is ON (R508). -/
def setArmed (d : Dev) (r n : Nat) (next : Option MoverCmd) : Dev :=
  if blkState d (blkColl r) == .onPending then
    putColl d r n { collOf d r n with held := some { st := .armed, arm := true, next := next } }
  else putColl d r n { st := .armed, next := next }

/-- ARM: `none` while the read of NEXT waits. -/
def armColl (d : Dev) (r n : Nat) : Dev × Option (Option Half) :=
  let c := collTarget (collOf d r n)
  if c == .armed || c == .openSt then (d, some (some stCollState))
  else if !collFieldsOk d r n then (d, some (some stXpField))
  else
    let nx := regGet d .xcNext [r, n]
    if !bitAt nx 63 then (setArmed d r n none, some none)
    else match fetchMover d r (bits nx 47 0) none with
      | (d, none) => (d, none)
      | (d, some (.error _)) => (d, some (some stXpField))
      | (d, some (.ok m)) => (setArmed d r n (some m), some none)

/-- A write of XC_CTL: ARM, then OPEN, then DISARM. A failed ARM discards the whole write (R425); one whose read of NEXT
must wait is taken up again.
DESIGN CHOICE, unsafe (log 65). -/
def xcCtlRule (d : Dev) (r : Req) (t : RegDef) (ix : List Nat) (mask val : Nat) : Dev :=
  let k := ix.headD 0
  let n := ix.getD 1 0
  let bad (d : Dev) (st : Half) : Dev := discard d r st t ix mask
  if (bitAt val 0 || bitAt val 1) && !blkAccepts d (blkColl k) then bad d stBlockGated
  else
    match (if bitAt val 0 then armColl d k n else (d, some none)) with
    | (d, none) => waitFor d (.xcCtlArm r k n 8 (BitVec.ofNat 64 val))
    | (d, some (some st)) => bad d st
    | (d, some none) =>
    let d := if bitAt val 1 then (let (d, ok) := openColl d k n; if ok then d else bad d stCollState) else d
    if bitAt val 2 && ((collOf d k n).st == .armed || (collOf d k n).st == .openSt) then
      putColl d k n { collOf d k n with st := .idle, next := none, held := none }
    else if bitAt val 2 then putColl d k n { collOf d k n with held := none }
    else d

/-- A write of XC_CTL under its rule (R425).
DESIGN CHOICE, unsafe (log 65). -/
def writeXcCtl (d : Dev) (r : Req) (rind entry bytes : Nat) (v : DWord) : Dev :=
  withWrite d r (regOff .xcCtl [rind % 8, entry % 16]) bytes v fun d t ix mask val => xcCtlRule d r t ix mask val

/-- XC_CTL_ARM (R425). -/
def execXcCtlArm (r : Req) (rind entry bytes : Nat) (v : DWord) (s : State) : Result :=
  act s fun d => if bitAt v.toNat 0 then writeXcCtl d r rind entry bytes v else d

/-- XC_CTL_OPEN (R425). -/
def execXcCtlOpen (r : Req) (rind entry bytes : Nat) (v : DWord) (s : State) : Result :=
  act s fun d => if bitAt v.toNat 1 && !bitAt v.toNat 0 then writeXcCtl d r rind entry bytes v else d

/-- XC_CTL_DISARM (R425). -/
def execXcCtlDisarm (r : Req) (rind entry bytes : Nat) (v : DWord) (s : State) : Result :=
  act s fun d => if !bitAt v.toNat 0 && !bitAt v.toNat 1 then writeXcCtl d r rind entry bytes v else d

/-! ### XR_ROUTE (R435) -/

/-- A table or ring in device memory overlaps a pip-aligned region, a KR_TLR range or a loaded canvas's spill area. -/
def overlapsRegions (d : Dev) (a n : Nat) : Bool :=
  ((List.range 16).any fun k => match pipRegion d k with
    | some x => let (b, s) := pipRange d x; overlaps a n b s
    | none => false) ||
  ((List.range 16).any fun k => tlrValid d k && (let (b, s) := tlrSpan (regGet d .krTlr [k]); overlaps a n b s)) ||
  d.canvases.any fun c => overlaps a n c.2.spillBase c.2.spillSize

/-- A write of XR_ROUTE. -/
def writeXrRoute (d : Dev) (r : Req) (off bytes : Nat) (v : DWord) : Dev :=
  if off / 8 * 8 ≠ regOff .xrRoute [] then d
  else withWrite d r off bytes v fun d t ix mask val =>
    let new := newValue d t ix mask val
    let base := bits new 47 19 <<< 19
    if !backed d base 0x80000 || overlapsRegions d base 0x80000 then discard d r stXpField t ix mask
    else
      let d := regPut d .xrRoute ix (putBit new 0 false)
      if bitAt val 0 then { d with routes := [] } else d

/-- ROUTE_INVAL (R435): a write that sets INVAL. -/
def execRouteInval (r : Req) (off bytes : Nat) (v : DWord) (s : State) : Result :=
  act s fun d => if bitAt (accessValue off bytes v) 0 then writeXrRoute d r off bytes v else d

end Sys2Proof.Machine
end

