-- ==== Sys2Proof/Machine/Blocks.lean ====
section
/-! DEFINITION. Gated blocks (R507 to R510, R617, R618). -/
namespace Sys2Proof.Machine
open Sys2Proof

def setBlk (d : Dev) (k : Nat) (st : BlkSt) : Dev := { d with blocks := tput d.blocks k st }

/-- Enable written 1. -/
def turnOn (d : Dev) (k : Nat) : Dev := match blkState d k with
  | .off => setBlk d k .waking
  | .draining => setBlk d k .onPending
  | _ => d

/-- Enable written 0. -/
def turnOff (d : Dev) (k : Nat) : Dev := match blkState d k with
  | .waking => setBlk d k .off
  | .on => setBlk d k .draining
  | .onPending => setBlk d k .draining
  | _ => d

/-- Some tile of the quadrant is seated by a loaded canvas. -/
def quadInUse (d : Dev) (q : Nat) : Bool := d.tiles.any fun e => quadOf e.1 == q && e.2.canvas.isSome

/-- The rule of BLK_ENABLE (R617): each block whose bit changes acts, or the whole write is discarded. -/
def writeBlkEnable (d : Dev) (r : Req) (off bytes : Nat) (v : DWord) : Dev :=
  withWrite d r off bytes v fun d t ix mask val =>
    let old := regGet d .blkEnable
    let new := newValue d t ix mask val
    if (List.range 4).any fun q => bitAt old q && !bitAt new q && quadInUse d q then
      logAccess d r stBlockInUse off false true bytes
    else
      let d := regPut d .blkEnable [] new
      (List.range 31).foldl (fun d k =>
        if bitAt new k == bitAt old k then d else if bitAt new k then turnOn d k else turnOff d k) d

/-- Bits of BLK_ENABLE that a write would change to `b`. -/
def enableChanges (d : Dev) (off bytes : Nat) (v : DWord) (b : Bool) : Bool :=
  let m := accessMask off bytes
  let val := accessValue off bytes v
  (List.range 31).any fun k => bitAt m k && bitAt val k == b && bitAt (regGet d .blkEnable) k != b

/-- BLOCK_ENABLE. -/
def execBlockEnable (r : Req) (off bytes : Nat) (v : DWord) (s : State) : Result :=
  act s fun d =>
    if off / 8 * 8 = regOff .blkEnable [] && enableChanges d off bytes v true then writeBlkEnable d r off bytes v else d

/-- BLOCK_DISABLE. -/
def execBlockDisable (r : Req) (off bytes : Nat) (v : DWord) (s : State) : Result :=
  act s fun d =>
    if off / 8 * 8 = regOff .blkEnable [] && enableChanges d off bytes v false then writeBlkEnable d r off bytes v else d

/-- The unit of a block: quadrant, mover, pip sequencer, collective unit, or one of the single ones. -/
inductive BlkKind where
  | quad (q : Nat)
  | mover (r : Nat)
  | pip (r : Nat)
  | coll (r : Nat)
  | entropy
  | sweep
  | telem
deriving DecidableEq, Repr

def blkKind (k : Nat) : BlkKind :=
  if k < 4 then .quad k else if k < 12 then .mover (k - 4) else if k < 20 then .pip (k - 12)
  else if k < 28 then .coll (k - 20) else if k = 28 then .entropy else if k = 29 then .sweep else .telem

/-- Tiles of a quadrant. -/
def quadTiles (q : Nat) : List Nat := (List.range 256).filter fun t => quadOf t == q

/-- A tile that gets power: it starts fresh, its generators from a seed of the entropy source (R245, R507).
DESIGN CHOICE, unsafe (log 86). -/
def powerTile (d : Dev) (t : Nat) : Dev := if (tileOf d t).present then resetTile [] d t else d

/-- Power-up of a block is done: what it starts from. -/
def startBlock (d : Dev) (k : Nat) : Dev := match blkKind k with
  | .quad q => (quadTiles q).foldl powerTile d
  | .entropy => modEntropy d fun e => { e with
      pool := [], startup := !e.latched, restart := false, waiting := [], runLen := 0 }
  | _ => d

/-- BLOCK_POWERED_UP: a quadrant waits for the seeds of its tiles while the start-up test of the source runs.
DESIGN CHOICE, safe (log 40). -/
def execBlockPoweredUp (k : BlockIx) (s : State) : Result :=
  act s fun d => if k < 31 && blkState d k == .waking && !(decide (k < 4) && seedsWait d) then startBlock (setBlk d k .on) k else d

/-- A port holds a message that names an entry of the collective unit.
DESIGN CHOICE, unsafe (log 68). -/
def collMessage (d : Dev) (r : Nat) : Bool :=
  d.ports.any fun e => e.2.inbox.any fun m => m.coll != 0xFFFF && m.coll / 16 == r && m.dst == regField d .xrCfg [] 15 0

/-- The drain of R507 is complete; work held for ON is no part of it.
DESIGN CHOICE, unsafe (log 68). -/
def drained (d : Dev) (k : Nat) : Bool := match blkKind k with
  | .mover r => (d.xfers.all fun x => x.rind != r || x.st == .reserved || x.held) && d.prefetches.all fun p => p.rind != r
  | .pip r => d.sessions.all fun e => e.2.held || !(bitAt e.2.desc.stackMask (2 * r) || bitAt e.2.desc.stackMask (2 * r + 1))
  | .coll r => !collMessage d r
  | .sweep => d.sweeps.all fun e => e.2.held
  | _ => true

/-- Take what an ARM or OPEN held in an entry left to do (R508).
DESIGN CHOICE, unsafe (log 68). -/
def releaseColl (c : Coll) : Coll := match c.held with
  | none => c
  | some h => if h.arm then { st := h.st, next := h.next } else { c with st := if c.st == .armed then h.st else c.st, held := none }

/-- Work held for ON begins (R508). A session is let go when every sequencer that it needs is ON.
DESIGN CHOICE, unsafe (log 86). -/
def releaseHeld (d : Dev) (k : Nat) : Dev := match blkKind k with
  | .mover r => { d with xfers := lmod (fun x => x.rind == r) (fun x => { x with held := false }) d.xfers }
  | .pip _ => { d with sessions := tmap (fun _ x => { x with held := x.held && sessPending d x.desc }) d.sessions }
  | .coll r => { d with colls := tmap (fun i c => if i / 16 == r then releaseColl c else c) d.colls }
  | .sweep => { d with sweeps := tmap (fun _ x => { x with held := false }) d.sweeps }
  | _ => d

/-- The registers of a block return to their reset values as its power goes.
DESIGN CHOICE, unsafe (log 86). -/
def dropRegs (d : Dev) (k : Nat) : Dev := { d with regs := d.regs.filter fun e => regBlock e.1 != some k }

/-- Work that a block accepted for ON and can no longer do ends with ST_BLOCK_GATED.
DESIGN CHOICE, unsafe (log 86). -/
def endHeld (d : Dev) (k : Nat) : Dev := match blkKind k with
  | .mover r =>
    (d.xfers.filter fun x => x.rind == r && x.st != .reserved).foldl (fun d x =>
      let x := { x with st := .failing, status := stBlockGated, place := (freePlace d r).getD 16 }
      endXfer { d with xfers := lmod (fun y => y.id == x.id) (fun _ => x) d.xfers } x stBlockGated) d
  | .pip r =>
    (d.sessions.filter fun e => bitAt e.2.desc.stackMask (2 * r) || bitAt e.2.desc.stackMask (2 * r + 1)).foldl
      (fun d e => finishSession d e.1 { e.2 with status := stBlockGated }) d
  | .sweep => d.sweeps.foldl (fun d e => completeOpt { d with sweeps := tdel d.sweeps e.1 } e.2.op stBlockGated) d
  | _ => d

/-- Powers down: state that is not kept is lost.
DESIGN CHOICE, unsafe (log 42). -/
def powerDown (d : Dev) (k : Nat) : Dev :=
  let d := dropRegs (endHeld (setBlk d k .off) k) k
  match blkKind k with
  | .quad q => (quadTiles q).foldl (fun d t => modTile d t fun tl => { physCol := tl.physCol, present := tl.present }) d
  | .coll r => { d with colls := tfilter (fun i _ => i / 16 != r) d.colls }
  | .entropy =>
    let w := d.entropy.waiting
    let off := regOff .entropyData []
    w.foldl (fun d r => emit (logAccess d r stBlockGated off false false 8) (.regError r off))
      (modEntropy d fun e => { e with pool := [], startup := false, restart := false, waiting := [] })
  | _ => d

/-- BLOCK_DRAIN_COMPLETE. Commands of one tick stand in the order in which they happen, so an enable written in that tick
stands before it (R618).
DESIGN CHOICE, unsafe (log 117). -/
def execBlockDrainComplete (k : BlockIx) (s : State) : Result :=
  act s fun d =>
    if k ≥ 31 || !drained d k then d
    else match blkState d k with
      | .draining => powerDown d k
      | .onPending => releaseHeld (setBlk d k .on) k
      | _ => d

def blkCode : BlkSt → Nat
  | .off => 0
  | .waking => 1
  | .on => 2
  | .draining => 3
  | .onPending => 4

/-- BLK_STATE0 (blocks 0 to 19) and BLK_STATE1 (blocks 20 to 30) as they read (R619). -/
def blkStateWord (d : Dev) (lo n : Nat) : Nat :=
  ((List.range n).map fun i => blkCode (blkState d (lo + i)) <<< (3 * i)).foldl (· + ·) 0

end Sys2Proof.Machine
end

