-- ==== Sys2Proof/Machine/FirmwareCmds.lean ====
section
/-! DEFINITION. Firmware and attestation commands (R564 to R588): keys, staging, activation, image starts, core restarts,
trials, Grapevine offers, and the SPDM responder. -/
namespace Sys2Proof.Machine
open Sys2Proof

/-! ### Fleet keys (R568, R569) -/

/-- The device digest (R562): of the identity public key. -/
def deviceDigest (idPub : List Byte) : List Byte := shake256 idPub 32

/-- Unwrap one entry of the fleet key store. An entry that is not valid is empty; one with a reserved byte that is not zero
(R20), or that fails its tag, is logged.
DESIGN CHOICE, unsafe (log 98). -/
def unwrapKey (d : Dev) (i : Nat) : Dev :=
  let e := nvmBytes d (0x11D000 + 128 * i) 128
  match deviceKey d "VZ1 WRAP" 56 with
  | none => d
  | some w =>
    if leAt e 0 1 ≠ 1 then d
    else if !allZeroAt e 1 7 || !allZeroAt e 0x70 16 then fwFail d stReserved
    else
      let k := kmac256 (Config.x448 w (slice e 8 56)) d.fw.digest (ascii "VZ1 FLEET") 32
      match Config.aesGcmOpen k (List.replicate 12 0) (slice e 0x60 16) (e.take 0x40) (slice e 0x40 32) with
      | some c => modFw d fun f => { f with fleetKeys := tput f.fleetKeys i c }
      | none => fwFail d stFwKey

def unwrapKeys (d : Dev) : Dev := [0, 1, 2, 3].foldl unwrapKey (modFw d fun f => { f with fleetKeys := [] })

/-! ### Image starts (R572) -/

/-- The plaintext body of the image in slot `n`, when every check of an image start passes. -/
def slotBody (d : Dev) (n : Nat) : Option (List Byte) :=
  let l := nvmBytes d (slotBase n) 1024
  let p := parsePrelude l
  if p.size < 1040 || p.size > 0x1000000 then none
  else (deviceKey d "VZ1 STORE" 32).bind fun k =>
    (Config.aesGcmOpen k p.iv p.tag (imageAad l) (nvmBytes d (slotBase n + 0x400) (p.size - 0x400))).bind fun b =>
      if shake256 b 64 == p.digest && signerOk l && Config.ed448Verify (slice l 0x140 57) (signedBytes l) (slice l 0x200 114) &&
          decide (p.svn ≥ d.fw.svnFloor) then some b else none

/-- Start the image in slot `n`, and whether it starts; it is measured (R565 index 2). -/
def startImage (d : Dev) (n : Nat) : Dev × Bool := match slotBody d n with
  | none => (d, false)
  | some b => (setMeasure (modFw d fun f => { f with running := true, coreMem := b }) 2 (shake256 b 64), true)

/-- Stop the control cores and discard their state and the records in their windows (R576).
DESIGN CHOICE, unsafe (log 102). -/
def stopCores (d : Dev) : Dev :=
  { d with resv := [], coreWins := tmap (fun _ w => { w with record := 0 }) d.coreWins,
           fw := { d.fw with running := false, coreMem := [], transcript := [] } }

/-- Slot `n` becomes active and goes on trial (R577).
DESIGN CHOICE, unsafe (log 100). -/
def beginTrial (d : Dev) (n : Nat) : Dev :=
  changeSlots d fun f => setFwSlot n { tget {} f.slots n with st := .trial } { f with active := n, ttime := d.tb.now, actT := 0, offersLeft := 0 }

/-- The trial of slot `n` is over: the slot is empty and the other one active (R577).
DESIGN CHOICE, unsafe (log 100). -/
def endTrial (d : Dev) (n : Nat) : Dev := changeSlots d fun f => setFwSlot n {} { f with active := 1 - n, actT := 0 }

/-- CORE_RESTART (R576, R577): at T the pending image starts on trial; when it fails to start, the other one starts.
DESIGN CHOICE, unsafe (log 102). -/
def execCoreRestart (s : State) : Result :=
  act s fun d =>
    let n := inactiveSlot d
    if (fwSlot d n).st != .pendingSt || d.fw.actT = 0 || d.tb.now < d.fw.actT then d
    else
      match startImage (beginTrial (stopCores d) n) n with
      | (d, true) => moveSvcs d
      | (d, false) =>
        let op := d.fw.actOp
        let d := completeOpt (endTrial (modFw d fun f => { f with actOp := none }) n) op stFwFallback
        match startImage d (1 - n) with
        | (d, true) => moveSvcs d
        | (d, false) => fwFail d stFwNone

/-- The active slot is on trial and the time since TTIME is within HEALTH_S. -/
def inTrial (d : Dev) : Bool :=
  let x := fwSlot d d.fw.active
  x.st == .trial && decide (d.tb.now ≤ d.fw.ttime + x.healthS * 1000 * msTicks)

/-- HEALTH_TIMEOUT (R577): the window has passed; the other slot is active after a cold reset. -/
def execHealthTimeout (s : State) : Result :=
  act s fun d =>
    if (fwSlot d d.fw.active).st == .trial && !inTrial d then
      coldReset (settle (endTrial (fwFail d stFwFallback) d.fw.active))
    else d

/-! ### Staging and activation (R570 to R574) -/

/-- FW_STAGE. -/
def handleFwStage : Handler := fun d c op => stageFrom d (c.args.getD 0 0) (some (c.args.getD 1 0)) op

/-- FW_STAGE: the receipt read of a record with its opcode (R447). -/
def execFwStage (w : Win) (s : State) : Result :=
  act s fun d => submitAs d w 0x20 handleFwStage

/-- Make the inactive slot PENDING for a time, or for the next cold reset when `t` is 0: the status and the device.
DESIGN CHOICE, unsafe (log 99). -/
def activate (d : Dev) (t : Nat) (op : Option Nat) : Half × Dev :=
  if t ≠ 0 && t < d.tb.now + msTicks then (stFwTime, d)
  else if (fwSlot d (inactiveSlot d)).st != .staged then (stFwState, d)
  else
    let d := changeSlot (modFw d fun f => { f with actT := t }) (inactiveSlot d) fun x => { x with st := .pendingSt }
    if t = 0 then (stOk, completeOpt d op stOk) else (stOk, modFw d fun f => { f with actOp := op })

/-- FW_ACTIVATE. -/
def handleFwActivate : Handler := fun d c op =>
  let (st, d) := activate d (c.args.getD 0 0) op
  (some st, d)

/-- FW_ACTIVATE: the receipt read of a record with its opcode (R447). -/
def execFwActivate (w : Win) (s : State) : Result :=
  act s fun d => submitAs d w 0x21 handleFwActivate

/-- FW_RECEIPT takes a status (R584). -/
def fwReceipt (d : Dev) (st : Half) : Dev :=
  regSetField (regBump d .fwReceipt [] 31 16 1) .fwReceipt [] 15 0 st.toNat

/-- The rule of FW_ACT (R583). -/
def writeFwAct (d : Dev) (val : Nat) : Dev :=
  let (st, d) := activate d val none
  fwReceipt d st

/-- FW_ACT_WRITE. -/
def execFwActWrite (r : Req) (bytes : Nat) (v : DWord) (s : State) : Result :=
  act s fun d => withWrite d r (regOff .fwAct []) bytes v fun d _ _ _ val => writeFwAct d val

/-- The rule of FW_STAGE_ADDR (R587). -/
def writeFwStageAddr (d : Dev) (r : Req) (val : Nat) : Dev := match stageFrom d (bits val 47 0) none none with
  | (some st, d) => fwReceipt d st
  | (none, d) => waitFor d (.fwStageAddrWrite r 8 (BitVec.ofNat 64 val))

/-- FW_STAGE_ADDR_WRITE. -/
def execFwStageAddrWrite (r : Req) (bytes : Nat) (v : DWord) (s : State) : Result :=
  act s fun d => withWrite d r (regOff .fwStageAddr []) bytes v fun d _ _ _ val => writeFwStageAddr d r val

/-- STAGING_COMPLETE (R577): the whole body is at hand. -/
def execStagingComplete (s : State) : Result :=
  act s fun d => match d.fw.staging with
    | none => d
    | some x => match x.src with
      | none => if x.image.length ≥ x.size then finishStaging d x (x.image.take x.size) else d
      | some a => match readWhole (withHue d (coreHue d)) (.core 0) a x.size with
        | (d, none) => d
        | (d, some (l, _)) => finishStaging d x l

/-! ### FW_CTL (R582) -/

/-- Confirm the image on trial (R577): the floor rises, and the other image stays only where it may run.
DESIGN CHOICE, unsafe (log 99). -/
def confirm (d : Dev) : Dev :=
  let n := d.fw.active
  let x := fwSlot d n
  let floor := max d.fw.svnFloor x.svn
  let y := fwSlot d (1 - n)
  let y' : FwSlot := if y.st == .empty || y.svn < floor then {} else { y with st := .staged }
  let op := d.fw.actOp
  let d := changeSlots d fun f =>
    setFwSlot (1 - n) y' (setFwSlot n { x with st := .good } { f with svnFloor := floor, actOp := none })
  completeOpt d op stOk

/-- A pending activation is taken back (R574). -/
def cancelActivation (d : Dev) : Dev :=
  let op := d.fw.actOp
  let d := changeSlot (modFw d fun f => { f with actT := 0, actOp := none }) (inactiveSlot d) fun x => { x with st := .staged }
  completeOpt d op stFwCancelled

/-- The rule of FW_CTL: core 0 alone writes it.
DESIGN CHOICE, unsafe (log 99). -/
def writeFwCtl (d : Dev) (r : Req) (off bytes : Nat) (v : DWord) : Dev :=
  withWrite d r off bytes v fun d t ix mask val =>
    if r ≠ .core 0 then emit (logAccess d r stFwAccess off false true bytes) (.regError r off)
    else
      let d := if bitAt val 0 then (if inTrial d then confirm d else discard d r stFwState t ix mask) else d
      let d := if bitAt val 1 then
          (if (fwSlot d (inactiveSlot d)).st == .pendingSt then cancelActivation d else discard d r stFwState t ix mask)
        else d
      if bitAt val 2 then unwrapKeys d else d

/-- A write of FW_CTL with bit `b` set.
DESIGN CHOICE, unsafe (log 99). -/
def fwCtlBit (off bytes : Nat) (v : DWord) (b : Nat) : Bool :=
  off / 8 * 8 == regOff .fwCtl [] && bitAt (accessValue off bytes v) b

/-- FW_CONFIRM. -/
def execFwConfirm (r : Req) (off bytes : Nat) (v : DWord) (s : State) : Result :=
  act s fun d => if fwCtlBit off bytes v 0 then writeFwCtl d r off bytes v else d

/-- FW_CANCEL. -/
def execFwCancel (r : Req) (off bytes : Nat) (v : DWord) (s : State) : Result :=
  act s fun d => if fwCtlBit off bytes v 1 then writeFwCtl d r off bytes v else d

/-- KEY_RELOAD. -/
def execKeyReload (r : Req) (off bytes : Nat) (v : DWord) (s : State) : Result :=
  act s fun d => if fwCtlBit off bytes v 2 then writeFwCtl d r off bytes v else d

/-! ### Grapevine (R578, R579) -/

/-- The transit form of the image in slot `n`, byte for byte as it came (R571).
DEDUCED, safe (log 103). -/
def transitForm (d : Dev) (n : Nat) : Option (List Byte) :=
  let x := fwSlot d n
  let l := nvmBytes d (slotBase n) 1024
  let head := l.take 0xA ++ leBytes 1 1 ++ leBytes 1 x.keySlot ++ slice l 0xC 0x14 ++ fitBytes 12 x.iv ++ slice l 0x2C 4 ++
    fitBytes 16 x.tag ++ slice l 0x40 0x3C0
  (slotBody d n).bind fun b => (tfind d.fw.fleetKeys x.keySlot).map fun k =>
    head ++ (Config.aesGcmSeal k x.iv (imageAad head) b).1

/-- The RELAY messages of an image to the neighbour at a port (R430).
DESIGN CHOICE, unsafe (log 102). -/
def relayMsgs (d : Dev) (p : Nat) (image : List Byte) : List XMsg :=
  (List.range (ceilDiv image.length 4096)).map fun k =>
    let bs := slice image (4096 * k) 4096
    { dst := regField d .xpStatus [p / 8, p % 8] 63 48, src := ownNo d, hue := coreHue d, hops := 0, channel := 4, op := xoRelay,
      rsv := false, release := false, fmt := 0, addr := 4096 * k, combine := 0, coll := 0xFFFF, tag := leAt image 0x40 4,
      status := 0, len := bs.length, data := layData (4096 * k) bs, poison := [] }

/-- GRAPEVINE_OFFER: one of the offers made at staging and every 60 s after it.
DEDUCED, safe (log 103). -/
def execGrapevineOffer (s : State) : Result :=
  act s fun d =>
    let n := inactiveSlot d
    let st := (fwSlot d n).st
    if d.fw.offersLeft = 0 || d.tb.now < d.fw.offerAt then d
    else if !(st == .staged || st == .pendingSt) then modFw d fun f => { f with offersLeft := 0 }
    else
      let d := modFw d fun f => { f with offersLeft := f.offersLeft - 1, offerAt := f.offerAt + 60 * 1000 * msTicks }
      match transitForm d n with
      | none => d
      | some l =>
        (d.ports.filter fun e => e.2.st == .active && e.2.grapevine && d.fw.fromPort != some e.1).foldl (fun d e =>
          (relayMsgs d e.1 l).foldl (fun d m => queueMsg d e.1 m) d) d

/-- RECEPTION_TIMEOUT: 10 s without a processed chunk (R579). -/
def execReceptionTimeout (s : State) : Result :=
  act s fun d => match d.fw.staging with
    | some x =>
      if x.port.isSome && decide (x.image.length < x.size) && decide (d.tb.now ≥ x.heard + 10 * 1000 * msTicks) then abandon d
      else d
    | none => d

/-! ### SPDM (R565) -/

/-- The device answers SPDM from the end of bring-up step 8 while its firmware runs (R537, R576). -/
def spdmReady (d : Dev) : Bool := d.phase == .running && d.fw.running

/-- The certificate chain (R563). -/
def certChain (d : Dev) : List Byte := nvmBytes d 0x118000 0x4000

/-- A request joins the transcript; GET_VERSION begins a new one. -/
def spdmHear (d : Dev) (code : Nat) (payload : List Byte) : Dev :=
  modFw d fun f => { f with transcript := (if code = 0x84 then [] else f.transcript) ++ leBytes 1 code ++ payload }

/-- An answer: what the SPDM specification lays down for it, then the content this device gives.
PRESUMED, unsafe (log 87). -/
def spdmAnswer (d : Dev) (code : Nat) (content : List Byte) : Dev :=
  emit d (.spdm code (Config.protocolAnswer code d.fw.transcript ++ content))

/-- A signature over the transcript under the identity key. -/
def spdmSign (d : Dev) : List Byte := match deviceKey d "VZ1 ID" 57 with
  | some k => Config.ed448Sign k (Config.protocolAnswer 2 d.fw.transcript)
  | none => []

/-- One SPDM exchange. -/
def spdm (d : Dev) (req : Nat) (payload : List Byte) (f : Dev → Dev) : Dev :=
  if spdmReady d then f (spdmHear d req payload) else d

/-- GET_VERSION. -/
def execGetVersion (s : State) : Result := act s fun d => spdm d 0x84 [] fun d => spdmAnswer d 0x04 []

/-- GET_CAPABILITIES. -/
def execGetCapabilities (s : State) : Result := act s fun d => spdm d 0xE1 [] fun d => spdmAnswer d 0x61 []

/-- NEGOTIATE_ALGORITHMS. -/
def execNegotiateAlgorithms (s : State) : Result := act s fun d => spdm d 0xE3 [] fun d => spdmAnswer d 0x63 []

/-- GET_DIGESTS: the digest of slot 0's chain, unless that slot is reported empty (R564). -/
def execGetDigests (s : State) : Result :=
  act s fun d => spdm d 0x81 [] fun d => spdmAnswer d 0x01 (if d.fw.certOk then sha3_512 (certChain d) else [])

/-- GET_CERTIFICATE: a part of the chain; a slot reported empty is an invalid request.
PRESUMED, unsafe (log 87). -/
def execGetCertificate (off len : Nat) (s : State) : Result :=
  act s fun d => spdm d 0x82 (leBytes 2 off ++ leBytes 2 len) fun d =>
    if d.fw.certOk then spdmAnswer d 0x02 (slice (certChain d) off len) else spdmAnswer d 0x7F [1]

/-- CHALLENGE: CHALLENGE_AUTH with a signature. -/
def execChallenge (nonce : List Byte) (s : State) : Result :=
  act s fun d => spdm d 0x83 nonce fun d => spdmAnswer d 0x03 (spdmSign d)

/-- The measurements that an index asks for: their count for 0, all for 0xFF, else one. -/
def measurement (d : Dev) (index : Nat) : List Byte :=
  let m (i : Nat) : List Byte := fitBytes 64 (tget [] d.fw.measures i)
  if index = 0 then leBytes 1 7
  else if index = 0xFF then [1, 2, 3, 4, 5, 6, 7].flatMap m
  else if index ≤ 7 then m index else []

/-- GET_MEASUREMENTS. -/
def execGetMeasurements (index : Nat) (nonce : List Byte) (signed : Bool) (s : State) : Result :=
  act s fun d => spdm d 0xE0 (leBytes 1 index ++ leBytes 1 signed.toNat ++ nonce) fun d =>
    spdmAnswer d 0x60 (measurement d index ++ (if signed then spdmSign d else []))

/-- SPDM_UNSUPPORTED_REQUEST: UnsupportedRequest, with the request's code. -/
def execSpdmUnsupportedRequest (code : Nat) (s : State) : Result :=
  act s fun d => spdm d code [] fun d => spdmAnswer d 0x7F (leBytes 1 7 ++ leBytes 1 code)

/-! ### Registers -/

/-- ID_STATUS as it reads (R580). -/
def idStatusWord (d : Dev) : Nat :=
  (leAt d.fw.digest 0 4 <<< 32) + ((d.fw.flips % 2 ^ 16) <<< 16) + (d.fw.certOk.toNat <<< 2) + (d.fw.helperOk.toNat <<< 1) +
    d.fw.seed.isSome.toNat

/-- HEALTH_LEFT: whole seconds left of the trial.
DESIGN CHOICE, unsafe (log 99). -/
def healthLeft (d : Dev) : Nat :=
  let x := fwSlot d d.fw.active
  if x.st == .trial then min 0xFFFF ((d.fw.ttime + x.healthS * 1000 * msTicks - d.tb.now) / (1000 * msTicks)) else 0

/-- FW_STATUS as it reads (R581). -/
def fwStatusWord (d : Dev) : Nat :=
  (d.fw.lastStatus.toNat <<< 48) + ((d.fw.svnFloor % 2 ^ 16) <<< 32) + (fwStCode (fwSlot d 1).st <<< 28) +
    (fwStCode (fwSlot d 0).st <<< 24) + ((d.fw.active % 2) <<< 16) + healthLeft d

/-- GV_STATUS as it reads (R585). -/
def gvStatusWord (d : Dev) : Nat :=
  let (next, port) : Nat × Nat := match d.fw.staging with
    | some x => match x.port with
      | some p => (x.image.length % 2 ^ 32, p)
      | none => (0, 0xFF)
    | none => (0, 0xFF)
  (next <<< 32) + (port <<< 24) + (d.fw.dups <<< 16) + (d.fw.abandoned <<< 8) + d.fw.dropped

end Sys2Proof.Machine
end

