-- ==== Sys2Proof/Machine/Identity.lean ====
section
/-! DEFINITION. The device seed and what starts from it (R560 to R565, R575, R577): reconstruction of the identity, the slot
record at boot, and bring-up step 8. -/
namespace Sys2Proof.Machine
open Sys2Proof

/-! ### BOOT_STATUS (R538) -/

/-- Step `n` is in progress.
DESIGN CHOICE, unsafe (log 94). -/
def bootStep (d : Dev) (n : Nat) : Dev := regSetField d .bootStatus [] 3 0 n

/-- Step `n` recorded a failure; the first one gives FIRST_FAIL.
DESIGN CHOICE, unsafe (log 94). -/
def bootFail (d : Dev) (n : Nat) (st : Half) : Dev :=
  let d := regSetBit d .bootStatus [] (32 + n - 1)
  if regField d .bootStatus [] 63 48 = 0 then regSetField d .bootStatus [] 63 48 st.toNat else d

/-- A failure of a step that is also logged. -/
def bootLog (d : Dev) (n : Nat) (st : Half) (cls : Nat := 3) : Dev := bootFail (logErr d st ukStem 0 cls) n st

/-! ### The seed (R560, R561) -/

/-- A failure of the identity at step `n`, which LAST_STATUS also reports (R581). -/
def idFail (d : Dev) (n : Nat) (st : Half) : Dev := bootFail (logErr (modFw d fun f => { f with lastStatus := st }) st ukStem 0 3) n st

/-- The majority of one group of 8 repeated bits; a tie is an erasure.
DESIGN CHOICE, unsafe (log 90). -/
def majority (b : Byte) : Option Bool :=
  let n := popcount 8 b.toNat
  if n = 4 then none else some (decide (n > 4))

/-- Bits to bytes, the first at the lowest place. -/
def packBits (l : List Bool) : List Byte :=
  (List.range (ceilDiv l.length 8)).map fun i =>
    BitVec.ofNat 8 (((List.range 8).map fun k => (l.getD (8 * i + k) false).toNat <<< k).foldl (· + ·) 0)

/-- The 1,048 information bits of a start-up pattern, as bytes; `none` when a block fails to decode.
DESIGN CHOICE, unsafe (log 90). -/
def helperBits (startup helper : List Byte) : Option (List Byte) :=
  let groups := (List.range 2040).map fun i => majority (startup.getD i 0 ^^^ helper.getD i 0)
  ((List.range 8).mapM fun k => Config.helperDecode ((groups.drop (255 * k)).take 255)).map fun bs => packBits bs.flatten

/-- The seed of a start-up pattern under the helper data with its CHECK. -/
def seedOf (startup helper : List Byte) : Option (List Byte) :=
  (helperBits startup helper).bind fun info =>
    let s := shake256 info 32
    if shake256 (ascii "VZ1 CHECK" ++ s) 32 = slice helper 2040 32 then some s else none

/-- The device reconstructs its identity. With none, nothing is derived (R562).
DESIGN CHOICE, unsafe (log 90). -/
def takeIdentity (d : Dev) (startup : List Byte) : Dev :=
  let helper := nvmBytes d 0x110000 2072
  let d := modFw d fun f => { f with helperOk := helper.any (· != 0xFF) }
  match seedOf startup helper with
  | none => idFail d 1 stIdFail
  | some s =>
    let (n, d) := drawNat d
    let pub := Config.ed448Public (kmac256 s [] (ascii "VZ1 ID") 57)
    modFw d fun f => { f with seed := some s, idPub := pub, digest := deviceDigest pub, flips := n % 65536 }

/-! ### The slot record (R575) -/

/-- The fields of one valid copy of the slot record. -/
structure SlotRecord where
  seq    : Nat
  active : Nat
  ttime  : Nat
  s0     : FwSlot
  s1     : FwSlot
deriving DecidableEq, Repr

/-- A copy of the record, when it is valid. -/
def readRecord (key l : List Byte) : Option SlotRecord :=
  let st (i : Nat) : Nat := leAt l (5 + i) 1
  if !(allZeroAt l 7 1 && allZeroAt l 0xC 4 && allZeroAt l 0x25 3 && allZeroAt l 0x45 3 && allZeroAt l 0x58 0x18) then none
  else if leAt l 4 1 > 1 || st 0 > 5 || st 1 > 5 then none
  else if kmac256 key (l.take 0x70) [] 16 ≠ slice l 0x70 16 then none
  else
    let slot (i iv : Nat) : FwSlot :=
      { st := fwStOf (st i), svn := leAt l (8 + 2 * i) 2, iv := slice l iv 12, keySlot := leAt l (iv + 12) 1,
        tag := slice l (iv + 16) 16 }
    some { seq := leAt l 0 4, active := leAt l 4 1, ttime := leAt l 0x10 8, s0 := slot 0 0x18, s1 := slot 1 0x38 }

/-- `a` is the higher of two sequence numbers: it is reached from `b` by adding less than 2³¹. -/
def seqHigher (a b : Nat) : Bool := decide ((a + 2 ^ 32 - b) % 2 ^ 32 < 2 ^ 31)

/-- A slot takes from its stored prelude what the record does not hold. -/
def fillSlot (d : Dev) (n : Nat) (x : FwSlot) : FwSlot :=
  if x.st == .empty then x
  else
    let p := parsePrelude (nvmBytes d (slotBase n) 1024)
    { x with digest := p.digest, size := p.size, healthS := if p.healthS = 0 then 600 else p.healthS }

/-- Put a record in force.
DESIGN CHOICE, unsafe (log 101). -/
def takeRecord (d : Dev) (copy : Nat) (r : SlotRecord) : Dev :=
  modFw d fun f => setFwSlot 1 (fillSlot d 1 r.s1) (setFwSlot 0 (fillSlot d 0 r.s0)
    { f with active := r.active, ttime := r.ttime, recSeq := r.seq, recCopy := copy })

/-- Read both copies; with neither valid both slots are STAGED with slot 0 active.
DESIGN CHOICE, unsafe (log 101). -/
def loadRecord (d : Dev) (key : List Byte) : Dev :=
  match readRecord key (nvmBytes d (recordAddr 0) 128), readRecord key (nvmBytes d (recordAddr 1) 128) with
  | some a, some b => if seqHigher a.seq b.seq then takeRecord d 0 a else takeRecord d 1 b
  | some a, none => takeRecord d 0 a
  | none, some b => takeRecord d 1 b
  | none, none =>
    let svn (n : Nat) : Nat := (parsePrelude (nvmBytes d (slotBase n) 1024)).svn
    bootFail (fwFail (takeRecord d 1 { seq := 0, active := 0, ttime := 0, s0 := { st := .staged, svn := svn 0 },
                                       s1 := { st := .staged, svn := svn 1 } }) stFwRecord) 8 stFwRecord

/-! ### Slots at a cold reset (R577) -/

/-- A staging that the cold reset met leaves its slot empty; the status it logs is not named.
DESIGN CHOICE, unsafe (log 100). -/
def dropStaging (d : Dev) (n : Nat) : Dev :=
  if (fwSlot d n).st == .staging then
    let (k, d) := drawNat d
    changeSlot (fwFail d (BitVec.ofNat 16 k)) n fun _ => {}
  else d

/-- Start the active slot; when it fails it is empty, and the other one starts if it can.
DESIGN CHOICE, unsafe (log 100). -/
def startActive (d : Dev) : Dev :=
  let n := d.fw.active
  match startImage d n with
  | (d, true) => d
  | (d, false) =>
    let trial := (fwSlot d n).st == .trial
    let other := (fwSlot d (1 - n)).st
    let d := if trial then endTrial (fwFail d stFwFallback) n
      else changeSlots d fun f => setFwSlot n {} { f with active := if other == .staged then 1 - n else n }
    let go := trial || other == .staged
    match (if go then startImage d d.fw.active else (d, false)) with
    | (d, true) => d
    | (d, false) => bootFail (fwFail d stFwNone) 8 stFwNone

/-- What a cold reset does to a trial, or to a pending image.
DESIGN CHOICE, unsafe (log 100). -/
def coldSlots (d : Dev) : Dev :=
  let d := dropStaging (dropStaging d 0) 1
  let n := d.fw.active
  if (fwSlot d n).st == .trial then endTrial (fwFail d stFwFallback) n
  else if (fwSlot d (1 - n)).st == .pendingSt then beginTrial d (1 - n)
  else d

/-- The identity certificate is compared with the device's own key (R564). -/
def checkCert (d : Dev) : Dev :=
  let ok := Config.certKey (certChain d) == some d.fw.idPub
  let d := modFw d fun f => { f with certOk := ok }
  if ok then d else idFail d 8 stIdCert

/-- Bring-up step 8: certificate, fleet keys, slot record, the image of the active slot. A device with no identity loads
no firmware.
DESIGN CHOICE, unsafe (log 100). -/
def bootFirmware (d : Dev) : Dev :=
  match deviceKey d "VZ1 SLOTREC" 32 with
  | none => bootFail (fwFail d stFwNone) 8 stFwNone
  | some k => startActive (measureSlots (coldSlots (loadRecord (unwrapKeys (checkCert d)) k)))

end Sys2Proof.Machine
end

