-- ==== Sys2Proof/Machine/CueCommands.lean ====
section
/-! DEFINITION. Arming cues (R103, R104, R108): the cue port, the host commands and CUE.ARM. A cue whose DUE is past as it
is armed fires within the command. -/
namespace Sys2Proof.Machine
open Sys2Proof

/-! ### Firing at once (R104) -/

/-- What a sample reads that a command carries no readings for: each is free.
DESIGN CHOICE, safe (log 115). -/
def freeSample (e : Nat) : TelemSample :=
  let v (k w : Nat) : Nat := (Config.openValue 495 (BitVec.ofNat 64 e) (BitVec.ofNat 64 k)).toNat % 2 ^ w
  { domains := (List.range 24).map fun n => { deciA := v (3 * n) 16, mv := v (3 * n + 1) 16, mw := v (3 * n + 2) 24 },
    paces := (List.range 256).map fun n => v (72 + n) 16 }

/-- A cue fires: what its unit does with its action (R102). -/
def fireCue (d : Dev) (c : Cue) : Dev := match c.unit with
  | .tile t => fireStep d t c
  | .rind r => if c.action = actCollOpen then fireColl d r c else fireMover d r c
  | .stem => fireSample { d with freeCnt := d.freeCnt + 1 } c (freeSample d.freeCnt)

/-- Arm a cue (R103); one whose DUE is already past fires at once, and late (R104). -/
def armCue (d : Dev) (w : CueWords) : Dev × Option Half :=
  match storeCue d w with
  | (d', some st) => (if st = stOk then (d'.cues.getLast?).elim d' fun c => if c.past then fireCue d' c else d' else d', some st)
  | r => r

/-! ### The cue port (R108) -/

def portWords (d : Dev) : CueWords :=
  { w0 := regGet d .cueRec [0], w1 := regGet d .cueRec [1], w2 := regGet d .cueRec [2], w3 := regGet d .cueRec [3] }

/-- The result of a write to CUE_GO. -/
def putCueResult (d : Dev) (st : Half) : Dev :=
  regSetField (regBump d .cueResult [] 31 16 1) .cueResult [] 15 0 st.toNat

/-- The rule of CUE_GO. A write whose record read must wait takes no effect and is repeated. -/
def cueGo (d : Dev) (r : Req) (val : Nat) : Dev :=
  if bits val 1 0 = 1 then
    match armCue d (portWords d) with
    | (d, some st) => putCueResult d st
    | (d, none) => waitFor d (.cueGoArm r 8 (BitVec.ofNat 64 val))
  else if bits val 1 0 = 2 then
    let c := portWords d
    let (st, d) := cancelCue d c.kind c.x c.y c.stage c.tag
    putCueResult d st
  else putCueResult d stCueAction

def writeCueGo (d : Dev) (r : Req) (bytes : Nat) (v : DWord) : Dev :=
  withWrite d r (regOff .cueGo []) bytes v fun d _ _ _ val => cueGo d r val

/-- CUE_GO_ARM (R108): a write of CUE_GO with ARM set. -/
def execCueGoArm (r : Req) (bytes : Nat) (v : DWord) (s : State) : Result :=
  act s fun d => if bitAt v.toNat 0 then writeCueGo d r bytes v else d

/-- CUE_GO_CANCEL (R108): a write of CUE_GO with CANCEL set, or with neither. -/
def execCueGoCancel (r : Req) (bytes : Nat) (v : DWord) (s : State) : Result :=
  act s fun d => if bitAt v.toNat 0 && !bitAt v.toNat 1 then d else writeCueGo d r bytes v

/-! ### Host commands (R447, R448) -/

/-- CUE_ARM. -/
def handleCueArm : Handler := fun d c _ =>
  let a (i : Nat) : Nat := c.args.getD i 0
  let (d, st) := armCue d { w0 := a 0, w1 := a 1, w2 := a 2, w3 := a 3 }
  (st, d)

/-- CUE_ARM: the receipt read of a record with its opcode (R447). -/
def execCueArm (w : Win) (s : State) : Result :=
  act s fun d => submitAs d w 0x07 handleCueArm

/-- CUE_CANCEL: ARG0 holds the unit, tag and stage. -/
def handleCueCancel : Handler := fun d c _ =>
  let a := c.args.headD 0
  let (st, d) := cancelCue d (bits a 7 0) (bits a 15 8) (bits a 23 16) (bits a 63 48) (bits a 47 32)
  (some st, d)

/-- CUE_CANCEL: the receipt read of a record with its opcode (R447). -/
def execCueCancel (w : Win) (s : State) : Result :=
  act s fun d => submitAs d w 0x08 handleCueCancel

/-! ### The arming instruction (R103) -/

/-- CUE.ARM at issue.
DESIGN CHOICE, unsafe (log 51). -/
def doCueArm (dst : Nat) (addr : Opnd) (d : Dev) (i : Iss) : Issued :=
  guardOk (dstOk (.reg dst) && opndOk addr) <|
    orFault (consumed i [addr] [i.low]) <|
      let a := (opndVal i i.low addr).val
      if a % 32 ≠ 0 then .fault stMemAlign 0
      else if !sbOk i.seat a 32 then .fault stSbRange 0
      else
        let (d, l, _) := sbRead d i.t a 32
        match armCue d { w0 := leAt l 0 8, w1 := leAt l 8 8, w2 := leAt l 16 8, w3 := leAt l 24 8 } with
        | (d, none) => .stall d
        | (d, some st) => .done (writeAll d i (.reg dst) st.toNat)

/-- CUE_ARM_INSTR (R103). -/
def execCueArmInstr (t g dst : Nat) (addr : Opnd) (s : State) : Result :=
  act s fun d => issue d t g [] (doCueArm dst addr)

end Sys2Proof.Machine
end

