-- ==== Sys2Proof/Machine/Context.lean ====
section
/-! DEFINITION. The commands that export and import a saved context (R142, R146, R448, R456). -/
namespace Sys2Proof.Machine
open Sys2Proof

/-! ### Commands (R142, R448, R456) -/

/-- The parked seat that ARG0 names, with its canvas, tile and order; the status that rejects the command.
DESIGN CHOICE, safe (log 32). -/
def parkedSeat (d : Dev) (w : Win) (arg : Nat) : Except Half (Canvas × Nat × Nat × Seat) :=
  let t := bits arg 15 8 + 16 * bits arg 23 16
  match canvasOf d (bits arg 7 0), tfind (tileOf d t).seats (bits arg 31 24) with
  | some c, some s =>
    if svcOwned w c then .error stSvcOwned
    else if s.st != .parked || !(c.st == .loaded || c.st == .stopped) || c.unloading then .error stCanvasState
    else .ok (c, t, bits arg 31 24, s)
  | _, _ => .error stCanvasState

/-- CONTEXT_EXPORT: the saved context is copied to HBM.
DESIGN CHOICE, unsafe (log 33). -/
def handleContextExport (w : Win) : Handler := fun d c op =>
  match parkedSeat d w (c.args.getD 0 0) with
  | .error st => (some st, d)
  | .ok (cv, t, _, seat) =>
    let a := c.args.getD 1 0
    let n := ctxBytes (savedOf seat).mid (stageOf cv seat.stage).groups seat.swapSize
    if n > c.args.getD 2 0 then (some stOk, completeOpt d op stContextField)
    else if !backed d a n then (some stOk, completeOpt d op stUnbacked)
    else match storedImage d cv t seat with
    | (_, none) => (none, fetchSpilled d cv t seat)
    | (d, some img) => match putWords (withHue d (coreHue d)) (.core 0) a img with
      | some d => (some stOk, completeOpt d op stOk n 0 (img.any (·.2)))
      | none => (none, (devWrite d (.core 0) a (wordBytes img)).1)

/-- CONTEXT_EXPORT: the receipt read of a record with its opcode (R447). -/
def execContextExport (w : Win) (s : State) : Result :=
  act s fun d => submitAs d w 0x05 (handleContextExport w)

/-- CONTEXT_IMPORT: an image replaces the saved context of a parked seat; its hold records become invalid (R189).
DESIGN CHOICE, unsafe (log 33). -/
def handleContextImport (w : Win) : Handler := fun d c op =>
  match parkedSeat d w (c.args.getD 0 0) with
  | .error st => (some st, d)
  | .ok (cv, t, k, seat) =>
    let a := c.args.getD 1 0
    let ag : Agent := .core 0
    let d := withHue d (coreHue d)
    if !backed d a 64 then (some stOk, completeOpt d op stUnbacked)
    else match devReadWords d ag a 64 false with
    | (_, none) => (none, startSnoops d ag a 64 false)
    | (d1, some hd) =>
      let n := max 64 (leAt (imgBytes hd) 0x28 4)
      match checkPrefix 0x0202 (leAt (imgBytes hd) 0 4) with
      | some st => (some stOk, completeOpt d1 op st)
      | none =>
        if !backed d a n then (some stOk, completeOpt d1 op stUnbacked)
        else match devReadWords d ag a (ceilDiv n 8 * 8) false with
        | (_, none) => (none, startSnoops d ag a n false)
        | (d2, some ws) => match poisonVerdict d2 (controlPoison ws) with
          | (some st, d3) => (some stOk, completeOpt d3 op st)
          | (none, d3) =>
            let groups := (stageOf cv seat.stage).groups
            match ctxCheck cv seat groups ((imgBytes ws).take n) with
            | some st => (some stOk, completeOpt d3 op st)
            | none =>
              let x := imgCtx (bits (c.args.getD 0 0) 7 0) seat groups ws
              let seat' := { seat with ctx := x, saved := none, hold0 := none, hold1 := none }
              let r := storeImage d3 cv t seat'
              if r.2 then (some stOk, completeOpt (modSeat r.1 t k fun _ => seat') op stOk 0 0 (ws.any (·.2)))
              else (none, r.1)

/-- CONTEXT_IMPORT: the receipt read of a record with its opcode (R447). -/
def execContextImport (w : Win) (s : State) : Result :=
  act s fun d => submitAs d w 0x06 (handleContextImport w)

end Sys2Proof.Machine
end

