-- ==== Sys2Proof/Machine/Receipts.lean ====
section
/-! DEFINITION. The receipt read (R447 to R449): whatever record its window holds is checked and goes to the handler of its
opcode. -/
namespace Sys2Proof.Machine
open Sys2Proof

/-- The handler of an opcode of R447; R449 turns every other opcode away before a handler acts. -/
def handlerOf (w : Win) (opcode : Nat) : Handler :=
  if opcode = 0x01 then handleCanvasLoad
  else if opcode = 0x02 then handleCanvasStart w
  else if opcode = 0x03 then handleCanvasStop w
  else if opcode = 0x04 then handleCanvasUnload w
  else if opcode = 0x05 then handleContextExport w
  else if opcode = 0x06 then handleContextImport w
  else if opcode = 0x07 then handleCueArm
  else if opcode = 0x08 then handleCueCancel
  else if opcode = 0x10 then handleMover
  else if opcode = 0x11 then handlePipSession
  else if opcode = 0x12 then handlePipAbort
  else if opcode = 0x13 then handleSweep
  else if opcode = 0x14 then handlePreserveCreate
  else if opcode = 0x15 then handlePreserveRelease
  else if opcode = 0x20 then handleFwStage
  else if opcode = 0x21 then handleFwActivate
  else handleReset

/-- A read of RECEIPT: one of another size than 64 bits is an error (R30). -/
def readReceipt (d : Dev) (w : Win) (bytes : Nat) : Dev :=
  if bytes ≠ 8 then winSizeError d w 0x40 false bytes
  else if (windowRecord d w).opcode = 0x30 then submitReset d w
  else submit d w (handlerOf w (windowRecord d w).opcode)

/-- RECEIPT_READ (R449). -/
def execReceiptRead (w : Win) (bytes : Nat) (s : State) : Result :=
  act s fun d => if winExists w then readReceipt d w bytes else d

end Sys2Proof.Machine
end

