-- ==== Sys2Proof/Machine/RegisterFile.lean ====
section
/-! DEFINITION. The whole register file: what a write of any BAR0 or BAR2 register does (R25 to R30, R444, R609 to R611),
with the rules of the registers that check or act, and what each register reads. -/
namespace Sys2Proof.Machine
open Sys2Proof

/-! ### Registers that check what is written -/

/-- A register that is stored whole unless the value it would hold is bad.
DEDUCED, unsafe (log 109). -/
def checkedWrite (st : Half) (bad : Nat → Bool) (d : Dev) (r : Req) (t : RegDef) (ix : List Nat) (mask val : Nat) : Dev :=
  if bad (newValue d t ix mask val) then discard d r st t ix mask else plainWrite d t ix mask val

/-- HUE_A and HUE_B of a hue break R398. -/
def hueBad (h a b : Nat) : Bool :=
  bits b 10 8 == 0 ||
    (bitAt b 15 && (decide (h < 12) ||
      [bits a 63 48, bits a 47 32, bits a 31 16, bits a 15 0, bits b 63 48, bits b 47 32, bits b 31 16].any (· == 0xFFFF)))

/-- GLEAN_CFG breaks a range of R376. -/
def gleanBad (x : Nat) : Bool :=
  let h := bits x 47 32
  let k := bits x 15 0
  bits x 55 48 > 15 || (h != 0 && (h < 60 || h > 10080)) || (k != 0 && k < 60)

/-- HUE_SOURCES breaks R399. -/
def sourcesBad (x : Nat) : Bool := bits x 23 16 > 15 || bits x 15 8 > 15 || bits x 7 0 > 15

/-- HOST_VERSEL names a version that is not supported (R461). -/
def verselBad (x : Nat) : Bool := bits x 23 16 != 1 || bits x 15 8 != 1 || bits x 7 0 != 1

/-- XR_WINDOW breaks R421. -/
def windowBad (d : Dev) (x : Nat) : Bool :=
  bitAt x 63 && (bits x 60 40 == 0 || !backed d (bits x 39 20 <<< 20) (bits x 60 40 * 2 ^ 20))

/-- XR_CFG changes DEVICE_NO while a port is ACTIVE (R435). -/
def xrCfgBad (d : Dev) (x : Nat) : Bool := bits x 15 0 != ownNo d && !(activePorts d).isEmpty

def xrTimeoutBad (x : Nat) : Bool := bits x 19 0 == 0 || bits x 19 0 > 1000000

/-- The register of a collective entry is written while the entry is OPEN (R425).
DESIGN CHOICE, unsafe (log 65). -/
def collRegWrite (d : Dev) (r : Req) (t : RegDef) (ix : List Nat) (mask val : Nat) : Dev :=
  if (collOf d (ix.headD 0) (ix.getD 1 0)).st == .openSt then discard d r stCollState t ix mask else plainWrite d t ix mask val

/-- Writes of registers whose rule works on the value at the addressed bits. -/
def ruleWrite (r : Req) (d : Dev) (t : RegDef) (ix : List Nat) (mask val : Nat) : Dev :=
  match t.id with
  | .cueGo => cueGo d r val
  | .gleanCfg => checkedWrite stGleanField gleanBad d r t ix mask val
  | .hueA => let d := rollWindow d
    checkedWrite stHueField (fun x => hueBad (ix.headD 0) x (regGet d .hueB ix)) d r t ix mask val
  | .hueB => let d := rollWindow d
    checkedWrite stHueField (fun x => hueBad (ix.headD 0) (regGet d .hueA ix) x) d r t ix mask val
  | .hueSources => checkedWrite stHueField sourcesBad (rollWindow d) r t ix mask val
  | .hostVersel => checkedWrite stVersion verselBad d r t ix mask val
  | .pipSubmit => pipSubmitRule d r val
  | .pipAbort => pipAbortRule d r t ix mask val
  | .xrCfg => checkedWrite stXpField (xrCfgBad d) d r t ix mask val
  | .xrTimeout => checkedWrite stXpField xrTimeoutBad d r t ix mask val
  | .xrWindow => checkedWrite stXpField (windowBad d) d r t ix mask val
  | .easelKeep => checkedWrite stEaselRamp (fun x => decide (bits x 31 24 < 16)) d r t ix mask val
  | .smudgeCtlHbm => smudgeRule d r t ix mask val
  | .smudgeCtlKr => smudgeRule d r t ix mask val
  | .fwAct => writeFwAct d val
  | .fwStageAddr => writeFwStageAddr d r val
  | .moverSubmit => moverSubmitRule d r (ix.headD 0) val
  | .xcCtl => xcCtlRule d r t ix mask val
  | .xcBase => collRegWrite d r t ix mask val
  | .xcSize => collRegWrite d r t ix mask val
  | .xcExpect => collRegWrite d r t ix mask val
  | .xcNext => collRegWrite d r t ix mask val
  | .xcCompl => collRegWrite d r t ix mask val
  | .thermStack => writeThermFlags d t ix val
  | .thermRind => writeThermFlags d t ix val
  | .thermTile => writeThermFlags d t ix val
  | .thermStackSnap => d
  | .thermRindSnap => d
  | .thermTileSnap => d
  | .msixCtl => unmaskMsix (plainWrite d t ix mask val) (ix.headD 0)
  | _ => plainWrite d t ix mask val

/-- Which register an offset lies in. -/
def regIdAt (off : Nat) : Option (RegId × List Nat) := (regAt (off / 8 * 8)).map fun x => (x.1.id, x.2)

/-- A write of a register by its BAR0 offset. -/
def writeBar0 (d : Dev) (r : Req) (off bytes : Nat) (v : DWord) : Dev :=
  match regIdAt off with
  | some (.blkEnable, _) => writeBlkEnable d r off bytes v
  | some (.tbConfig, _) => writeTbConfig d r off bytes v
  | some (.entropyStatus, _) => writeEntropyStatus d r off bytes v
  | some (.errlogBase, _) => writeErrlogBase d r bytes off v
  | some (.errlogPtr, _) => writeErrlogPtr d r off bytes v
  | some (.complogBase, _) => writeLogBase d r off bytes v
  | some (.complogCtl, _) => writeLogCtl d r off bytes v
  | some (.cwLogBase, _) => writeLogBase d r off bytes v
  | some (.cwLogCtl, _) => writeLogCtl d r off bytes v
  | some (.hbmPipr, _) => writePipr d r off bytes v
  | some (.xrRoute, _) => writeXrRoute d r off bytes v
  | some (.pwrCtl, _) => writePwrCtl d r off bytes v
  | some (.obsCtl, _) => writeObsCtl d r off bytes v
  | some (.fwCtl, _) => writeFwCtl d r off bytes v
  | some (.svcCtl, _) => writeSvcCtl d r off bytes v
  | some (.thermCtl, _) => writeThermCtl d r off bytes v
  | some (.krTlr, _) => writeKrTlr d r off bytes v
  | some (.xpCtl, ix) => writeXpCtl d r (8 * ix.headD 0 + ix.getD 1 0) off bytes v
  | some (.cwRecord, ix) =>
    if sizeOk off bytes then writeRecordAt d (.core (ix.headD 0)) (off % 0x100) (leBytes bytes v.toNat)
    else withWrite d r off bytes v fun d _ _ _ _ => d
  | _ => withWrite d r off bytes v (ruleWrite r)

/-! ### Command slots in BAR2 (R444, R451 to R453) -/

/-- Reserved bits of the registers at 0x40, 0x48, 0x50 and 0x58 of a slot. -/
def slotRsv (o : Nat) : Nat :=
  if o = 0x40 || o = 0x48 then 0xFF00000000 else if o = 0x50 then 0xFFFFFFFFFFFF0078 else 0xFFFFFFFF00FFFF80

/-- A write in a command slot. -/
def writeSlot (d : Dev) (n o bytes : Nat) (v : DWord) : Dev :=
  let off := 0x1000 * n + o
  if o < 0x40 && (bytes = 4 || bytes = 8) then writeRecordAt d (.slot n) o (leBytes bytes v.toNat)
  else if !sizeOk o bytes then winSizeError d (.slot n) o true bytes
  else if o ≥ 0x60 then logAccess d .host stReserved off true true bytes
  else
    let val := accessValue o bytes v
    if Nat.land val (slotRsv (o / 8 * 8)) ≠ 0 then logAccess d .host stReserved off true true bytes
    else if o / 8 * 8 = 0x50 then
      let x := winOf d (.slot n)
      let ctl := Nat.lor (Nat.land x.ctl.toNat (Nat.xor (2 ^ 64 - 1) (accessMask o bytes))) val
      if bits ctl 15 8 > 63 then logAccess d .host stHostField off true true bytes
      else putWin d (.slot n) { x with ctl := BitVec.ofNat 64 ctl }
    else d

/-- SLOT_STATUS (R453).
DESIGN CHOICE, unsafe (log 72). -/
def slotStatus (d : Dev) (n : Nat) : Nat :=
  ((d.held.filter fun h => h.op.win == .slot n).length <<< 24) + (d.ops.filter fun o => o.win == .slot n).length

/-- A read in a command slot.
DESIGN CHOICE, unsafe (log 72). -/
def readSlot (d : Dev) (n o bytes : Nat) : Dev :=
  let off := 0x1000 * n + o
  if o / 8 * 8 = 0x40 && sizeOk o bytes then readReceipt d (.slot n) bytes
  else if !sizeOk o bytes then winSizeError d (.slot n) o false bytes
  else if o ≥ 0x60 then emit (logAccess d .host stReserved off true false bytes) (.slotUnsupported off)
  else
    let x := winOf d (.slot n)
    let w : Nat := if o < 0x40 then leAt (recordBytes x) (o / 8 * 8) 8
      else if o / 8 * 8 = 0x48 then x.last.toNat
      else if o / 8 * 8 = 0x50 then x.ctl.toNat
      else slotStatus d n
    let v := if bytes = 8 then w else if o % 8 = 0 then w % 2 ^ 32 else w >>> 32
    emit d (.slotRead off (BitVec.ofNat 64 v))

/-! ### What registers read -/

/-- The 13 formats of R52, in ascending identifier (R616). -/
def formats : List Nat :=
  [0x0101, 0x0102, 0x0201, 0x0202, 0x0203, 0x0301, 0x0302, 0x0401, 0x0501, 0x0502, 0x0601, 0x0701, 0x0702]

/-- ENTROPY_STATUS (R237). -/
def entropyStatusWord (d : Dev) : Nat :=
  let e := d.entropy
  ((e.fails % 2 ^ 32) <<< 32) + (8 * e.pool.length <<< 16) + (e.restart.toNat <<< 3) + (e.latched.toNat <<< 2) +
    (e.failed.toNat <<< 1) + (decide (e.pool.length ≥ 8)).toNat

/-- MOVER_STATUS (R282). -/
def moverStatusWord (d : Dev) (r : Nat) : Nat :=
  let n (p : XferSt → Bool) : Nat := (d.xfers.filter fun x => x.rind == r && p x.st).length
  (n (· == .reserved) <<< 48) + (n (· == .queued) <<< 32) + (n (fun s => s == .active || s == .failing) <<< 16) +
    internalUsed d r

/-- PIP_STATUS (R352). -/
def pipStatusWord (d : Dev) : Nat :=
  let q := (d.sessions.filter fun e => e.2.st == .queued).length
  ((regGet d .pipStatus / 2 ^ 16) <<< 16) + ((d.sessions.length - q) <<< 8) + q

/-- HBM_STACKs (R353). -/
def hbmStackWord (d : Dev) (s : Nat) : Nat :=
  let x := stackOf d s
  let owed := (d.refresh.filter fun e => e.1 / 32 == s).foldl (fun m e => max m e.2.owed) 0
  (x.populated.toNat <<< 63) + ((x.capGib % 256) <<< 48) + (min 0xFF x.mappedOut.length <<< 40) + ((x.layersOut.length % 16) <<< 32) +
    ((x.band % 4) <<< 16) + owed % 16

/-- HOST_STATUS (R462).
DESIGN CHOICE, unsafe (log 72). -/
def hostStatusWord (d : Dev) : Nat :=
  let l := d.link
  ((regGet d .hostStatus / 2 ^ 32) <<< 32) + ((if l.up then l.rate else 3) <<< 8) + ((if l.up then l.width else 0) <<< 4) +
    (l.memEn.toNat <<< 3) + (l.cacheEn.toNat <<< 2) + (l.biEn.toNat <<< 1) + l.committed.toNat

/-- REPAIR_STATUS (R558); before bring-up it counts no tile as absent. -/
def repairStatusWord (d : Dev) : Nat :=
  let vp := d.slices.flatMap fun e => e.2.vports.map (·.2)
  let holes := (d.stks.map fun e => e.2.holes.length).foldl (· + ·) 0
  let absent := if d.phase == .coldHold then 0 else 256 - (d.tiles.filter fun e => e.2.present).length
  (bits (regGet d .repairStatus) 63 62 <<< 62) + ((d.slices.filter fun e => e.2.out).length <<< 53) +
    ((d.slices.filter fun e => goingOut e.2).length <<< 44) + (absent <<< 35) + ((vp.filter (·.out)).length <<< 25) +
    ((vp.filter fun v => v.half && !v.out).length <<< 15) + min 0xFF holes

/-- RESET_STATUS (R559). -/
def resetStatusWord (d : Dev) : Nat :=
  let c := d.creset
  ((regGet d .resetStatus / 2 ^ 16) <<< 16) + (if c.active then ((c.phase % 8) <<< 4) + (c.writeback.toNat <<< 1) + 1 else 0)

def collStCode : CollSt → Nat
  | .idle => 0
  | .armed => 1
  | .openSt => 2
  | .done => 3

/-- The value that a register reads, before any action of the read. -/
def regValue (d : Dev) (t : RegDef) (ix : List Nat) : Nat :=
  let i := ix.headD 0
  match t.id with
  | .capVersion => match formats[i]? with
    | some f => f * 2 ^ 16 + 1
    | none => 0
  | .blkState0 => blkStateWord d 0 20
  | .blkState1 => blkStateWord d 20 11
  | .tbNow => d.tb.now % 2 ^ 64
  | .entropyStatus => entropyStatusWord d
  | .errlogStatus => putBit (regGet d .errlogStatus) 0 (errNotEmpty d)
  | .hostStatus => hostStatusWord d
  | .pipStatus => pipStatusWord d
  | .hbmStack => hbmStackWord d i
  | .pwrState => pwrStateWord d
  | .repairStatus => repairStatusWord d
  | .resetStatus => resetStatusWord d
  | .idStatus => idStatusWord d
  | .fwStatus => fwStatusWord d
  | .gvStatus => gvStatusWord d
  | .gvOffers => d.fw.offersLeft
  | .svcStatus => svcStatusWord d i
  | .svcCount => ((svcOf d i).map (·.done)).getD 0
  | .thermStatus => thermStatusWord d
  | .thermStack => thermStackWord d i
  | .thermRind => thermRindWord d i
  | .thermTile => thermTileWord d i
  | .krStatus => (bits (regGet d .krStatus) 47 32 <<< 32) + ((maxPins d % 16) <<< 20) + d.preserves.length
  | .moverStatus => moverStatusWord d i
  | .xcCtl => collStCode (collOf d i (ix.getD 1 0)).st <<< 6
  | .xcRecv => (collOf d i (ix.getD 1 0)).received % 2 ^ 41
  | .cwRecord => leAt (recordBytes (winOf d (.core i))) (8 * ix.getD 1 0) 8
  | _ => Nat.land (regGet d t.id ix) (Nat.xor (2 ^ 64 - 1) (Nat.lor t.wo t.rsv))

/-- A read of a register by its BAR0 offset. -/
def readBar0 (d : Dev) (r : Req) (off bytes : Nat) : Dev :=
  match regIdAt off with
  | some (.tbNow, _) =>
    if sizeOk off bytes then readTbNow d r (if bytes = 8 then .full else if off % 8 = 0 then .lo else .hi)
    else withRead d r off bytes fun d _ _ => (d, none)
  | some (.entropyData, _) => readEntropyData d r off bytes
  | some (.cwReceipt, ix) =>
    if sizeOk off bytes then readReceipt d (.core (ix.headD 0)) bytes else withRead d r off bytes fun d _ _ => (d, none)
  | _ => withRead d r off bytes fun d t ix => (d, some (regValue d t ix))

/-! ### The two rows -/

/-- REGISTER_WRITE. BAR2 is the host's alone (R611). -/
def execRegisterWrite (r : Req) (bar2 : Bool) (off bytes : Nat) (v : DWord) (s : State) : Result :=
  act s fun d =>
    if !bar2 then writeBar0 d r off bytes v
    else if r = .host && off < 0x40000 then writeSlot d (off / 0x1000) (off % 0x1000) bytes v else d

/-- REGISTER_READ.
DEDUCED, safe (log 62). -/
def execRegisterRead (r : Req) (bar2 : Bool) (off bytes : Nat) (s : State) : Result :=
  act s fun d =>
    if !bar2 then readBar0 d r off bytes
    else if r = .host && off < 0x40000 then readSlot d (off / 0x1000) (off % 0x1000) bytes else d

end Sys2Proof.Machine
end

