-- ==== Sys2Proof/Machine/Gesso.lean ====
section
/-! DEFINITION. Gesso (R464 to R476, R486): the start configuration in the flash, the limits it gives, the register values it
sets, the service manifest; and the repair records (R539 to R542). -/
namespace Sys2Proof.Machine
open Sys2Proof

/-! ### Directory (R465, R466) -/

structure GEntry where
  ix   : Nat
  ty   : Nat
  off  : Nat
  len  : Nat
  crc  : Nat
deriving DecidableEq, Repr

/-- What step 2 works on: the directory that remains, and the sections' bytes. -/
structure GFile where
  size    : Nat
  entries : List GEntry
deriving DecidableEq, Repr

def sectionBytes (d : Dev) (e : GEntry) : List Byte := nvmBytes d e.off e.len

/-- A failure of Gesso: it is logged, and the first one gives FIRST_FAIL.
DESIGN CHOICE, unsafe (log 92). -/
def gessoFail (d : Dev) (st : Half) : Dev :=
  let d := bootLog d 2 st 2
  if regField d .gessoStatus [] 63 48 = 0 then regSetField d .gessoStatus [] 63 48 st.toNat else d

/-- An entry is ignored or partly rejected. -/
def entryFail (d : Dev) (e : GEntry) : Dev := if e.ix < 32 then regSetBit d .gessoStatus [] (16 + e.ix) else d

/-- An entry fails with a status (R468).
DESIGN CHOICE, unsafe (log 92). -/
def failEntry (d : Dev) (e : GEntry) (st : Half) : Dev := entryFail (gessoFail d st) e

/-- Step 1 of R468.
DESIGN CHOICE, unsafe (log 92). -/
def headerFault (d : Dev) : Option Half :=
  let h := nvmBytes d 0 64
  let n := leAt h 8 1
  match checkPrefix 0x0701 (leAt h 0 4) with
  | some st => some st
  | none =>
    let size := leAt h 4 4
    let dir := nvmBytes d 64 (16 * n)
    if leAt h 3 1 ≠ 0 || !allZeroAt h 9 0x33 then some stReserved
    else if size < 128 || size > 0x100000 || size % 64 ≠ 0 || n = 0 || n > 32 then some stGessoField
    else if (crc32 (zeroed h 0x3C 4 ++ dir)).toNat ≠ leAt h 0x3C 4 then some stGessoCrc
    else none

def readDirectory (d : Dev) : GFile :=
  let n := nvmByte d 8
  { size := leNat (nvmBytes d 4 4)
    entries := (List.range n.toNat).map fun i =>
      let l := nvmBytes d (0x40 + 16 * i) 16
      { ix := i, ty := leAt l 0 1, off := leAt l 4 4, len := leAt l 8 4, crc := leAt l 12 4 } }

/-- An entry breaks R466. -/
def entryBad (d : Dev) (g : GFile) (e : GEntry) : Bool :=
  !allZeroAt (nvmBytes d (0x40 + 16 * e.ix) 16) 1 3 || e.off % 64 != 0 || decide (e.off < 0x40 + 16 * g.entries.length) ||
    decide (e.off + e.len > g.size)

/-- Step 2: an entry breaks R466, or two sections overlap. -/
def directoryBad (d : Dev) (g : GFile) : Bool :=
  g.entries.any (entryBad d g) ||
  g.entries.any fun a => g.entries.any fun b => decide (a.ix < b.ix) && overlaps a.off a.len b.off b.len

/-- Step 3: sections whose CRC does not match are ignored. -/
def dropCorrupt (d : Dev) (g : GFile) : Dev × GFile :=
  let bad (e : GEntry) : Bool := (crc32 (sectionBytes d e)).toNat != e.crc
  ((g.entries.filter bad).foldl (fun d e => failEntry d e stGessoCrc) d, { g with entries := g.entries.filter fun e => !bad e })

/-- The first section of a type.
DESIGN CHOICE, unsafe (log 92). -/
def sectionOf (g : GFile) (ty : Nat) : Option GEntry := g.entries.find? fun e => e.ty == ty

/-! ### Limits (R3, R469 to R472) -/

/-- The limits of the safe configuration: ordering and capacity stay as they are known.
DESIGN CHOICE, unsafe (log 93). -/
def safeLimits (l : Limits) : Limits :=
  { l with powerW := 1000, maxRate := 2, hbmRate := 96, rindMhz := 1000, stemMhz := 600, safe := true,
           vcoreMv := if l.vcoreMv = 0 then 900 else l.vcoreMv,
           hbmBytes := if l.ordering = 2 then 0xC000000000 else 0x10000000000 }

/-- The capability registers show the effective limits (R612, R614, R615).
DESIGN CHOICE, unsafe (log 93). -/
def showLimits (d : Dev) : Dev :=
  let l := d.limits
  let d := regSetField d .capDevice [] 47 40 l.ordering
  let d := regPut d .capLimits [] ((l.powerW <<< 48) + (l.vcoreMv <<< 32) + (l.hbmRate <<< 24) + (l.maxRate <<< 16))
  let d := regPut d .capClocks [] ((l.rindMhz <<< 16) + l.stemMhz)
  noteLimit (regSetField d .capMemory [] 47 0 l.hbmBytes)

/-- The safe configuration (R469).
DESIGN CHOICE, unsafe (log 93). -/
def enterSafe (d : Dev) : Dev := regSetBit { d with limits := safeLimits d.limits } .gessoStatus [] 2

/-- Figures of R3 for an ordering code: lowest lane rate code, power, HBM rate, stack sites. -/
def orderingLimits (o : Nat) : Nat × Nat × Nat × Nat :=
  if o = 0 then (0, 3000, 104, 0xFFFF) else if o = 1 then (0, 2400, 96, 0xFFFF) else (1, 1900, 96, 0x0FFF)

/-- The VENDOR section is well formed. -/
def vendorOk (l : List Byte) : Bool :=
  let o := leAt l 0 1
  let (rate, power, hbm, sites) := orderingLimits o
  l.length == 320 && decide (o ≤ 2) && decide (rate ≤ leAt l 1 1 ∧ leAt l 1 1 ≤ 2) && decide (leAt l 2 2 ≤ power) &&
    Nat.land (leAt l 4 2) sites == leAt l 4 2 && decide (leAt l 6 1 ≤ hbm) && decide (leAt l 0xC 2 ≤ 900) &&
    allZeroAt l 7 1 && allZeroAt l 0xE 2 && allZeroAt l 0x130 16

/-- The Tchisia test key, when its block holds (R563, R566). -/
def testKey (d : Dev) : Option (List Byte) :=
  let l := List.replicate 0x100 0 ++ nvmBytes d 0x11C000 0x100
  if signerOk l && leAt l 0x179 1 == 2 then some (slice l 0x140 57) else none

/-- A signature by the test key. -/
def testSigned (d : Dev) (msg sig : List Byte) : Bool := match testKey d with
  | some k => Config.ed448Verify k msg sig
  | none => false

/-- DEVICE_DIGEST names this device. -/
def boundHere (d : Dev) (dg : List Byte) : Bool := d.fw.seed.isSome && dg == d.fw.digest

/-- Step 4: the VENDOR section's bytes, or the failure. -/
def readVendor (d : Dev) (g : GFile) : Except Half (List Byte) :=
  match sectionOf g 1 with
  | none => .error stGessoField
  | some e =>
    let l := sectionBytes d e
    if !vendorOk l then .error stGessoField
    else match sectionOf g 2 with
      | none => .error stGessoSignature
      | some s =>
        let sig := sectionBytes d s
        if sig.length ≠ 114 || !testSigned d l sig then .error stGessoSignature
        else if !boundHere d (slice l 0x10 32) then .error stGessoBinding
        else .ok l

/-- The vendor limits take effect.
DESIGN CHOICE, safe (log 9). -/
def takeVendor (d : Dev) (l : List Byte) : Dev :=
  let o := leAt l 0 1
  let delays := (List.range 64).map fun p => (leAt l (0x30 + 4 * p) 2, leAt l (0x32 + 4 * p) 2)
  let lim : Limits := { ordering := o, powerW := leAt l 2 2, vcoreMv := leAt l 0xC 2, hbmRate := leAt l 6 1, maxRate := leAt l 1 1,
                        rindMhz := leAt l 8 2, stemMhz := leAt l 0xA 2,
                        hbmBytes := if o = 2 then 0xC000000000 else 0x10000000000, stackMask := leAt l 4 2 }
  regSetBit { d with limits := lim, board := { d.board with portDelays := delays } } .gessoStatus [] 1

/-- A board limit above the vendor limit was lowered to it. -/
def clamped (d : Dev) : Dev := regSetBit (logErr d stGessoLimit ukStem 0 2) .gessoStatus [] 3

/-! ### Register values (R473) -/

/-- Write one register value; a discard keeps the old value, logs the register's code as the device's own access and
marks the entry. -/
def gessoWrite (e : GEntry) (d : Dev) (off v : Nat) : Dev :=
  let d' := writeBar0 { d with errq := [] } (.core 0) off 8 (BitVec.ofNat 64 v)
  match d'.errq with
  | [] => { d' with errq := d.errq, out := d.out }
  | r :: _ => failEntryAt (logErr d r.status ukStem 0 2 0 (accessDetail off false true 8)) e r.status
where
  failEntryAt (d : Dev) (e : GEntry) (st : Half) : Dev :=
    let d := entryFail (bootFail d 2 st) e
    if regField d .gessoStatus [] 63 48 = 0 then regSetField d .gessoStatus [] 63 48 st.toNat else d

/-- A field of the BOARD section, ignored when it is out of range. -/
def boardField (e : GEntry) (ok : Bool) (f : Dev → Dev) (d : Dev) : Dev := if ok then f d else failEntry d e stGessoField

/-- BOARD: limits, policies, then the register values in offset order (R471). -/
def applyBoard (d : Dev) (e : GEntry) : Dev :=
  let l := sectionBytes d e
  if l.length ≠ 128 then failEntry d e stGessoField
  else
    let w := leAt l 0 2
    let rate := leAt l 2 1
    let grace := leAt l 6 2
    let v := d.limits
    let d := if w > v.powerW then clamped d
      else if w = 0 then d else { d with limits := { d.limits with powerW := w } }
    let d := boardField e (decide (rate ≤ 2)) (fun d => if rate < v.maxRate then clamped d
      else { d with limits := { d.limits with maxRate := rate } }) d
    let d := boardField e (decide (leAt l 3 1 ≤ 1)) (fun d => { d with board := { d.board with resetPolicy := leAt l 3 1 } }) d
    let d := boardField e (decide (leAt l 4 1 ≤ 1)) (fun d => { d with board := { d.board with testEn := leAt l 4 1 == 1 } }) d
    let d := boardField e (decide (leAt l 5 1 ≤ 1)) (fun d => { d with board := { d.board with servicesEn := leAt l 5 1 == 1 } }) d
    let d := boardField e (grace == 0 || decide (10 ≤ grace ∧ grace ≤ 2000)) (fun d =>
      if grace = 0 then d else regSetField d .thermCtl [] 47 32 grace) d
    let d := { d with board := { d.board with pairJoined := leAt l 8 4 } }
    let d := boardField e (allZeroAt l 0xC 4) id d
    let d := flushErrors d
    let regs := [regOff .tbConfig [], regOff .errlogBase [], regOff .gleanCfg [], regOff .xrCfg [], regOff .xrRoute [],
                 regOff .xrTimeout []] ++ (List.range 8).map fun n => regOff .xrWindow [n]
    (regs.mapIdx fun i off => (off, leAt l (0x10 + 8 * i) 8)).foldl (fun d x => gessoWrite e d x.1 x.2) d

/-- One entry of PORTS (R472, R474). `vendorRate` is the vendor's lane rate code. -/
def applyPort (e : GEntry) (vendorRate : Nat) (d : Dev) (p x : Nat) : Dev :=
  if bits x 39 34 ≠ 0 || bits x 31 11 ≠ 0 || bits x 47 40 > 63 then failEntry d e stGessoField
  else
    let rate := bits x 10 8
    let d := if rate < vendorRate then clamped d else d
    let d := modPort d p fun y => { y with
      expectDev := if bitAt x 33 then some (bits x 63 48, bits x 47 40) else none, grapevine := bitAt x 32 }
    gessoWrite e d (regOff .xpCtl [p / 8, p % 8]) (putBits (bits x 10 0) 10 8 (max rate d.limits.maxRate))

def applyPorts (vendorRate : Nat) (d : Dev) (e : GEntry) : Dev :=
  let l := sectionBytes d e
  if l.length ≠ 512 then failEntry d e stGessoField
  else (List.range 64).foldl (fun d p => applyPort e vendorRate d p (leAt l (8 * p) 8)) d

/-- HUES (R467). -/
def applyHues (d : Dev) (e : GEntry) : Dev :=
  let l := sectionBytes d e
  if l.length ≠ 264 then failEntry d e stGessoField
  else
    let d := (List.range 16).foldl (fun d h =>
      gessoWrite e (gessoWrite e d (regOff .hueA [h]) (leAt l (16 * h) 8)) (regOff .hueB [h]) (leAt l (16 * h + 8) 8)) d
    gessoWrite e d (regOff .hueSources []) (leAt l 256 8)

/-- REGIONS, the pip regions first.
DESIGN CHOICE, unsafe (log 92). -/
def applyRegions (d : Dev) (e : GEntry) : Dev :=
  let l := sectionBytes d e
  if l.length ≠ 256 then failEntry d e stGessoField
  else
    let d := (List.range 16).foldl (fun d n => gessoWrite e d (regOff .hbmPipr [n]) (leAt l (8 * n) 8)) d
    (List.range 16).foldl (fun d n => gessoWrite e d (regOff .krTlr [n]) (leAt l (128 + 8 * n) 8)) d

/-! ### The manifest (R476, R477, R479) -/

/-- A load entry, when it is well formed. -/
def readLoad (l : List Byte) : Option LoadEnt :=
  let w := leAt l 0 8
  let x : LoadEnt := { src := bits w 7 0, peer := bits w 31 16, srcAddr := leAt l 8 8, dstAddr := leAt l 16 8, size := leAt l 24 8 }
  let sized := x.size % 64 == 0 && decide (64 ≤ x.size ∧ x.size ≤ 2 ^ 40)
  if bits w 15 8 ≠ 0 || bits w 63 32 ≠ 0 || (x.src ≠ 1 && x.peer ≠ 0) then none
  else if x.src ≤ 1 then (if sized then some x else none)
  else if x.src = 2 && x.srcAddr % 8 == 0 && x.dstAddr == 0 then some x else none

/-- The parameters of a kind are in range, and those it does not use are zero (R479). -/
def paramsOk (kind : Nat) (p : Nat → Nat) : Bool :=
  let zeroFrom (n : Nat) : Bool := (List.range (12 - n)).all fun i => p (n + i) == 0
  if kind = 1 then decide (p 0 ≥ 4000) && decide (p 1 < 2 ^ 16) && zeroFrom 2
  else if kind = 2 then
    let n := bits (p 1) 31 0
    let z := bits (p 1) 63 32
    let len := bits (p 4) 15 0
    let limit := bits (p 4) 31 16
    p 0 % 4096 == 0 && decide (1 ≤ n ∧ n ≤ 65536) && z % 1024 == 0 && decide (1024 ≤ z ∧ z ≤ 65536) &&
      p 2 % 64 == 0 && decide (0x40 ≤ p 2 ∧ p 2 < z) && p 3 % 64 == 0 && decide (1 ≤ len ∧ len ≤ 4096) &&
      decide (1 ≤ limit ∧ limit ≤ len ∧ p 4 < 2 ^ 32) && bits (p 5) 31 16 == 0 && decide (bits (p 5) 63 32 ≥ 4000) && zeroFrom 6
  else
    decide (p 1 < 2 ^ 16) && p 2 % 8 == 0 && decide (1 ≤ p 5 ∧ p 5 ≤ 64) && decide (p 6 ≥ 4000) && zeroFrom 7

/-- Entry `n` of the manifest, when it is well formed.
DESIGN CHOICE, unsafe (log 79). -/
def readSvc (n : Nat) (l : List Byte) : Option Svc :=
  let kind := leAt l 1 1
  let core := leAt l 2 1
  let dep := leAt l 4 1
  let loads := leAt l 5 1
  let image := leAt l 8 8
  let size := leAt l 0x10 4
  let delay := leAt l 0x18 8
  let ps := (List.range 12).map fun i => leAt l (0xA0 + 8 * i) 8
  let ok : Bool := leAt l 0 1 == n && decide (1 ≤ kind ∧ kind ≤ 3 ∧ 1 ≤ core ∧ core ≤ 7 ∧ loads ≤ 4) &&
    (dep == 0xFF || decide (dep < n)) && allZeroAt l 6 2 && allZeroAt l 0x14 4 && image % 64 == 0 && decide (image < 2 ^ 48) &&
    decide (128 ≤ size) && decide (delay ≥ 4000) && paramsOk kind fun i => ps.getD i 0
  if !ok then none
  else ((List.range loads).mapM fun i => readLoad (slice l (0x20 + 32 * i) 32)).map fun ls =>
    { kind := kind, core := core, restarts := leAt l 3 1, depends := if dep = 0xFF then none else some dep, loads := ls,
      image := image, imageSize := size, t0Delay := delay, params := ps.map (BitVec.ofNat 64 ·) }

/-- MANIFEST: well-formed entries are services; a malformed one leaves its service DISABLED.
DESIGN CHOICE, unsafe (log 79). -/
def applyManifest (d : Dev) (e : GEntry) : Dev :=
  let l := sectionBytes d e
  let n := leAt l 0 1
  if l.length < 16 || n > 16 || l.length < 16 + 256 * n || !allZeroAt l 1 15 then failEntry d e stSvcField
  else (List.range n).foldl (fun d i => match readSvc i (slice l (16 + 256 * i) 256) with
    | some v => putSvc d i v
    | none => failEntry d e stSvcField) d

/-! ### Repair records (R539 to R542) -/

/-- The places of a record hold what its type allows, and every other byte is zero. -/
def repairOk (l : List Byte) : Bool :=
  let b (i : Nat) : Nat := leAt l i 1
  let z (i : Nat) : Bool := allZeroAt l i (16 - i)
  let slice16 := leAt l 2 2
  b 1 == 0 &&
    (if b 0 = 1 || b 0 = 2 then decide (b 2 ≤ 16 ∧ b 3 ≤ 15) && z 4
     else if b 0 = 3 then decide (slice16 ≤ 255 ∧ b 4 ≤ 39) && z 5
     else if b 0 = 4 then decide (slice16 ≤ 255) && z 4
     else if b 0 = 5 then decide (slice16 ≤ 255 ∧ b 4 ≤ 1 ∧ b 5 ≤ 119 ∧ b 6 ≤ 65) && z 7
     else if b 0 = 6 then decide (b 2 ≤ 15 ∧ b 3 ≤ 31 ∧ b 4 ≤ 47) && z 5
     else if b 0 = 7 then decide (b 2 ≤ 15 ∧ b 3 ≤ 11) && z 4
     else if b 0 = 8 then decide (slice16 ≤ 2591) && z 12
     else if b 0 = 9 then z 12
     else if b 0 = 0xA then z 10
     else false)

/-- What the sources of repairs give: the records in force, in order, and the bytes they came from (R565 index 5). -/
structure Repairs where
  recs : List (List Byte) := []
  used : List Byte := []
deriving DecidableEq, Repr

/-- One REPAIR section (R539, R540). -/
def readRepair (acc : Dev × Repairs) (e : GEntry) : Dev × Repairs :=
  let (d, r) := acc
  let l := sectionBytes d e
  let n := leAt l 0x20 4
  if n = 0 || n > 65000 || l.length ≠ 0x40 + 16 * n + 114 || !allZeroAt l 0x24 0x1C then (failEntry d e stGessoField, r)
  else if !testSigned d (l.take (0x40 + 16 * n)) (l.drop (0x40 + 16 * n)) then (failEntry d e stGessoSignature, r)
  else if !boundHere d (l.take 32) then (failEntry d e stGessoBinding, r)
  else
    let recs := (List.range n).map fun i => slice l (0x40 + 16 * i) 16
    let d := (recs.filter fun x => !repairOk x).foldl (fun d _ => failEntry d e stGessoField) d
    (d, { recs := r.recs ++ recs.filter repairOk, used := r.used ++ l })

/-- Types that the field repair log holds. -/
def logTypes : List Nat := [1, 3, 4, 5, 6, 7]

/-- Entries of the field repair log from entry `i` on, up to its end (R542). -/
def readLog : Nat → Nat → List Byte → Dev × Repairs → Dev × Repairs
  | 0, _, _, acc => acc
  | f + 1, i, key, (d, r) =>
    let l := nvmBytes d (0x100000 + 64 * i) 64
    if l.all (· == 0xFF) then (d, r)
    else if leAt l 16 4 ≠ i || kmac256 key (l.take 32) [] 16 ≠ slice l 32 16 then (bootLog d 2 stRepairLog, r)
    else
      let x := l.take 16
      let ok := repairOk x && nmem (leAt x 0 1) logTypes
      let d := { (if ok then d else bootLog d 2 stGessoField 2) with repairCnt := i + 1 }
      readLog f (i + 1) key (d, { recs := if ok then r.recs ++ [x] else r.recs, used := r.used ++ l })

/-- The records of the REPAIR sections, up to 16 of them (R467); later ones are ignored.
DESIGN CHOICE, unsafe (log 92). -/
def gessoRepairs (d : Dev) (es : List GEntry) : Dev × Repairs :=
  let rs := es.filter fun e => e.ty == 7
  (rs.take 16).foldl readRepair ((rs.drop 16).foldl entryFail d, {})

/-- The records of Gesso, and then those of the log. -/
def logRepairs (acc : Dev × Repairs) : Dev × Repairs :=
  match deviceKey acc.1 "VZ1 REPAIR" 32 with
  | some k => readLog 1024 0 k acc
  | none => acc

/-! ### Bring-up step 2 -/

/-- Entries of unassigned types, and later ones of a type that may stand once in the directory `all`, are ignored.
PRESUMED, unsafe (log 91). -/
def dropUnknown (d : Dev) (all : List GEntry) (g : GFile) : Dev × GFile :=
  let unknown (e : GEntry) : Bool := e.ty == 0 || decide (e.ty > 8)
  let again (e : GEntry) : Bool := e.ty != 7 && all.any fun a => a.ty == e.ty && decide (a.ix < e.ix)
  let d := (g.entries.filter unknown).foldl (fun d e => failEntry d e stGessoField) d
  let d := (g.entries.filter fun e => !unknown e && again e).foldl entryFail d
  (d, { g with entries := g.entries.filter fun e => !unknown e && !again e })

/-- Measurements 3 and 4 (R565). -/
def measureGesso (d : Dev) (g : GFile) : Dev :=
  let part (ty : Nat) : List Byte := ((sectionOf g ty).map (sectionBytes d)).getD []
  setMeasure (setMeasure d 3 (shake256 (part 1 ++ part 2) 64)) 4 (shake256 (nvmBytes d 0 g.size) 64)

/-- Apply a section when there is one. -/
def applySection (g : GFile) (ty : Nat) (f : Dev → GEntry → Dev) (d : Dev) : Dev := match sectionOf g ty with
  | some e => f d e
  | none => d

/-- The safe configuration over the entries that can be read: every one but the REPAIR sections is ignored, and those are
applied (R468, R469).
DESIGN CHOICE, unsafe (log 93). -/
def safeGesso (d : Dev) (es : List GEntry) : Dev × Repairs :=
  gessoRepairs ((es.filter fun e => e.ty != 7).foldl entryFail (enterSafe d)) es

/-- Steps 4 and 5 of R468, sections in ascending type code.
DESIGN CHOICE, unsafe (log 92). -/
def applyGesso (d : Dev) (g : GFile) : Dev × Repairs := match readVendor d g with
  | .error st => safeGesso (gessoFail d st) g.entries
  | .ok l =>
    let d := takeVendor d l
    let rate := d.limits.maxRate
    let d := applySection g 3 applyBoard d
    let d := applySection g 4 (applyPorts rate) d
    let d := applySection g 5 applyHues d
    let d := applySection g 6 applyRegions d
    let (d, r) := gessoRepairs d g.entries
    (applySection g 8 applyManifest d, r)

/-- Entries of a directory that step 1 or 2 refused: those that keep R466 themselves and whose CRC matches.
DESIGN CHOICE, unsafe (log 93). -/
def readableEntries (d : Dev) : List GEntry :=
  let g := readDirectory d
  if g.entries.length > 32 then []
  else g.entries.filter fun e => !entryBad d { g with size := min g.size 0x100000 } e &&
    (crc32 (sectionBytes d e)).toNat == e.crc

/-- Gesso as step 2 reads and applies it. -/
def takeGesso (d : Dev) : Dev × Repairs :=
  if !d.flashOk then (enterSafe d, {})
  else match headerFault d with
  | some st => safeGesso (gessoFail d st) (readableEntries d)
  | none =>
    let g := readDirectory d
    if directoryBad d g then safeGesso (gessoFail d stGessoField) (readableEntries d)
    else
      let (d, g1) := dropCorrupt (measureGesso (regSetBit d .gessoStatus [] 0) g) g
      let (d, g2) := dropUnknown d g.entries g1
      applyGesso d g2

/-- Step 2: Gesso, the field repair log, the effective limits as they read, and a free-running time base locked at once
(R92). -/
def bootGesso (d : Dev) : Dev × Repairs :=
  let (d, r) := takeGesso d
  let (d, r) := if d.flashOk then logRepairs (d, r) else (d, r)
  (showLimits (if tbRole d = 0 then setRole d 0 else d), r)

end Sys2Proof.Machine
end

