-- ==== Sys2Proof/Machine/Bringup.lean ====
section
/-! DEFINITION. Bring-up (R536 to R552): steps 1 to 6 at the release of cold reset, steps 7 to 10 when the Xeost step ends, and
the power-good signals (R594). -/
namespace Sys2Proof.Machine
open Sys2Proof

/-! ### Step 1 -/

/-- A block is enabled and ON. -/
def enableBlock (d : Dev) (k : Nat) : Dev := regSetBit (setBlk d k .on) .blkEnable [] k

/-- The start-up test of the entropy source (R236).
DESIGN CHOICE, unsafe (log 42). -/
def startEntropy (d : Dev) (ok : Bool) : Dev :=
  if ok then modEntropy d fun e => { e with startup := false }
  else logErr (modEntropy d fun e => { e with startup := false, failed := true, fails := 1 }) stEntropyFail ukStem 0 3

/-- Step 1: the ROM, the entropy source, the flash, the seed. -/
def bootRom (d : Dev) (env : BootEnv) : Dev :=
  let d := startEntropy (enableBlock (bootStep d 1) blkEntropy) env.entropyOk
  let d := setMeasure { d with flashOk := env.flashOk } 1 (shake256 (Config.rootDigest ++ Config.romImage) 64)
  if env.flashOk then takeIdentity d env.startup else bootLog d 1 stNvm

/-! ### Step 3: HBM (R323, R551, R552) -/

/-- A record field. -/
def recB (l : List Byte) (i : Nat) : Nat := leAt l i 1

/-- Records of a type. -/
def ofType (r : Repairs) (ty : Nat) : List (List Byte) := r.recs.filter fun l => recB l 0 == ty

/-- Numbers without repeats, in rising order. -/
def distinct (l : List Nat) : List Nat := l.foldl (fun acc n => nadd n acc) []

/-- Die of a bank of a pseudo-channel: four in turn.
PRESUMED, unsafe (log 91). -/
def dieOf (bank : Nat) : Nat := bank / 4

/-- Banks of a stack, as pc × 48 + bank, that a list of device bank numbers names. -/
def banksOf (s : Nat) (l : List Nat) : List Nat := distinct ((l.filter fun b => b / 1536 == s).map (· % 1536))

/-- The map of a stack: dies out, then banks, each pseudo-channel's reserve in ascending bank number, the rest holes.
PRESUMED, unsafe (log 91). -/
def mapStack (dies banks : List Nat) (st : Stack) : Stack :=
  let perPc (pc : Nat) : List Nat :=
    ((List.range 48).filter fun b => nmem (dieOf b) dies) ++
      (List.range 48).filter fun b => !nmem (dieOf b) dies && nmem (pc * 48 + b) banks
  let mapped := (List.range 32).flatMap fun pc => ((perPc pc).take 5).map (pc * 48 + ·)
  let holes := (List.range 32).flatMap fun pc => ((perPc pc).drop 5).map (pc * 48 + ·)
  let whole (x : Nat) : Bool := (List.range 32).all fun pc => (List.range 4).all fun i => mapped.contains (pc * 48 + 4 * x + i)
  { st with mappedOut := distinct mapped, holes := distinct holes, layersOut := dies.filter whole }

/-- Test findings of a stack that no record names are appended to the log. -/
def noteFindings (d : Dev) (s : Nat) (dies banks : List Nat) : Dev :=
  let d := dies.foldl (fun d x => repairRecord d [7, 0, s, x]) d
  banks.foldl (fun d b => repairRecord d [6, 0, s, b / 48, b % 48]) d

/-- Train one site, and map out what the records and the test name.
DESIGN CHOICE, unsafe (log 94). -/
def bootStack (env : BootEnv) (r : Repairs) (d : Dev) (s : Nat) : Dev :=
  let found := bitAt env.stacksFound s
  let wanted := d.limits.safe && d.limits.ordering = 0xFF || bitAt d.limits.stackMask s
  if !found then d
  else if !wanted then { d with stks := tput d.stks s { populated := true } }
  else if bitAt env.stacksBad s then
    let (n, d) := drawNat d
    { d with stks := tput d.stks s { populated := true, capGib := n % 256 } }
  else
    let bad := banksOf s env.hbmBadBanks
    let recDies := distinct (((ofType r 7).filter fun l => recB l 2 == s).map fun l => recB l 3)
    let recBanks := distinct (((ofType r 6).filter fun l => recB l 2 == s).map fun l => recB l 3 * 48 + recB l 4)
    let newDies := (List.range 12).filter fun x =>
      !nmem x recDies && decide ((bad.filter fun b => dieOf (b % 48) == x).length ≥ 8)
    let dies := distinct (recDies ++ newDies)
    let newBanks := bad.filter fun b => !nmem (dieOf (b % 48)) dies && !nmem b recBanks
    let st := mapStack dies (distinct (recBanks ++ newBanks)) { populated := true, inService := true, capGib := 64 }
    noteFindings { d with stks := tput d.stks s st } s newDies newBanks

/-- A stack that the ordering code calls for is missing or is not of R321. -/
def stackMissing (d : Dev) : Bool := (List.range 16).any fun s => bitAt d.limits.stackMask s && !(stackOf d s).inService

/-- Step 3, and whether the tile quadrants stay OFF.
PRESUMED, unsafe (log 91). -/
def bootHbm (d : Dev) (env : BootEnv) (r : Repairs) : Dev × Bool :=
  let d := (List.range 16).foldl (bootStack env r) (bootStep d 3)
  let d := regSetField d .capDevice [] 15 0 (ofBitList ((List.range 16).filter fun s => (stackOf d s).inService))
  if stackMissing d then
    let d := bootLog { d with limits := safeLimits d.limits, noHdm := true } 3 stHbmMissing
    (showLimits d, true)
  else (d, false)

/-! ### Step 4: Kreten (R546 to R550) -/

/-- Run a repair that a record names: it is neither logged nor appended again.
PRESUMED, unsafe (log 91). -/
def silently (d : Dev) (f : Dev → Dev) : Dev := { f d with errq := d.errq, repairq := d.repairq }

/-- A bond of a list: ((slice × 2 + port) × 120 + bundle) × 66 + bond. -/
def bootBond (d : Dev) (n : Nat) : Dev := swapBond d (n / 15840) (n / 7920 % 2) (n % 7920)

/-- Bonds that BOND records name. -/
def recordBonds (r : Repairs) : List Nat :=
  distinct ((ofType r 5).map fun l => ((leAt l 2 2 * 2 + recB l 4) * 120 + recB l 5) * 66 + recB l 6)

/-- Banks of a slice that the march test finds bad join it and the log. -/
def slicePend (d : Dev) (s : Nat) (banks : List Nat) : Dev :=
  let d := banks.foldl (fun d b => repairRecord d [3, 0, s % 256, s / 256, b]) d
  modSlice d s fun sl => { sl with pendBanks := banks.foldl (fun l b => nadd b l) sl.pendBanks }

/-- Every repair of a slice takes effect. -/
def bootSlice (env : BootEnv) (r : Repairs) (d : Dev) (s : Nat) : Dev :=
  let recBanks := distinct (((ofType r 3).filter fun l => leAt l 2 2 == s).map fun l => recB l 4)
  let out := (ofType r 4).any fun l => leAt l 2 2 == s
  let found := distinct ((env.krBadBanks.filter fun b => b / 40 == s && !nmem (b % 40) recBanks).map (· % 40))
  let d := if recBanks.isEmpty then d else modSlice d s fun sl => { sl with badBanks := recBanks }
  let d := if out then modSlice d s fun sl => { sl with pendOut := true } else d
  let d := if found.isEmpty then d else slicePend d s found
  let d := if env.krBadSlices.contains s then pendSlice d s else d
  if goingOut (sliceOf d s) || !(sliceOf d s).pendBanks.isEmpty then repairSlice d s else d

/-- Step 4. -/
def bootKreten (d : Dev) (env : BootEnv) (r : Repairs) : Dev :=
  let d := bootStep d 4
  let old := recordBonds r
  let d := silently d fun d => old.foldl bootBond d
  let d := (distinct (env.badBonds.filter fun n => n < 256 * 15840 && !nmem n old)).foldl bootBond d
  let d0 := d
  let d := (List.range 256).foldl (bootSlice env r) d
  let d := regClearBit (logUnmappable d0 d) .repairStatus [] 63
  let d := if (List.range 256).any fun s => (servingSlice d s).isNone then
      bootFail { d with noHdm := true } 4 stKrUnmappable else d
  let d := countSlices d
  if env.underMeshBad then bootLog { d with noTiles := true, noHdm := true, noServices := true } 4 stMeshFault else d

/-! ### Step 5: the tile map (R543, R517) -/

/-- Calibration and model records (R541). -/
def calOf (l : List Byte) : CalRec :=
  let ty := recB l 0
  let at_ (i : Nat) : Word := BitVec.ofNat 32 (leAt l i 4)
  if ty = 0xA then { kind := ty, a := leAt l 2 2, b := leAt l 4 2, v0 := at_ 6, v1 := 0 }
  else { kind := ty, a := leAt l 2 2, b := 0, v0 := at_ 4, v1 := at_ 8 }

/-- Ring-oscillator sensors with no calibration are flagged from the start.
DEDUCED, unsafe (log 81). -/
def flagSensors (d : Dev) : Dev :=
  (List.range 2592).foldl (fun d k =>
    if d.cals.any fun c => c.kind == 8 && c.a == k then d
    else { d with sensors := tput d.sensors k { sensorAt d k with flagged := true } }) d

/-- Step 5, after which the REPAIR bytes that were used are measured. -/
def bootTiles (d : Dev) (env : BootEnv) (r : Repairs) (quadsOff : Bool) : Dev :=
  let d := bootStep d 5
  let tiles (ty : Nat) : List Nat := (ofType r ty).map fun l => 17 * recB l 3 + recB l 2
  let d := silently d fun d => (tiles 1).foldl addDefect d
  let d := (distinct (env.badTiles.filter (· < 272))).foldl addDefect d
  let d := { d with class1 := distinct (tiles 2), cals := (r.recs.filter fun l => recB l 0 ≥ 8).map calOf }
  let d := if env.overMeshBad then bootLog { d with noTiles := true, noServices := true } 5 stMeshFault else d
  let d := flagSensors (buildTileMap d)
  let d := if quadsOff || d.noTiles then d
    else ((List.range 256).filter fun t => (tileOf d t).present).foldl (resetTile env.seeds)
      ([0, 1, 2, 3].foldl enableBlock d)
  setMeasure d 5 (shake256 r.used 64)

/-! ### Steps 1 to 6 -/

/-- The flash as it is found: what changed outside, and counters that never fell. -/
def findFlash (d : Dev) (env : BootEnv) : Dev :=
  let d := env.flashPatch.foldl (fun d e => nvmWrite d e.1 [e.2]) d
  modFw d fun f => { f with svnFloor := max f.svnFloor env.counters.1, storeCnt := max f.storeCnt env.counters.2 }

/-- Bring-up from step 1 until the Xeost ports train.
DESIGN CHOICE, unsafe (log 94). -/
def boot (d : Dev) (env : BootEnv) : Dev :=
  let d := bootRom (findFlash { d with phase := .bringUp6 } env) env
  let (d, r) := bootGesso (bootStep d 2)
  let (d, quadsOff) := bootHbm d env r
  bootStep (bootTiles (bootKreten d env r) env r quadsOff) 6

/-- COLD_RESET_RELEASE (R594): COLD_RST_N is high with every rail good.
DESIGN CHOICE, safe (log 2). -/
def execColdResetRelease (env : BootEnv) (s : State) : Result :=
  actAlways s fun d => if d.phase == .coldHold && d.pgLow.isEmpty then boot { d with rstHigh := true } env else d

/-- POWER_GOOD_LOSS: a cold reset from any state. -/
def execPowerGoodLoss (rail : Nat) (s : State) : Result :=
  actAlways s fun d => { coldReset d with pgLow := nadd rail d.pgLow }

/-- POWER_GOOD_RISE: the last PG_ signal is high again; with COLD_RST_N high bring-up begins. -/
def execPowerGoodRise (env : BootEnv) (s : State) : Result :=
  actAlways s fun d =>
    if d.phase != .coldHold || d.pgLow.isEmpty then d
    else
      let d := { d with pgLow := [] }
      if d.rstHigh then boot d env else d

/-! ### Steps 7 to 10 -/

/-- Step 7: the host link. -/
def bootHost (d : Dev) (e : BootEnd) : Dev :=
  let d := bootStep d 7
  if !e.hostUp then regSetBit d .bootStatus [] (32 + 6)
  else
    let cxl := decide (e.hostRate < 3)
    { d with link := { d.link with up := true, rate := min e.hostRate 3, width := min e.hostWidth 3, memEn := cxl && e.memEn,
                                   cacheEn := cxl && e.cacheEn, biEn := cxl && e.biEn } }

/-- Step 9: blocks and self-test. -/
def bootSelfTest (d : Dev) (ok : Bool) : Dev :=
  let blocks := (List.range 24).map (· + 4) ++ [blkSweep, blkTelem]
  let d := blocks.foldl enableBlock (bootStep d 9)
  if ok then d else bootLog { d with noServices := true } 9 stSelftest

/-- Step 10: the manifest starts, and bring-up is done.
DESIGN CHOICE, unsafe (log 94). -/
def bootServices (d : Dev) (ms : Nat) : Dev :=
  let d := regSetField (regSetBit (bootStep d 10) .bootStatus [] 4) .bootStatus [] 31 8 (min ms 0xFFFFFF)
  if d.board.servicesEn && !d.noServices && d.fw.running then
    moveSvcs ((d.svcs.map (·.1)).foldl (fun d n => setSvc d n .waiting) d)
  else d

/-- XEOST_STEP_END: step 6 ends, and the rest of bring-up runs.
DESIGN CHOICE, safe (log 2). -/
def execXeostStepEnd (e : BootEnd) (s : State) : Result :=
  act s fun d =>
    if d.phase != .bringUp6 then d
    else
      let d := bootFirmware (bootStep (bootHost { d with phase := .running } e) 8)
      bootServices (bootSelfTest (if d.fw.running then d else { d with noServices := true }) e.selfTestOk) e.doneMs

end Sys2Proof.Machine
end

