-- ==== Sys2Proof/Machine/Easel.lean ====
section
/-! DEFINITION. The matrix instructions and the easel's own events (R174 to R192, R198): issue, the queue, begin, load
and feed, chains, reloads after a restore, and the current keeper. -/
namespace Sys2Proof.Machine
open Sys2Proof

/-! ### Ranges that an instruction uses (R182, R184) -/

/-- A stage-buffer range: start and length. -/
abbrev Span := Nat × Nat

/-- Two byte ranges share a byte (R182).
DEDUCED, unsafe (log 35). -/
def spansMeet (x y : Span) : Bool := decide (x.1 < y.1 + y.2 ∧ y.1 < x.1 + x.2)
def anyMeet (xs ys : List Span) : Bool := xs.any fun x => ys.any fun y => spansMeet x y

/-- Rows of `n` bytes, `pitch` apart.
DEDUCED, unsafe (log 35). -/
def rowsSpan (base pitch rows n : Nat) : Span := (base, pitch * (rows - 1) + n)

/-- Scale bytes that an MMA reads (R180, R187). -/
def feedScaleBytes (p : PairInfo) (op : EaselOp) : Nat :=
  if !p.scaled then 0 else if !op.gather && op.pitch = 0 then p.k / 32 else p.k / 32 * op.rows

/-- FEED, FEED_SCALE or SRC. -/
def opReads (p : PairInfo) (op : EaselOp) : List Span :=
  if op.hold then [rowsSpan op.src op.pitch op.rows p.heldRow]
  else (if op.gather then (op.src, 8 * op.entries) else rowsSpan op.src op.pitch op.rows p.streamRow) ::
    (if p.scaled then [(op.scale, feedScaleBytes p op)] else [])

def accSpan (op : EaselOp) : Span := (op.acc, 512 * op.rows)
def outSpan (op : EaselOp) : Span := rowsSpan op.out op.outPitch op.rows (128 * fmtWidth op.outFmt / 8)

/-- The ACC or OUT range that an MMA writes. -/
def opWrites (op : EaselOp) : List Span :=
  if op.hold then [] else if op.outMode then [outSpan op] else [accSpan op]

/-- Every range that an instruction reads or writes. -/
def opSpans (p : PairInfo) (op : EaselOp) : List Span :=
  opReads p op ++ opWrites op ++
    (if op.hold then (if p.scaled then [(op.scale, holdScaleBytes p op.rows)] else [])
     else if op.accMode && op.outMode then [accSpan op] else [])

/-! ### Issue (R181 to R183) -/

/-- Step 2 of R182: ranges and alignments of R180. -/
def opFields (p : PairInfo) (op : EaselOp) : Bool :=
  decide (op.bank ≤ 1) && !(p.wide && op.bank == 1) && decide (1 ≤ op.rows ∧ op.rows ≤ 128) &&
  (if op.hold then op.src % 64 == 0 && op.pitch % 64 == 0 && decide (p.heldRow ≤ op.pitch)
   else
    (if op.gather then decide (op.first ≤ 65535 ∧ op.col ≤ 65535)
     else op.src % 64 == 0 && decide (op.pitch ≤ 65535) && op.pitch * 8 % fmtWidth p.stream == 0) &&
    (!p.scaled || op.scale % 8 == 0) && op.acc % 512 == 0 && decide (op.round ≤ 2) &&
    (!op.outMode || (decide (1 ≤ op.outFmt ∧ op.outFmt ≤ 0x0B) && op.out % 64 == 0 && op.outPitch % 64 == 0 &&
      decide (128 * fmtWidth op.outFmt / 8 ≤ op.outPitch))))

/-- A gathered row starts and ends on bytes: COL and PACKET_COLS elements fill whole bytes (R206). -/
def gatherBytes (d : Dev) (i : Iss) (p : PairInfo) (op : EaselOp) : Bool :=
  let w := fmtWidth p.stream
  let cols := match (canvasOf d i.cv).bind fun c => c.streams[op.stream]? with
    | some e => e.cols
    | none => 0
  !op.gather || (op.col * w % 8 == 0 && cols * w % 8 == 0)

/-- The gate of a gathered feed: the gated stream, an outstanding batch, and enough rows in it. -/
def gateOk (d : Dev) (i : Iss) (op : EaselOp) : Bool :=
  match canvasOf d i.cv with
  | none => false
  | some c =>
    let rows := match c.streams[op.stream]? with
      | some e => e.rows
      | none => 0
    gatedStream c i.seat.stage == some op.stream && i.stage.fillRows != 0 && op.entries != 0 &&
      decide (op.first + op.rows ≤ op.entries * rows)

/-- The checks of R182 after the first, and the reads that an instruction's issue makes. -/
def opFault (d : Dev) (i : Iss) (op : EaselOp) (modesOk : Bool) : Option Half :=
  match pairInfo op.fmt with
  | none => some stEaselOperand
  | some p =>
    let spans := opSpans p op
    if !(modesOk && opFields p op && (op.hold || gatherBytes d i p op)) then some stEaselOperand
    else match (if op.outMode && op.round ≠ 0 then roundFault i op.round else none) with
    | some st => some st
    | none =>
      if spans.any fun r => sbBeyond r.1 r.2 then some stSbRange
      else if !(spans.all fun r => inRegion i.seat r.1 r.2) then some stEaselOperand
      else if op.hold then none
      else match holdRecOf i.seat op.bank with
        | none => some stEaselHold
        | some h =>
          if h.fmt ≠ op.fmt then some stEaselHold
          else if op.gather && !gateOk d i op then some stGateMode
          else none

/-- Entries of the outstanding batch of a stream at this tile. -/
def batchEntries (d : Dev) (i : Iss) (stream : Nat) : Nat :=
  (tget {} (tget {} d.streams (65536 * i.cv + stream)).cons i.seat.rank).batch.length

/-- An instruction dispatches and waits for its queue entry; its lanes stay at it until it retires (R183). -/
def dispatchOp (d : Dev) (i : Iss) (op : EaselOp) : Dev :=
  let d := modEasel d i.t fun e => { e with queue := e.queue ++ [op], nextId := e.nextId + 1 }
  modCtx d i.t i.key fun c => modGroup c i.g fun gr => modLanes gr i.lanes fun l => { l with wait := .easel }

/-- An operation with the fields that every matrix instruction has. -/
def blankOp (d : Dev) (i : Iss) (hold : Bool) : EaselOp :=
  let r (j : Nat) : DWord := BitVec.ofNat 64 (sRegVal i.seat.ctx j)
  { id := (easelOf d i.t).nextId, hold := hold, group := i.g, lanes := laneMask i.lanes, pc := i.pc, bank := 0, fmt := 0,
    rows := 0, src := 0, pitch := 0, scale := 0, gather := false, entries := 0, stream := 0, first := 0, col := 0,
    acc := 0, accMode := false, outMode := false, out := 0, outPitch := 0, outFmt := 0, round := 0, seedLo := r 28,
    seedHi := r 29, tkey := r 30, key31 := r 31, queued := false, begun := false, chain := 0 }

/-- Issue of a matrix instruction with operands `ops`, from its decoded operation. -/
def doMatrix (mask : Nat) (ops : List Opnd) (mk : (Opnd → Nat) → EaselOp × Bool) (d : Dev) (i : Iss) : Issued :=
  guardOk (ops.all opndOk) <|
    if laneMask i.lanes ≠ mask then .fault stDivergentCollective 0
    else orFault (consumed i ops [i.low]) <|
      let (op, modesOk) := mk fun o => (opndVal i i.low o).val
      orFault (opFault d i op modesOk) (.stay (dispatchOp d i op))

/-- EASEL_HOLD (R178, R180 to R183). -/
def execEaselHold (t g : Nat) (a : HoldArgs) (s : State) : Result :=
  act s fun d => issue d t g [] fun d i =>
    doMatrix a.mask [a.bank, a.fmt, a.rows, a.src, a.srcPitch, a.srcScale] (fun v =>
      ({ blankOp d i true with
         bank := v a.bank, fmt := v a.fmt, rows := v a.rows, src := v a.src, pitch := v a.srcPitch,
         scale := v a.srcScale }, true)) d i

/-- EASEL_MMA (R180 to R183). -/
def execEaselMma (t g : Nat) (a : MmaArgs) (s : State) : Result :=
  act s fun d => issue d t g [] fun d i =>
    doMatrix a.mask [a.bank, a.fmt, a.m, a.feedMode, a.feed, a.feedStep, a.streamNo, a.first, a.col, a.feedScale, a.acc,
        a.accMode, a.outMode, a.out, a.outPitch, a.outFmt, a.round] (fun v =>
      ({ blankOp d i false with
         bank := v a.bank, fmt := v a.fmt, rows := v a.m, gather := v a.feedMode == 1, src := v a.feed,
         pitch := v a.feedStep, stream := v a.streamNo, entries := batchEntries d i (v a.streamNo), first := v a.first,
         col := v a.col, scale := v a.feedScale, acc := v a.acc, accMode := v a.accMode == 1,
         outMode := v a.outMode == 1, out := v a.out, outPitch := v a.outPitch, outFmt := v a.outFmt,
         round := v a.round },
       decide (v a.feedMode ≤ 1 ∧ v a.accMode ≤ 1 ∧ v a.outMode ≤ 1))) d i

/-- EASEL_WAIT (R179). -/
def execEaselWait (t g : Nat) (s : State) : Result :=
  act s fun d => issue d t g [] fun d i =>
    let e := easelOf d i.t
    if easelBusy e i.g e.nextId then
      .stay (modCtx d i.t i.key fun c => modGroup c i.g fun gr =>
        modLanes gr i.lanes fun l => { l with wait := .easelWait e.nextId })
    else .done d

/-! ### The queue (R175, R183, R185, R189) -/

/-- The hold records after a HOLD enters the queue. -/
def enterHold (s : Seat) (p : PairInfo) (op : EaselOp) : Seat :=
  let h : HoldRec := { fmt := op.fmt, rows := op.rows, src := op.src, srcPitch := op.pitch, srcScale := op.scale }
  if p.wide then { s with hold0 := some h, hold1 := none }
  else if op.bank = 0 then { s with hold0 := some h }
  else
    let wide0 := match s.hold0 with
      | some r => (pairInfo r.fmt).any PairInfo.wide
      | none => false
    { s with hold1 := some h, hold0 := if wide0 then none else s.hold0 }

/-- Reads of queued instructions that R184 makes wait for the chain's write: one that entered after its tail, or the
instruction itself. Such an instruction cannot be part of the chain's time, so the chain ends before it.
DEDUCED, unsafe (log 35). -/
def blocksChain (e : Easel) (ch : Chain) (p : PairInfo) (op : EaselOp) : Bool :=
  anyMeet (opReads p op) [accSpan ch.tail] ||
  e.queue.any fun q => q.queued && !q.begun && decide (ch.tail.id < q.id) &&
    (match pairInfo q.fmt with
      | some pq => anyMeet (opReads pq q) [accSpan ch.tail]
      | none => false)

/-- The chain that an MMA joins: the last, where it has not been written (R185).
DEDUCED, unsafe (log 35). -/
def joins (e : Easel) (p : PairInfo) (op : EaselOp) : Option Chain :=
  match e.chains.getLast? with
  | none => none
  | some ch =>
    if op.accMode && ch.tail.acc == op.acc && ch.tail.rows == op.rows && !ch.tail.outMode && !blocksChain e ch p op
    then some ch else none

def addToChain (op : EaselOp) (c : Chain) : Chain := { c with tail := op, members := c.members ++ [(op.group, op.id)] }

/-- An MMA enters the queue, in its chain. -/
def enterMma (e : Easel) (p : PairInfo) (op : EaselOp) : Easel :=
  match joins e p op with
  | some ch =>
    let op := { op with queued := true, chain := ch.id }
    { e with queue := lmod (fun q => q.id == op.id) (fun _ => op) e.queue,
             chains := lmod (fun c => c.id == ch.id) (addToChain op) e.chains }
  | none =>
    let op := { op with queued := true, chain := op.id }
    { e with queue := lmod (fun q => q.id == op.id) (fun _ => op) e.queue,
             chains := e.chains ++ [{ id := op.id, last := op, tail := op, members := [(op.group, op.id)] }] }

def queueLength (e : Easel) : Nat := (e.queue.filter (·.queued)).length

/-- EASEL_ENTER_QUEUE (R183): the instruction that dispatched first takes a free entry. -/
def execEaselEnterQueue (t : Nat) (s : State) : Result :=
  act s fun d =>
    let e := easelOf d t
    match e.queue.find? fun q => !q.queued with
    | none => d
    | some op =>
      if queueLength e ≥ 8 then d
      else match pairInfo op.fmt with
        | none => dropOp d t op
        | some p =>
          if op.hold then
            let d := modEasel d t fun e => { e with queue := lmod (fun q => q.id == op.id) (fun q => { q with queued := true }) e.queue }
            match (tileOf d t).cur with
            | some k => modSeat d t k fun s => enterHold s p op
            | none => d
          else modEasel d t fun e => enterMma e p op

/-! ### Begin (R178, R184, R185, R191, R198) -/

/-- Banks that an instruction occupies. -/
def opBanks (p : PairInfo) (op : EaselOp) : List Nat := if p.wide then [0, 1] else [op.bank]

def usesBank (q : EaselOp) (b : Nat) : Bool := match pairInfo q.fmt with
  | some p => nmem b (opBanks p q)
  | none => false

/-- A chain that holds an exit buffer. -/
def chainInUse (e : Easel) (c : Chain) : Bool := c.started || e.queue.any fun q => !q.hold && q.begun && q.chain == c.id

/-- Ranges that earlier instructions have still to write. -/
def unwritten (e : Easel) (op : EaselOp) : List Span :=
  (e.chains.filter fun c => decide (c.tail.id < op.id) && !(!op.hold && c.id == op.chain)).flatMap fun c => opWrites c.tail

/-- Whether the head instruction may begin: its feed, source, ACC and OUT ranges meet nothing that is still to be written
but by its own chain.
DESIGN CHOICE, unsafe (log 36). -/
def mayBegin (e : Easel) (p : PairInfo) (op : EaselOp) : Bool :=
  let busyBank := (opBanks p op).any fun b => bankReloads e b ||
    e.queue.any fun q => q.begun && usesBank q b && (op.hold || q.hold)
  let feeds := !op.hold && e.queue.any fun q => !q.hold && q.begun
  let buffers := op.hold || (e.chains.any fun c => c.id == op.chain && chainInUse e c) ||
    decide ((e.chains.filter (chainInUse e)).length < 2)
  let acc := if !op.hold && op.accMode && op.outMode then [accSpan op] else []
  !busyBank && !feeds && buffers && !anyMeet (opReads p op ++ opWrites op ++ acc) (unwritten e op)

/-- A matrix instruction faults on poison (R188). -/
def easelFault (d : Dev) (t : Nat) (op : EaselOp) : Dev :=
  let d := ((easelOf d t).queue.filter fun q => q.queued && decide (q.id < op.id)).foldl (fun d q =>
    (if q.hold then finishHold d t q else finishMma d t q).1) d
  let d := writeAllChains d t
  let d := match (tileOf d t).cur with
    | some k => if op.hold then modSeat d t k fun s => setHoldRec s op.bank none else d
    | none => d
  stageFault (discardQueue d t) t op.group stPoisonConsumed op.lanes op.pc

/-- A row is ready to enter: what the keeper does (R198). How far the gap or the level had run is a free value. -/
def keeperReady (d : Dev) (t : Nat) : Dev :=
  let e := easelOf d t
  match e.keeper with
  | .run => d
  | .keep =>
    let (n, d) := drawNat d
    modEasel (countKept d t (1 + n % max 1 e.gap) 0) t fun e => { e with keeper := .run }
  | .rampUp => d
  | .rampDown =>
    let (n, d) := drawNat d
    modEasel (countKept d t (n % max 1 e.step) 0) t fun e =>
      { e with level := e.level + 1, keeper := if e.level + 1 ≥ 8 then .run else .rampUp }
  | .idle => modEasel d t fun e => { e with level := e.level + 1, keeper := if e.level + 1 ≥ 8 then .run else .rampUp }

/-- EASEL_BEGIN: the head of the queue begins once nothing makes it wait, and while no sitting switch has stopped issue
(R190). -/
def execEaselBegin (t : Nat) (s : State) : Result :=
  act s fun d =>
    let e := easelOf d t
    match e.queue.find? fun q => q.queued && !q.begun with
    | none => d
    | some op => match pairInfo op.fmt with
      | none => d
      | some p =>
        if !mayBegin e p op || (tileOf d t).sw == .draining then d
        else if !op.hold && bankBad e op.bank then easelFault d t op
        else
          let d := modEasel d t fun e => { e with queue := lmod (fun q => q.id == op.id) (fun q => { q with begun := true }) e.queue }
          if op.hold then d else keeperReady d t

/-- HOLD_LOADED (R178, R188): the HOLD that began first loads its last row and retires.
DESIGN CHOICE, unsafe (log 36). -/
def execHoldLoaded (t : Nat) (s : State) : Result :=
  act s fun d => match (easelOf d t).queue.find? fun q => q.hold && q.begun with
    | none => d
    | some op =>
      let r := finishHold d t op
      if r.2 then r.1 else easelFault r.1 t op

/-- MMA_FED (R177, R185, R188): the product that feeds has fed and retires; none feeds on once issue has stopped (R190).
DESIGN CHOICE, unsafe (log 36). -/
def execMmaFed (t : Nat) (s : State) : Result :=
  act s fun d => match (easelOf d t).queue.find? fun q => !q.hold && feeding (easelOf d t) q with
    | none => d
    | some op =>
      let r := finishMma d t op
      if (tileOf d t).sw == .draining then d
      else if r.2 then r.1 else easelFault r.1 t op

/-- CHAIN_WRITE (R185): the oldest chain writes its rows when no instruction that joins it is in the queue. -/
def execChainWrite (t : Nat) (s : State) : Result :=
  act s fun d =>
    let e := easelOf d t
    match e.chains.head? with
    | none => d
    | some ch => if ch.started && !chainPending e ch then writeChain d t ch else d

/-- The HOLD that a hold record stands for. -/
def reloadOp (h : HoldRec) (bank : Nat) : EaselOp :=
  { id := 0, hold := true, group := 0, lanes := 0, pc := 0, bank := bank, fmt := h.fmt, rows := h.rows, src := h.src,
    pitch := h.srcPitch, scale := h.srcScale, gather := false, entries := 0, stream := 0, first := 0, col := 0, acc := 0,
    accMode := false, outMode := false, out := 0, outPitch := 0, outFmt := 0, round := 0, seedLo := 0, seedHi := 0,
    tkey := 0, key31 := 0, queued := true, begun := true, chain := 0 }

/-- Load the cells of a bank from a hold record again.
DESIGN CHOICE, unsafe (log 36). -/
def reloadBank (d : Dev) (t bank : Nat) (h : HoldRec) : Dev :=
  match pairInfo h.fmt with
  | none => d
  | some p =>
    let (d, rows, sc, bad) := readHold d t p (reloadOp h bank)
    let d := countArith d t 0 0 (badWeights p rows)
    modEasel d t fun e => setHeld e p bank rows sc bad

/-- HOLD_RELOAD_DONE (R191): bank 0 first; an FP32 record reloads both banks at once. -/
def execHoldReloadDone (t bank : Nat) (s : State) : Result :=
  act s fun d =>
    let e := easelOf d t
    if bank = 0 then match e.reload0 with
      | some h => modEasel (reloadBank d t 0 h) t fun e => { e with reload0 := none }
      | none => d
    else match e.reload0, e.reload1 with
      | none, some h => modEasel (reloadBank d t 1 h) t fun e => { e with reload1 := none }
      | _, _ => d

/-! ### The current keeper (R198) -/

/-- KEEPER_GAP_BEGIN: no row enters. -/
def execKeeperGapBegin (t : Nat) (s : State) : Result :=
  act s fun d =>
    let e := easelOf d t
    if e.keeper == .run && !(e.queue.any fun q => !q.hold && q.begun) then
      let d := latchKeep d t
      if (easelOf d t).gap = 0 then modEasel (countKept d t 1 0) t fun e => { e with keeper := .rampDown, level := 7 }
      else modEasel d t fun e => { e with keeper := .keep, level := 8 }
    else d

/-- KEEP_GAP_EXPIRES: the gap count reaches KEEP_GAP. -/
def execKeepGapExpires (t : Nat) (s : State) : Result :=
  act s fun d =>
    if (easelOf d t).keeper == .keep then
      modEasel (countKept d t (easelOf d t).gap 0) t fun e => { e with keeper := .rampDown, level := 7 }
    else d

/-- RAMP_STEP_ELAPSES: one level further, down or up. -/
def execRampStepElapses (t : Nat) (s : State) : Result :=
  act s fun d =>
    let e := easelOf d t
    let n := e.step
    match e.keeper with
    | .rampDown =>
      modEasel (countKept d t n 0) t fun e =>
        { e with level := e.level - 1, keeper := if e.level ≤ 1 then .idle else .rampDown }
    | .rampUp =>
      modEasel (countKept d t n n) t fun e =>
        { e with level := e.level + 1, keeper := if e.level + 1 ≥ 8 then .run else .rampUp }
    | _ => d

end Sys2Proof.Machine
end

