-- ==== Sys2Proof/Machine/MemoryAccess.lean ====
section
/-! DEFINITION. Loads, stores, atomics and fences of stage programs (R152 to R161, R170 to R173, R624), accesses of the
control cores (R162), and the host's CXL.mem and snoop traffic (R314, R440 to R443). -/
namespace Sys2Proof.Machine
open Sys2Proof

/-! ### Checks lane by lane (R624) -/

/-- Address of a lane. -/
def laneAddr (i : Iss) (addr : Opnd) (disp l : Nat) : Nat := ((opndVal i l addr).val + disp) % 2 ^ 64

/-- The first failing check of one lane: consumption, alignment, stage-buffer range and regions, backing; and the address
that its record carries (R139). A store consumes its address register; only the register that it stores is exempt.
DEDUCED, unsafe (log 125). -/
def laneFault (d : Dev) (i : Iss) (sp : MemSpace) (addr : Opnd) (disp n : Nat) (eat keep : List Opnd) (l : Nat) :
    Option (Half × Nat) :=
  let a := laneAddr i addr disp l
  match firstFault [consumed i (addr :: eat) [l], parityFails i keep [l]] with
  | some st => some (st, 0)
  | none =>
    match sp with
    | .stageBuffer =>
      if a % n ≠ 0 then some (stMemAlign, 0) else if sbOk i.seat a n then none else some (stSbRange, 0)
    | .device =>
      if a % n ≠ 0 then some (stMemAlign, a % 2 ^ 48) else if backed d a n then none else some (stUnbacked, a % 2 ^ 48)

/-- Fault of the lowest-numbered lane that fails. -/
def lanesFault (d : Dev) (i : Iss) (sp : MemSpace) (addr : Opnd) (disp n : Nat) (eat keep : List Opnd) (r : Issued) :
    Issued :=
  match i.lanes.findSome? (laneFault d i sp addr disp n eat keep) with
  | some (st, a) => .fault st a
  | none => r

/-- Perform an access for each lane in turn; `none` where one waits. An instruction's accesses are performed before a later
instruction issues: the orders that R154 allows besides do not occur.
DESIGN CHOICE, unsafe (log 124).
DESIGN CHOICE, unsafe (log 13). -/
def eachLane {α : Type} (f : Dev → Nat → Option (Dev × α)) (d : Dev) (ls : List Nat) : Option (Dev × List (Nat × α)) :=
  ls.foldl (fun acc l => acc.bind fun (d, rs) => (f d l).map fun (d, x) => (d, rs ++ [(l, x)])) (some (d, []))

/-- When a lane's access waits nothing of the instruction is done but the snoops it needs.
DESIGN CHOICE, unsafe (log 13). -/
def stalled (d : Dev) (i : Iss) (sp : MemSpace) (addr : Opnd) (disp n : Nat) (write : Bool) : Issued :=
  match sp with
  | .stageBuffer => .stall d
  | .device => .stall (i.lanes.foldl (fun d l => startSnoops d (.tile i.t) (laneAddr i addr disp l) n write) d)

def sizeBits (n : Nat) : Bool := n == 1 || n == 2 || n == 4 || n == 8

/-! ### Loads and stores -/

/-- A loaded value in its destination: narrow values fill the register with zeros or copies of the sign (R152). -/
def extendLoad (n : Nat) (signed : Bool) (v : Nat) : Nat :=
  if signed && decide (n < 4) then wrapInt 32 (sext (8 * n) v) else v

/-- One lane's read: the bytes as a number, with poison; `none` where it waits. -/
def loadLane (sp : MemSpace) (i : Iss) (addr : Opnd) (disp size : Nat) (spent : Bool) (d : Dev) (l : Nat) :
    Option (Dev × (Nat × Bool)) :=
  let a := laneAddr i addr disp l
  match sp with
  | .stageBuffer => let (d, bs, q) := sbRead d i.t a size; some (d, (leNat bs, q))
  | .device =>
    let r := devRead d (.tile i.t) a size spent
    r.2.map fun x => if cutOff d i.t then (loseCut r.1 i.t 1 (a / 128 * 128), (leNat x.1, true)) else (r.1, (leNat x.1, x.2))

/-- A load of every executing lane (R624).
DESIGN CHOICE, unsafe (log 13). -/
def doLoad (sp : MemSpace) (addr : Opnd) (disp size : Nat) (signed : Bool) (dst order scope : Nat) (spent : Bool)
    (d : Dev) (i : Iss) : Issued :=
  let dd : Dst := if size = 8 then .pair dst else .reg dst
  guardOk (opndOk addr && sizeBits size && dstOk dd && decide (order ≤ 1) && decide (scope ≤ 3)) <|
    lanesFault d i sp addr disp size [] [] <|
      match eachLane (loadLane sp i addr disp size spent) d i.lanes with
      | none => stalled d i sp addr disp size spent
      | some (d, rs) => .done (writeLanes d i dd (rs.map fun r => (r.1, extendLoad size signed r.2.1, r.2.2)))

/-- LOAD (R152, R159, R170, R624). -/
def execLoad (t g : Nat) (sp : MemSpace) (addr : Opnd) (disp size : Nat) (signed : Bool) (dst order scope : Nat)
    (spent : Bool) (upsets : List Upset) (s : State) : Result :=
  act s fun d => issue d t g upsets (doLoad sp addr disp size signed dst order scope spent)

/-- A store or atomic of a tile that is cut off from the Kreten die is lost: its canvas faults, with the lowest lane's
address (R361, R550).
DESIGN CHOICE, unsafe (log 134). -/
def unlessCut (d : Dev) (i : Iss) (sp : MemSpace) (addr : Opnd) (disp : Nat) (r : Issued) : Issued :=
  match sp with
  | .stageBuffer => r
  | .device =>
    let a := laneAddr i addr disp i.low
    if cutOff d i.t then .faultIn (loseCut d i.t 2 a) stCrcFinal a else r

/-- One lane's write; `none` where it waits. -/
def storeLane (sp : MemSpace) (i : Iss) (addr : Opnd) (disp size : Nat) (so : Opnd) (d : Dev) (l : Nat) :
    Option (Dev × Unit) :=
  let a := laneAddr i addr disp l
  let v := opndVal i l so
  match sp with
  | .stageBuffer => some (sbWrite d i.t a (leBytes size v.val) v.poison, ())
  | .device =>
    let r := devWrite d (.tile i.t) a (leBytes size v.val) v.poison
    if r.2 then some (r.1, ()) else none

/-- A store of every executing lane (R624).
DESIGN CHOICE, unsafe (log 13). -/
def doStore (sp : MemSpace) (addr : Opnd) (disp size src order scope : Nat) (d : Dev) (i : Iss) : Issued :=
  let so : Opnd := if size = 8 then .pair src else .reg src
  guardOk (opndOk addr && sizeBits size && opndOk so && (order == 0 || order == 2) && decide (scope ≤ 3)) <|
    lanesFault d i sp addr disp size [] [so] <| unlessCut d i sp addr disp <|
      match eachLane (storeLane sp i addr disp size so) d i.lanes with
      | none => stalled d i sp addr disp size true
      | some (d, _) => .done d

/-- STORE (R152, R159, R171, R173, R624). -/
def execStore (t g : Nat) (sp : MemSpace) (addr : Opnd) (disp size : Nat) (src : Nat) (order scope : Nat)
    (upsets : List Upset) (s : State) : Result :=
  act s fun d => issue d t g upsets (doStore sp addr disp size src order scope)

/-! ### Atomics (R159 to R161, R173) -/

def atomBytes : AtomTy → Nat
  | .u64 => 8
  | .s64 => 8
  | _ => 4

def atomSigned : AtomTy → Bool
  | .s32 => true
  | .s64 => true
  | _ => false

/-- Operations and types of R160. -/
def atomOk (op : AtomOp) (ty : AtomTy) : Bool :=
  match op, ty with
  | .add, .s32 => false
  | .add, .s64 => false
  | .add, _ => true
  | .min, _ => true
  | .max, _ => true
  | _, .f32 => false
  | _, _ => true

/-- The value that an atomic stores. -/
def atomResult (op : AtomOp) (ty : AtomTy) (old v cmp : Nat) : Nat :=
  match ty, op with
  | .f32, .add => (fadd (w32 old) (w32 v)).toNat
  | .f32, .min => (fmin32 (w32 old) (w32 v)).toNat
  | .f32, .max => (fmax32 (w32 old) (w32 v)).toNat
  | _, _ =>
    let w := 8 * atomBytes ty
    atomInt op w (atomSigned ty) old (v % 2 ^ w) (cmp % 2 ^ w)

/-- An atomic in a stage-buffer bank; a poisoned word stays as it is. -/
def sbAtomic (d : Dev) (t a n : Nat) (f : Nat → Nat) : Dev × Nat × Bool :=
  let (d, bs, q) := sbRead d t a n
  let old := leNat bs
  (if q then d else sbWrite d t a (leBytes n (f old)) false, old, q)

/-- One lane's atomic: the old value, with poison; `none` where it waits. -/
def atomicLane (sp : MemSpace) (i : Iss) (op : AtomOp) (ty : AtomTy) (addr : Opnd) (disp : Nat) (val cmp : Opnd)
    (spent : Bool) (d : Dev) (l : Nat) : Option (Dev × (Nat × Bool)) :=
  let a := laneAddr i addr disp l
  let n := atomBytes ty
  let f (old : Nat) : Nat := atomResult op ty old (opndVal i l val).val (opndVal i l cmp).val
  match sp with
  | .stageBuffer => some (sbAtomic d i.t a n f)
  | .device => let r := devAtomic d (.tile i.t) a n f spent; r.2.map fun x => (r.1, x)

/-- An atomic of every executing lane (R160, R624).
DESIGN CHOICE, unsafe (log 13). -/
def doAtomic (sp : MemSpace) (op : AtomOp) (ty : AtomTy) (addr : Opnd) (disp dst : Nat) (val cmp : Opnd)
    (order scope : Nat) (spent : Bool) (d : Dev) (i : Iss) : Issued :=
  let n := atomBytes ty
  let dd : Dst := if n = 8 then .pair dst else .reg dst
  let ops := if op == .cas then [val, cmp] else [val]
  guardOk (([addr] ++ ops).all opndOk && dstOk dd && atomOk op ty && decide (order ≤ 3) && decide (scope ≤ 3)) <|
    lanesFault d i sp addr disp n ops [] <| unlessCut d i sp addr disp <|
      match eachLane (atomicLane sp i op ty addr disp val cmp spent) d i.lanes with
      | none => stalled d i sp addr disp n true
      | some (d, rs) => .done (writeLanes d i dd (rs.map fun r => (r.1, r.2.1, r.2.2)))

/-- ATOMIC (R159 to R161, R173). -/
def execAtomic (t g : Nat) (sp : MemSpace) (op : AtomOp) (ty : AtomTy) (addr : Opnd) (disp : Nat) (dst : Nat)
    (val cmp : Opnd) (order scope : Nat) (spent : Bool) (upsets : List Upset) (s : State) : Result :=
  act s fun d => issue d t g upsets (doAtomic sp op ty addr disp dst val cmp order scope spent)

/-! ### Fences (R157, R158) -/

/-- Write back a line and leave its dirty sectors clean. -/
def cleanLine (d : Dev) (s key : Nat) : Dev :=
  match tfind (sliceOf d s).lines key with
  | none => d
  | some l =>
    if lineDirty l then
      let ks := (List.range 8).filter fun k => sectAt l k == .masked
      let d := ks.foldl (fun d k => mergeMasked d s key k) d
      let d := scrubLine d s key
      let d := writeBack d (tget l (sliceOf d s).lines key)
      modSlice d s fun sl => { sl with lines := tmod l sl.lines key fun l =>
        { l with sects := l.sects.map fun x => if x == .dirty then Sect.clean else x } }
    else d

/-- Write back every dirty tile-local line of a tile (R151, R157): a fill that holds a write lands first. -/
def cleanTileLocal (d : Dev) (t : Nat) : Dev :=
  match servingSlice d t with
  | none => d
  | some s =>
    let d := ((sliceOf d s).fills.filter fun f => isTl f.kind).foldl (fun d f => landFill d s f) d
    let d := ((sliceOf d s).wbuf.filter fun w => isTl w.line.kind).foldl (fun d w => finishWb d s w.line.idx true) d
    ((sliceOf d s).lines.filter fun e => isTl e.2.kind).foldl (fun d e => cleanLine d s e.1) d

/-- FENCE (R157): every access before it has been performed at issue; the system scope writes back tile-local lines. The
rows that a retired matrix instruction has still to write are no access that it waits for.
DEDUCED, unsafe (log 126). -/
def execFence (t g scope : Nat) (s : State) : Result :=
  act s fun d => issue d t g [] fun d i =>
    guardOk (decide (scope ≤ 3)) (.done (if scope = 3 then cleanTileLocal d i.t else d))

/-! ### Control cores (R162) -/

/-- An access of a control core: aligned accesses of its sizes; a misaligned one takes the core's exception.
PRESUMED, unsafe (log 19). -/
def coreAccess (d : Dev) (c addr n : Nat) (store : Bool) (k : AccessKind) : Dev :=
  if !(decide (c < 8) && sizeBits n) then d
  else if addr % n ≠ 0 then emit d (.coreFault c addr store)
  else access d { agent := .core c, addr := addr, kind := k }

/-- CORE_LOAD, with LR's reservation. -/
def execCoreLoad (c addr size : Nat) (reserve : Bool) (s : State) : Result :=
  act s fun d => coreAccess d c addr size false (.read size false reserve)

/-- CORE_STORE. -/
def execCoreStore (c addr size : Nat) (v : DWord) (s : State) : Result :=
  act s fun d => coreAccess d c addr size true (.write (leBytes size v.toNat) false)

/-- CORE_AMO: the AMOs of RV64GC. -/
def execCoreAmo (c addr size : Nat) (op : AtomOp) (signed : Bool) (v : DWord) (s : State) : Result :=
  act s fun d => if (size == 4 || size == 8) && op != .cas then coreAccess d c addr size true (.amo size op signed v.toNat) else d

/-- CORE_SC: succeeds where the core's reservation on the word stands (R162). -/
def execCoreSc (c addr size : Nat) (v : DWord) (s : State) : Result :=
  act s fun d => if size == 4 || size == 8 then coreAccess d c addr size true (.sc size v.toNat) else d

/-! ### The host (R314, R440 to R443) -/

/-- The host port decodes CXL.mem addresses.
DESIGN CHOICE, safe (log 63). -/
def hostDecodes (d : Dev) : Bool := d.link.up && d.link.memEn && d.link.committed

/-- The device-local address that a host physical address reaches (R440): the decoder's base lies at address 0.
DESIGN CHOICE, safe (log 105). -/
def hostLocal (d : Dev) (hpa : Nat) : Option Nat :=
  if hostDecodes d && decide (d.link.hdmBase.toNat ≤ hpa) then some (hpa - d.link.hdmBase.toNat) else none

/-- A CXL.mem request to a host physical address.
DESIGN CHOICE, safe (log 105). -/
def hostAccess (d : Dev) (hpa : Nat) (k : Nat → AccessKind) : Dev :=
  match hostLocal d hpa with
  | some a => access d { agent := .host, addr := a / 64 * 64, kind := k a }
  | none => emit d (.hostNotDecoded (hpa / 64 * 64))

/-- HOST_MEM_READ.
DEDUCED, safe (log 62). -/
def execHostMemRead (addr : Nat) (hold : HostHold) (s : State) : Result :=
  act s fun d => hostAccess d addr fun _ => .hostRead hold

/-- Bytes of the 64 that a request names, with their places in the line. -/
def hostBytes (addr : Nat) (data : LineData) : LineData :=
  data.filter fun e => decide (addr / 64 * 64 % 1024 ≤ e.1 ∧ e.1 < addr / 64 * 64 % 1024 + 64)

/-- HOST_MEM_WRITE. -/
def execHostMemWrite (addr : Nat) (data : LineData) (poison : Bool) (failed : Option LinkId) (hold : HostHold) (s : State) :
    Result :=
  act s fun d => hostAccess d addr fun a => .hostWrite (hostBytes a data) poison failed hold

/-- HOST_WRITEBACK: the host returns dirty data or reports the line clean, with what it still holds (R314). -/
def execHostWriteback (addr : Nat) (data : Option LineData) (hold : HostHold) (s : State) : Result :=
  act s fun d =>
    match hostLocal d addr with
    | none => emit d (.hostNotDecoded (addr / 64 * 64))
    | some a =>
      if !backed d a 1 then emit d (.hostNotDecoded (a / 64 * 64))
      else match servingSlice d (homeSlice a) with
      | none => d
      | some sl =>
        let d := withHue d (hostHue d)
        let d := match data with
          | some l => hostData d sl (a / 1024) (hostBytes a l)
          | none => d
        if isTileLocal d a then d else recordHold (hueGrant d .host d.hue 64) sl (a / 1024) hold

/-- HOST_SNOOP (R443): the device holds no copy of a host line. -/
def execHostSnoop (addr : Nat) (s : State) : Result := act s fun d => emit d (.hostSnoopResp addr)

/-- BISNP_RESPONSE (R314): the entry goes, or becomes shared, with the data that the host returned. -/
def execBisnpResponse (slice line : Nat) (dirty : Option LineData) (s : State) : Result :=
  act s fun d =>
    match (sliceOf d slice).snoops.find? fun x => x.idx == line with
    | none => d
    | some q =>
      let d := modSlice d slice fun sl => { sl with snoops := sl.snoops.filter fun x => !(x == q) }
      let d := match dirty with
        | some l => hostData (withHue d (hostHue d)) slice line l
        | none => d
      if q.inv then dirDel d slice line
      else if (dirFind (sliceOf d slice) line).isSome then recordHold d slice line .shared else d

/-! ### Accesses that reach a slice -/

/-- SLICE_READ (R294): a read by an agent; it waits where its slice cannot serve it yet. -/
def execSliceRead (a : Agent) (addr bytes : Nat) (spent : Bool) (s : State) : Result :=
  act s fun d => access d { agent := a, addr := addr, kind := .read bytes spent false }

/-- SLICE_WRITE (R295). -/
def execSliceWrite (a : Agent) (addr : Nat) (data : List Byte) (poison : Bool) (s : State) : Result :=
  act s fun d => access d { agent := a, addr := addr, kind := .write data poison }

end Sys2Proof.Machine
end

