-- ==== Sys2Proof/Machine/Dispatch.lean ====
section
/-! DEFINITION. One arm per command: the meaning it calls, or a rejection by name. -/
namespace Sys2Proof.Machine
open Sys2Proof

/-- The effect of a command on everything but the queue. -/
def exec (i : Instr) (s : State) : Host.Outcome State Fault Refusal :=
  match i with
  | .registerWrite r bar2 off bytes v => Sys2Proof.Machine.execRegisterWrite r bar2 off bytes v s
  | .streamWrite t g stream addr rank rel => Sys2Proof.Machine.execStreamWrite t g stream addr rank rel s
  | .streamRead t g stream rank dstAddr dstLen => Sys2Proof.Machine.execStreamRead t g stream rank dstAddr dstLen s
  | .streamRelease t g stream slotAddr => Sys2Proof.Machine.execStreamRelease t g stream slotAddr s
  | .packetArrives tx ty ch heads => Sys2Proof.Machine.execPacketArrives tx ty ch heads s
  | .creditReturns canvas stream prod cons => Sys2Proof.Machine.execCreditReturns canvas stream prod cons s
  | .canvasLoad w => Sys2Proof.Machine.execCanvasLoad w s
  | .canvasLoadComplete canvas => Sys2Proof.Machine.execCanvasLoadComplete canvas s
  | .canvasStart w => Sys2Proof.Machine.execCanvasStart w s
  | .canvasBeginIssue canvas => Sys2Proof.Machine.execCanvasBeginIssue canvas s
  | .canvasStop w => Sys2Proof.Machine.execCanvasStop w s
  | .canvasDrained canvas => Sys2Proof.Machine.execCanvasDrained canvas s
  | .canvasUnload w => Sys2Proof.Machine.execCanvasUnload w s
  | .canvasUnloadComplete canvas => Sys2Proof.Machine.execCanvasUnloadComplete canvas s
  | .sittingSwitch t => Sys2Proof.Machine.execSittingSwitch t s
  | .minSeatElapsed t => Sys2Proof.Machine.execMinSeatElapsed t s
  | .yieldWindowExpires t => Sys2Proof.Machine.execYieldWindowExpires t s
  | .switchPoint t => Sys2Proof.Machine.execSwitchPoint t s
  | .saveDone t => Sys2Proof.Machine.execSaveDone t s
  | .restoreDone t => Sys2Proof.Machine.execRestoreDone t s
  | .seatPrefetchStart t order => Sys2Proof.Machine.execSeatPrefetchStart t order s
  | .nextStepStart t => Sys2Proof.Machine.execNextStepStart t s
  | .tbFirstLock ref => Sys2Proof.Machine.execTbFirstLock ref s
  | .referenceReturns ref => Sys2Proof.Machine.execReferenceReturns ref s
  | .tbNowRead r part => Sys2Proof.Machine.execTbNowRead r part s
  | .tbConfigWrite r off bytes v => Sys2Proof.Machine.execTbConfigWrite r off bytes v s
  | .cueArmInstr t g dst addr => Sys2Proof.Machine.execCueArmInstr t g dst addr s
  | .cueCancelInstr t g dst kind x y tag => Sys2Proof.Machine.execCueCancelInstr t g dst kind x y tag s
  | .cueWait t g line => Sys2Proof.Machine.execCueWait t g line s
  | .timeRead t g dst => Sys2Proof.Machine.execTimeRead t g dst s
  | .cueGoArm r bytes v => Sys2Proof.Machine.execCueGoArm r bytes v s
  | .cueGoCancel r bytes v => Sys2Proof.Machine.execCueGoCancel r bytes v s
  | .stepStartFires t => Sys2Proof.Machine.execStepStartFires t s
  | .moverStartFires r => Sys2Proof.Machine.execMoverStartFires r s
  | .collectiveOpenFires r => Sys2Proof.Machine.execCollectiveOpenFires r s
  | .telemetrySampleFires x => Sys2Proof.Machine.execTelemetrySampleFires x s
  | .yield t g => Sys2Proof.Machine.execYield t g s
  | .exit t g => Sys2Proof.Machine.execExit t g s
  | .canvasEnd t g => Sys2Proof.Machine.execCanvasEnd t g s
  | .arithmeticOp t g op wide dst a b c upsets => Sys2Proof.Machine.execArithmeticOp t g op wide dst a b c upsets s
  | .laneShuffle t g dst src idx upsets => Sys2Proof.Machine.execLaneShuffle t g dst src idx upsets s
  | .branch t g cond target upsets => Sys2Proof.Machine.execBranch t g cond target upsets s
  | .barInit t g b groupMask laneMask => Sys2Proof.Machine.execBarInit t g b groupMask laneMask s
  | .barSync t g b => Sys2Proof.Machine.execBarSync t g b s
  | .barArrive t g b => Sys2Proof.Machine.execBarArrive t g b s
  | .barrierTimeout t => Sys2Proof.Machine.execBarrierTimeout t s
  | .contextExport w => Sys2Proof.Machine.execContextExport w s
  | .contextImport w => Sys2Proof.Machine.execContextImport w s
  | .load t g sp addr disp size signed dst order scope spent upsets => Sys2Proof.Machine.execLoad t g sp addr disp size signed dst order scope spent upsets s
  | .store t g sp addr disp size src order scope upsets => Sys2Proof.Machine.execStore t g sp addr disp size src order scope upsets s
  | .atomic t g sp op ty addr disp dst val cmp order scope spent upsets => Sys2Proof.Machine.execAtomic t g sp op ty addr disp dst val cmp order scope spent upsets s
  | .fence t g scope => Sys2Proof.Machine.execFence t g scope s
  | .coreLoad c addr size reserve => Sys2Proof.Machine.execCoreLoad c addr size reserve s
  | .coreStore c addr size v => Sys2Proof.Machine.execCoreStore c addr size v s
  | .coreAmo c addr size op signed v => Sys2Proof.Machine.execCoreAmo c addr size op signed v s
  | .coreSc c addr size v => Sys2Proof.Machine.execCoreSc c addr size v s
  | .hostMemRead addr hold => Sys2Proof.Machine.execHostMemRead addr hold s
  | .hostMemWrite addr data poison failed hold => Sys2Proof.Machine.execHostMemWrite addr data poison failed hold s
  | .hostWriteback addr data hold => Sys2Proof.Machine.execHostWriteback addr data hold s
  | .hostSnoop addr => Sys2Proof.Machine.execHostSnoop addr s
  | .easelHold t g a => Sys2Proof.Machine.execEaselHold t g a s
  | .easelMma t g a => Sys2Proof.Machine.execEaselMma t g a s
  | .easelWait t g => Sys2Proof.Machine.execEaselWait t g s
  | .easelEnterQueue t => Sys2Proof.Machine.execEaselEnterQueue t s
  | .easelBegin t => Sys2Proof.Machine.execEaselBegin t s
  | .holdLoaded t => Sys2Proof.Machine.execHoldLoaded t s
  | .mmaFed t => Sys2Proof.Machine.execMmaFed t s
  | .chainWrite t => Sys2Proof.Machine.execChainWrite t s
  | .holdReloadDone t bank => Sys2Proof.Machine.execHoldReloadDone t bank s
  | .keeperGapBegin t => Sys2Proof.Machine.execKeeperGapBegin t s
  | .keepGapExpires t => Sys2Proof.Machine.execKeepGapExpires t s
  | .rampStepElapses t => Sys2Proof.Machine.execRampStepElapses t s
  | .gateRead t g stream addr dst => Sys2Proof.Machine.execGateRead t g stream addr dst s
  | .fillHoldExpires canvas stream cons => Sys2Proof.Machine.execFillHoldExpires canvas stream cons s
  | .cvt t g dst src srcFmt dstFmt round sat => Sys2Proof.Machine.execCvt t g dst src srcFmt dstFmt round sat s
  | .vcvt t g vdst vsrc srcFmt dstFmt round sat => Sys2Proof.Machine.execVcvt t g vdst vsrc srcFmt dstFmt round sat s
  | .vcvtPack t g addr vsrc dstFmt round sat => Sys2Proof.Machine.execVcvtPack t g addr vsrc dstFmt round sat s
  | .vcvtUnpack t g vdst addr srcFmt => Sys2Proof.Machine.execVcvtUnpack t g vdst addr srcFmt s
  | .vcvtMx t g elemAddr scaleAddr vsrc fmt round => Sys2Proof.Machine.execVcvtMx t g elemAddr scaleAddr vsrc fmt round s
  | .vcvtUnmx t g vdst elemAddr scaleAddr fmt => Sys2Proof.Machine.execVcvtUnmx t g vdst elemAddr scaleAddr fmt s
  | .entropyCondition raw => Sys2Proof.Machine.execEntropyCondition raw s
  | .entropyHealthFail atStartup => Sys2Proof.Machine.execEntropyHealthFail atStartup s
  | .entropyRestart r off bytes v => Sys2Proof.Machine.execEntropyRestart r off bytes v s
  | .entropyDataRead r off bytes => Sys2Proof.Machine.execEntropyDataRead r off bytes s
  | .rand t g dst seed tkey index c mode => Sys2Proof.Machine.execRand t g dst seed tkey index c mode s
  | .randJump t g gen => Sys2Proof.Machine.execRandJump t g gen s
  | .randPseed t g seed => Sys2Proof.Machine.execRandPseed t g seed s
  | .vrandBits t g vdst seed tkey base c mode => Sys2Proof.Machine.execVrandBits t g vdst seed tkey base c mode s
  | .vrandUnif t g vdst seed tkey base mode => Sys2Proof.Machine.execVrandUnif t g vdst seed tkey base mode s
  | .vrandBern t g addr p seed tkey base mode => Sys2Proof.Machine.execVrandBern t g addr p seed tkey base mode s
  | .vrandCat t g dst addr n seed tkey base mode => Sys2Proof.Machine.execVrandCat t g dst addr n seed tkey base mode s
  | .vsample t g dst addr n invT topk topp greedy seed tkey base mode => Sys2Proof.Machine.execVsample t g dst addr n invT topk topp greedy seed tkey base mode s
  | .moveStart t g dst addr space mover => Sys2Proof.Machine.execMoveStart t g dst addr space mover s
  | .mover w => Sys2Proof.Machine.execMover w s
  | .moverSubmit r rind bytes v => Sys2Proof.Machine.execMoverSubmit r rind bytes v s
  | .transferActivate rind => Sys2Proof.Machine.execTransferActivate rind s
  | .transferDone rind place => Sys2Proof.Machine.execTransferDone rind place s
  | .transferError rind place elems cause => Sys2Proof.Machine.execTransferError rind place elems cause s
  | .transferFailed rind place => Sys2Proof.Machine.execTransferFailed rind place s
  | .sliceRead a addr bytes spent => Sys2Proof.Machine.execSliceRead a addr bytes spent s
  | .sliceWrite a addr data poison => Sys2Proof.Machine.execSliceWrite a addr data poison s
  | .fillLands slice line => Sys2Proof.Machine.execFillLands slice line s
  | .writebackDone slice line => Sys2Proof.Machine.execWritebackDone slice line s
  | .bisnpResponse slice line dirty => Sys2Proof.Machine.execBisnpResponse slice line dirty s
  | .krTlrSet r n bytes v => Sys2Proof.Machine.execKrTlrSet r n bytes v s
  | .krTlrClear r n bytes v => Sys2Proof.Machine.execKrTlrClear r n bytes v s
  | .krTlrDrained n => Sys2Proof.Machine.execKrTlrDrained n s
  | .preserveCreate w => Sys2Proof.Machine.execPreserveCreate w s
  | .preserveCreateDone id => Sys2Proof.Machine.execPreserveCreateDone id s
  | .preserveRelease w => Sys2Proof.Machine.execPreserveRelease w s
  | .preserveReleaseDone id => Sys2Proof.Machine.execPreserveReleaseDone id s
  | .thrashWindowEnd slice => Sys2Proof.Machine.execThrashWindowEnd slice s
  | .refreshDue stack pc => Sys2Proof.Machine.execRefreshDue stack pc s
  | .pipPauseEnd stack pc => Sys2Proof.Machine.execPipPauseEnd stack pc s
  | .pipRegionSet r n bytes v => Sys2Proof.Machine.execPipRegionSet r n bytes v s
  | .pipRegionClear r n bytes v => Sys2Proof.Machine.execPipRegionClear r n bytes v s
  | .pipRegionDrained n => Sys2Proof.Machine.execPipRegionDrained n s
  | .pipSession w => Sys2Proof.Machine.execPipSession w s
  | .pipSubmit r bytes v => Sys2Proof.Machine.execPipSubmit r bytes v s
  | .pipAbort w => Sys2Proof.Machine.execPipAbort w s
  | .pipAbortWrite r bytes v => Sys2Proof.Machine.execPipAbortWrite r bytes v s
  | .sessionOpen x => Sys2Proof.Machine.execSessionOpen x s
  | .sessionRun x => Sys2Proof.Machine.execSessionRun x s
  | .waveEnd x => Sys2Proof.Machine.execWaveEnd x s
  | .sessionCloseDone x => Sys2Proof.Machine.execSessionCloseDone x s
  | .ld x stack pc => Sys2Proof.Machine.execLd x stack pc s
  | .st x stack pc => Sys2Proof.Machine.execSt x stack pc s
  | .ldx x stack pc => Sys2Proof.Machine.execLdx x stack pc s
  | .add x stack pc => Sys2Proof.Machine.execAdd x stack pc s
  | .mul x stack pc => Sys2Proof.Machine.execMul x stack pc s
  | .fma x stack pc => Sys2Proof.Machine.execFma x stack pc s
  | .adds x stack pc => Sys2Proof.Machine.execAdds x stack pc s
  | .muls x stack pc => Sys2Proof.Machine.execMuls x stack pc s
  | .fmas x stack pc => Sys2Proof.Machine.execFmas x stack pc s
  | .max x stack pc => Sys2Proof.Machine.execMax x stack pc s
  | .min x stack pc => Sys2Proof.Machine.execMin x stack pc s
  | .sqrt x stack pc => Sys2Proof.Machine.execSqrt x stack pc s
  | .rcp x stack pc => Sys2Proof.Machine.execRcp x stack pc s
  | .mov x stack pc => Sys2Proof.Machine.execMov x stack pc s
  | .zero x stack pc => Sys2Proof.Machine.execZero x stack pc s
  | .sectorReceived l sender x u => Sys2Proof.Machine.execSectorReceived l sender x u s
  | .linkLaneTestDone l badBonds retryOk recovered u => Sys2Proof.Machine.execLinkLaneTestDone l badBonds retryOk recovered u s
  | .writebackRetry slice line failed => Sys2Proof.Machine.execWritebackRetry slice line failed s
  | .correctedMergeTimer kind unit => Sys2Proof.Machine.execCorrectedMergeTimer kind unit s
  | .errlogBaseWrite r off bytes v => Sys2Proof.Machine.execErrlogBaseWrite r off bytes v s
  | .errlogConsWrite r off bytes v => Sys2Proof.Machine.execErrlogConsWrite r off bytes v s
  | .gleanSector stack flips late => Sys2Proof.Machine.execGleanSector stack flips late s
  | .kretenGleanSector slice flips late => Sys2Proof.Machine.execKretenGleanSector slice flips late s
  | .sweep w => Sys2Proof.Machine.execSweep w s
  | .sweepDone n => Sys2Proof.Machine.execSweepDone n s
  | .smudgeArmWord r off bytes v => Sys2Proof.Machine.execSmudgeArmWord r off bytes v s
  | .smudgeArmCrc r off bytes v => Sys2Proof.Machine.execSmudgeArmCrc r off bytes v s
  | .bypassSwitchChange pair => Sys2Proof.Machine.execBypassSwitchChange pair s
  | .portEnable r p off bytes v => Sys2Proof.Machine.execPortEnable r p off bytes v s
  | .portDisable r p off bytes v => Sys2Proof.Machine.execPortDisable r p off bytes v s
  | .portRetrainWrite r p off bytes v => Sys2Proof.Machine.execPortRetrainWrite r p off bytes v s
  | .trainFrame p f => Sys2Proof.Machine.execTrainFrame p f s
  | .equalizeDone p => Sys2Proof.Machine.execEqualizeDone p s
  | .equalizeTimeout p => Sys2Proof.Machine.execEqualizeTimeout p s
  | .retrainDone p => Sys2Proof.Machine.execRetrainDone p s
  | .retrainTimeout p => Sys2Proof.Machine.execRetrainTimeout p s
  | .failedRetryTimer p => Sys2Proof.Machine.execFailedRetryTimer p s
  | .signalLoss p => Sys2Proof.Machine.execSignalLoss p s
  | .frameReceived p f => Sys2Proof.Machine.execFrameReceived p f s
  | .resendTimeout p => Sys2Proof.Machine.execResendTimeout p s
  | .stampSend p frac => Sys2Proof.Machine.execStampSend p frac s
  | .messageForward p n => Sys2Proof.Machine.execMessageForward p n s
  | .write p n => Sys2Proof.Machine.execWrite p n s
  | .combine p n => Sys2Proof.Machine.execCombine p n s
  | .read p n => Sys2Proof.Machine.execRead p n s
  | .writeAck p n => Sys2Proof.Machine.execWriteAck p n s
  | .readData p n => Sys2Proof.Machine.execReadData p n s
  | .relay p n => Sys2Proof.Machine.execRelay p n s
  | .requestTimeout tag => Sys2Proof.Machine.execRequestTimeout tag s
  | .xcCtlArm r rind entry bytes v => Sys2Proof.Machine.execXcCtlArm r rind entry bytes v s
  | .xcCtlOpen r rind entry bytes v => Sys2Proof.Machine.execXcCtlOpen r rind entry bytes v s
  | .xcCtlDisarm r rind entry bytes v => Sys2Proof.Machine.execXcCtlDisarm r rind entry bytes v s
  | .routeInval r off bytes v => Sys2Proof.Machine.execRouteInval r off bytes v s
  | .recordWrite w off data => Sys2Proof.Machine.execRecordWrite w off data s
  | .cueArm w => Sys2Proof.Machine.execCueArm w s
  | .cueCancel w => Sys2Proof.Machine.execCueCancel w s
  | .fwStage w => Sys2Proof.Machine.execFwStage w s
  | .fwActivate w => Sys2Proof.Machine.execFwActivate w s
  | .reset w => Sys2Proof.Machine.execReset w s
  | .complogRetry log taken => Sys2Proof.Machine.execComplogRetry log taken s
  | .complogEnable r log off bytes v => Sys2Proof.Machine.execComplogEnable r log off bytes v s
  | .hdmCommit base => Sys2Proof.Machine.execHdmCommit base s
  | .svcStart r n off bytes v => Sys2Proof.Machine.execSvcStart r n off bytes v s
  | .svcStop r n off bytes v => Sys2Proof.Machine.execSvcStop r n off bytes v s
  | .serviceLoadDone n ok => Sys2Proof.Machine.execServiceLoadDone n ok s
  | .waitPoll n => Sys2Proof.Machine.execWaitPoll n s
  | .serviceCanvasFaulted n => Sys2Proof.Machine.execServiceCanvasFaulted n s
  | .stepRelease n => Sys2Proof.Machine.execStepRelease n s
  | .servePoll n => Sys2Proof.Machine.execServePoll n s
  | .loopStepDone n => Sys2Proof.Machine.execLoopStepDone n s
  | .loopCheckpointDone n => Sys2Proof.Machine.execLoopCheckpointDone n s
  | .pmbusPoll rails => Sys2Proof.Machine.execPmbusPoll rails s
  | .telemetryWindowEnd domains models paces => Sys2Proof.Machine.execTelemetryWindowEnd domains models paces s
  | .powerManagerTick estimateMw => Sys2Proof.Machine.execPowerManagerTick estimateMw s
  | .sequencerTarget rail point => Sys2Proof.Machine.execSequencerTarget rail point s
  | .voltageSettled rail => Sys2Proof.Machine.execVoltageSettled rail s
  | .clockSwitchDone rail => Sys2Proof.Machine.execClockSwitchDone rail s
  | .sequencerTimeout rail => Sys2Proof.Machine.execSequencerTimeout rail s
  | .tileNapEnter t => Sys2Proof.Machine.execTileNapEnter t s
  | .tileNapWake t => Sys2Proof.Machine.execTileNapWake t s
  | .tileDozeEnter t => Sys2Proof.Machine.execTileDozeEnter t s
  | .tileDozeWake t => Sys2Proof.Machine.execTileDozeWake t s
  | .stackRestEnter x => Sys2Proof.Machine.execStackRestEnter x s
  | .stackRestWake x => Sys2Proof.Machine.execStackRestWake x s
  | .blockEnable r off bytes v => Sys2Proof.Machine.execBlockEnable r off bytes v s
  | .blockDisable r off bytes v => Sys2Proof.Machine.execBlockDisable r off bytes v s
  | .blockPoweredUp k => Sys2Proof.Machine.execBlockPoweredUp k s
  | .blockDrainComplete k => Sys2Proof.Machine.execBlockDrainComplete k s
  | .sensorReading x reading model => Sys2Proof.Machine.execSensorReading x reading model s
  | .graceExpires lever => Sys2Proof.Machine.execGraceExpires lever s
  | .powerGoodLoss rail => Sys2Proof.Machine.execPowerGoodLoss rail s
  | .coldResetRelease env => Sys2Proof.Machine.execColdResetRelease env s
  | .xeostStepEnd env => Sys2Proof.Machine.execXeostStepEnd env s
  | .computeResetComplete f => Sys2Proof.Machine.execComputeResetComplete f s
  | .laneTest slice port failed => Sys2Proof.Machine.execLaneTest slice port failed s
  | .bondSwap slice port => Sys2Proof.Machine.execBondSwap slice port s
  | .quiescenceTimeout slice port => Sys2Proof.Machine.execQuiescenceTimeout slice port s
  | .getCertificate off len => Sys2Proof.Machine.execGetCertificate off len s
  | .challenge nonce => Sys2Proof.Machine.execChallenge nonce s
  | .getMeasurements index nonce signed => Sys2Proof.Machine.execGetMeasurements index nonce signed s
  | .spdmUnsupportedRequest code => Sys2Proof.Machine.execSpdmUnsupportedRequest code s
  | .fwStageAddrWrite r bytes v => Sys2Proof.Machine.execFwStageAddrWrite r bytes v s
  | .fwActWrite r bytes v => Sys2Proof.Machine.execFwActWrite r bytes v s
  | .fwConfirm r off bytes v => Sys2Proof.Machine.execFwConfirm r off bytes v s
  | .fwCancel r off bytes v => Sys2Proof.Machine.execFwCancel r off bytes v s
  | .keyReload r off bytes v => Sys2Proof.Machine.execKeyReload r off bytes v s
  | .receiptRead w bytes => Sys2Proof.Machine.execReceiptRead w bytes s
  | .registerRead r bar2 off bytes => Sys2Proof.Machine.execRegisterRead r bar2 off bytes s
  | .hostLinkUp rate width en bar0 bar2 => Sys2Proof.Machine.execHostLinkUp rate width en bar0 bar2 s
  | .managementRequest k payload => Sys2Proof.Machine.execManagementRequest k payload s
  | .powerGoodRise env => Sys2Proof.Machine.execPowerGoodRise env s
  | .sequencerRetry rail => Sys2Proof.Machine.execSequencerRetry rail s
  | .referenceLost => Sys2Proof.Machine.execReferenceLost s
  | .ppsOutPulse => Sys2Proof.Machine.execPpsOutPulse s
  | .entropyStartupDone => Sys2Proof.Machine.execEntropyStartupDone s
  | .entropyDataDelivered => Sys2Proof.Machine.execEntropyDataDelivered s
  | .hueWindowStart => Sys2Proof.Machine.execHueWindowStart s
  | .stampTimeout => Sys2Proof.Machine.execStampTimeout s
  | .perst => Sys2Proof.Machine.execPerst s
  | .functionLevelReset => Sys2Proof.Machine.execFunctionLevelReset s
  | .cxlReset => Sys2Proof.Machine.execCxlReset s
  | .deepEnter => Sys2Proof.Machine.execDeepEnter s
  | .deepExit => Sys2Proof.Machine.execDeepExit s
  | .coldReset => Sys2Proof.Machine.execColdReset s
  | .computeReset => Sys2Proof.Machine.execComputeReset s
  | .getVersion => Sys2Proof.Machine.execGetVersion s
  | .getCapabilities => Sys2Proof.Machine.execGetCapabilities s
  | .negotiateAlgorithms => Sys2Proof.Machine.execNegotiateAlgorithms s
  | .getDigests => Sys2Proof.Machine.execGetDigests s
  | .stagingComplete => Sys2Proof.Machine.execStagingComplete s
  | .coreRestart => Sys2Proof.Machine.execCoreRestart s
  | .healthTimeout => Sys2Proof.Machine.execHealthTimeout s
  | .grapevineOffer => Sys2Proof.Machine.execGrapevineOffer s
  | .receptionTimeout => Sys2Proof.Machine.execReceptionTimeout s
  | .ppsInEdge => Sys2Proof.Machine.execPpsInEdge s
  | .slewEnd => Sys2Proof.Machine.execSlewEnd s

end Sys2Proof.Machine
end

