-- ==== Sys2Proof/Machine/Tick.lean ====
section
/-! DEFINITION. What one tick of the device clock does when no command waits (R90, R91, R137): the time base counts and slews,
the timers of barriers run, the pulse output falls, a hue window may begin, a rail may take its next setpoint, and the observation clock's check follows
its source. -/
namespace Sys2Proof.Machine
open Sys2Proof

/-- Ticks of one slew span (R91).
DESIGN CHOICE, unsafe (log 50). -/
abbrev slewSpan : Nat := 4096

/-- The counter and the correction in progress: one tick more or less in each span.
DESIGN CHOICE, unsafe (log 1).
DESIGN CHOICE, unsafe (log 50). -/
def tickTime (tb : TimeBase) : TimeBase :=
  if tb.slew = 0 then { tb with now := (tb.now + 1) % 2 ^ 64, spanPos := 0 }
  else if tb.spanPos + 1 < slewSpan then { tb with now := (tb.now + 1) % 2 ^ 64, spanPos := tb.spanPos + 1 }
  else if tb.slew > 0 then { tb with now := (tb.now + 2) % 2 ^ 64, spanPos := 0, slew := tb.slew - 1 }
  else { tb with spanPos := 0, slew := tb.slew + 1 }

/-- Barriers in which some but not all have arrived count one more tick (R137).
DESIGN CHOICE, unsafe (log 1). -/
def tickBarrier (b : Barrier) : Barrier := if b.valid && !b.arrived.isEmpty then { b with elapsed := b.elapsed + 1 } else b

def tickSeat (x : Seat) : Seat :=
  if x.st == .seated then { x with ctx := { x.ctx with barriers := tmap (fun _ b => tickBarrier b) x.ctx.barriers } } else x

/-- The seats of a tile whose canvas runs or drains. -/
def tickTile (d : Dev) (tl : Tile) : Tile :=
  let live : Bool := match tl.canvas.bind (tfind d.canvases ·) with
    | some c => c.st == .running || c.st == .draining
    | none => false
  if live then { tl with seats := tmap (fun _ x => tickSeat x) tl.seats } else tl

/-- PPS_OUT is high for 10 ms (R96). -/
def ppsFall (d : Dev) : Dev :=
  if d.tb.ppsHigh && decide (d.tb.now % secTicks ≥ 10 * msTicks) then
    emit { d with tb := { d.tb with ppsHigh := false } } (.pin "PPS_OUT" false)
  else d

/-- OVERRANGE follows the source while the observation output is enabled (R515).
DESIGN CHOICE, unsafe (log 1). -/
def observe (d : Dev) : Dev :=
  let (o, d') := obsOverrange d (regGet d .obsCtl)
  if o then regSetBit d' .obsCtl [] 62 else d'

/-- The time base counts, and with it its copies where the master moved (R89, R90). -/
def tickCount (d : Dev) : Dev :=
  let tb := tickTime d.tb
  let d' := { d with tb := tb }
  if tb.now = d.tb.now then d' else turnCopies d'

/-- One tick: in a shut-down device the time base alone counts; while cold reset is asserted nothing does.
DESIGN CHOICE, unsafe (log 1).
DESIGN CHOICE, unsafe (log 64). -/
def tick (d : Dev) : Dev :=
  if d.phase == .coldHold then d
  else if d.phase == .shutdown then tickCount d
  else
    let d := { tickCount d with tiles := tmap (fun _ tl => tickTile d tl) d.tiles }
    settle (observe (ppsFall (stepRails (rollWindow d))))

end Sys2Proof.Machine
end

