-- ==== Sys2Proof/Machine/Idle.lean ====
section
/-! DEFINITION. What the device does when no command is sent: one tick, and the oldest command that waits for memory is
taken up again. -/
namespace Sys2Proof.Machine
open Sys2Proof

/-- The oldest waiting command is taken up again; one that must still wait joins the others anew.
DESIGN CHOICE, unsafe (log 130). -/
def retry (s : State) : Host.Outcome State Fault Refusal :=
  match s.dev.waits with
  | [] => .next s
  | c :: rest => if halted s.dev then .next s else exec c { s with dev := { s.dev with waits := rest } }

/-- An empty queue.
DESIGN CHOICE, unsafe (log 1). -/
def idle (s : State) : Host.Outcome State Fault Refusal := retry { s with dev := tick s.dev }

end Sys2Proof.Machine
end

