-- ==== Sys2Proof/Machine/Step.lean ====
section
/-! DEFINITION. One step: the command at the front of the queue, or what the device does when none is there. -/
namespace Sys2Proof.Machine
open Sys2Proof

/-- The effect of the front command on the device with the queue's rest; on an empty queue the device idles.
DESIGN CHOICE, unsafe (log 1). -/
def step (s : State) : Host.Outcome State Fault Refusal :=
  match s.pending with
  | [] => idle s
  | c :: rest => exec c { s with pending := rest }

/-- The table gives no row any bits, so no word spells a command and the queue stays as it is. DESIGN
CHOICE, safe (log 2). -/
def State.withFetchWord (s : State) (nbits w : Nat) : State :=
  match decodeTableWord nbits w with
  | some c => { s with pending := c :: s.pending }
  | none => s

end Sys2Proof.Machine
end

