-- ==== Sys2Proof/Safety.lean ====
section
/-! DEFINITION. What counts as a safe run, in the terms claims use: invariants of the device that every step keeps. -/
namespace Sys2Proof.Safety
open Sys2Proof.Machine

/-- The levels of the edge-triggered signals are those the device now shows: the next edge is seen (R366, R460). -/
def levelsCurrent (d : Dev) : Prop := d.lvlErr = errNotEmpty d ∧ d.lvlPorts = activePorts d

/-- The device with everything blanked that settling can change: waiting accesses and what they touch, the logs, the
registers that count and point, the outputs, the field repair log and the two seen levels. What is left is what no
command changes but by its own effect. -/
def rest (d : Dev) : Dev :=
  { d with regs := [], hbm := {}, undef := [], slices := [], accesses := [], prefetches := [], stks := [], merges := [], held := [],
           msixPend := [], repairCnt := 0, nvm := {}, resv := [], rasInternal := false, hueWin := [], hueWinNo := 0, hueForce := [],
           hue := 0, freeCnt := 0, errq := [], lost := [], repairq := [], lvlErr := false, lvlPorts := [], out := [] }

/-- Nothing is left to settle: no access waits, no prefetch is on its way, no error record is queued, no completion is
held, no repair record is queued, and the levels seen are current. -/
def quiet (d : Dev) : Prop :=
  d.accesses = [] ∧ d.prefetches = [] ∧ d.errq = [] ∧ d.held = [] ∧ d.repairq = [] ∧ levelsCurrent d

/-! ### How a command ends -/

/-- The device runs: cold reset is not asserted and temperature has not shut it down (R525, R594). -/
def runs (s : State) : Prop := halted s.dev = false

/-- The outcome of a command whose own effect leaves the device as `d`: what waits is settled, the queue stays. -/
def after (s : State) (d : Dev) : Result := .next { s with dev := settle d }

/-! ### Instructions of a stage -/

/-- What an instruction of group `g` of tile `t` sees when it issues, with the device under the hue of its stage, and
the number of instructions its path has issued: the seat issues, some path of the group can run, and its program counter
lies in the program (R120, R121, R132). -/
def issuing (d : Dev) (t g : Nat) (ups : List Upset) : Option (Dev × Iss × Nat) :=
  match issuer d t g with
  | none => none
  | some (k, s, c) =>
    let ctx := ups.foldl (fun x u => upset x g u) s.ctx
    let gr := groupOf ctx g
    match pickPath gr with
    | none => none
    | some (pc, run) =>
      let d := withHue (if ups.isEmpty then d else modCtx d t k fun _ => ctx) (stageOf c s.stage).hue
      let i : Iss := { t := t, g := g, cv := s.canvas, key := k, seat := { s with ctx := ctx },
                       stage := stageOf c s.stage, gr := gr, lanes := execLanes gr pc, pc := pc }
      if pc ≥ i.stage.progSize / 8 then none else some (d, i, run)

/-- On a device that runs, group `g` of tile `t` issues: `d` is the device under the stage's hue, `i` what the
instruction sees, `run` the count of its path. -/
def issues (s : State) (t g : Nat) (ups : List Upset) (d : Dev) (i : Iss) (run : Nat) : Prop :=
  runs s ∧ issuing s.dev t g ups = some (d, i, run)

/-- The lanes go on to the next word of the program. -/
def advanced (d : Dev) (i : Iss) (run : Nat) : Dev :=
  modCtx d i.t i.key fun x => modGroup x i.g fun gr =>
    notePath (modLanes gr i.lanes fun l => { l with pc := i.pc + 1 }) i.low (run + 1)

/-- The lanes stay at the instruction. -/
def stayed (d : Dev) (i : Iss) (run : Nat) : Dev :=
  modCtx d i.t i.key fun x => modGroup x i.g fun gr => notePath gr i.low (run + 1)

/-- The lanes go each to a program counter of its own. -/
def jumped (d : Dev) (i : Iss) (run : Nat) (pcs : List (Nat × Nat)) : Dev :=
  modCtx d i.t i.key fun x => modGroup x i.g fun gr =>
    notePath (pcs.foldl (fun gr p => modLane gr p.1 fun l => { l with pc := p.2 }) gr) i.low (run + 1)

/-- The lanes wait at the instruction for `w`. -/
def blocked (d : Dev) (i : Iss) (w : LaneWait) : Dev :=
  modCtx d i.t i.key fun c => modGroup c i.g fun gr => modLanes gr i.lanes fun l => { l with wait := w }

/-- An operand as the lowest-numbered executing lane reads it (R128). -/
def val (i : Iss) (o : Opnd) : Nat := (opndVal i i.low o).val

/-- No operand of a list is poisoned or of bad parity in any of the lanes, and every register exists. -/
def readable (i : Iss) (ops : List Opnd) (lanes : List Nat) : Prop :=
  ops.all opndOk = true ∧ consumed i ops lanes = none

/-- The same for operands whose poison an instruction does not consume (R171). -/
def sound (i : Iss) (ops : List Opnd) (lanes : List Nat) : Prop :=
  ops.all opndOk = true ∧ parityFails i ops lanes = none

/-! ### Command records (R446 to R451) -/

/-- The record of a window holds the opcode and passes the checks of R449 that every command meets. -/
def recordOk (d : Dev) (w : Win) (opcode : Nat) : Prop :=
  winExists w = true ∧ (windowRecord d w).opcode = opcode ∧ recordCheck d w = none

/-- A long command is accepted up to its owner's checks: `d1` is the device with the operation `op`, of handle `h`. -/
def accepted (d : Dev) (w : Win) (opcode : Nat) (d1 : Dev) (op h : Nat) : Prop :=
  recordOk d w opcode ∧ longCheck d w opcode = none ∧
    acceptOp d w opcode (windowRecord d w).user (windowRecord d w).quiet = (d1, op, h)

/-- Argument `n` of the record of a window. -/
def argOf (d : Dev) (w : Win) (n : Nat) : Nat := (windowRecord d w).args.getD n 0

/-- A command is accepted: the receipt of a window reads `ST_OK` with its opcode and handle (R450). -/
def receipted (d : Dev) (w : Win) (opcode handle : Nat) : Dev := putReceipt d w (receiptValue stOk opcode handle)

/-! ### Register writes (R24 to R30) -/

/-- A write meets the checks of every register write: its size and place, a register there, a block that answers, and
reserved bits 0. -/
def writable (d : Dev) (off bytes : Nat) (v : DWord) (t : RegDef) (ix : List Nat) : Prop :=
  sizeOk off bytes = true ∧ regAt (off / 8 * 8) = some (t, ix) ∧ regGated d off = false ∧
    (t.actsW && bytes == 4) = false ∧ Nat.land (accessValue off bytes v) t.rsv = 0

/-- A read meets the checks of every register read. -/
def readableAt (d : Dev) (off bytes : Nat) (t : RegDef) (ix : List Nat) : Prop :=
  sizeOk off bytes = true ∧ regAt (off / 8 * 8) = some (t, ix) ∧ regGated d off = false ∧
    (t.actsR && bytes == 4) = false

/-- The value that a write leaves a register with (R25). -/
def written (d : Dev) (t : RegDef) (ix : List Nat) (off bytes : Nat) (v : DWord) : Nat :=
  newValue d t ix (accessMask off bytes) (accessValue off bytes v)

/-- Registers whose writes follow a rule of their own; every other register only stores (R25). -/
def ruledRegs : List RegId :=
  [.blkEnable, .tbConfig, .entropyStatus, .errlogBase, .errlogPtr, .complogBase, .complogCtl, .cwLogBase, .cwLogCtl, .hbmPipr,
   .xrRoute, .pwrCtl, .obsCtl, .fwCtl, .svcCtl, .thermCtl, .krTlr, .xpCtl, .cwRecord, .cueGo, .gleanCfg, .hueA, .hueB,
   .hueSources, .hostVersel, .pipSubmit, .pipAbort, .xrCfg, .xrTimeout, .xrWindow, .easelKeep, .smudgeCtlHbm, .smudgeCtlKr,
   .fwAct, .fwStageAddr, .moverSubmit, .xcCtl, .xcBase, .xcSize, .xcExpect, .xcNext, .xcCompl, .thermStack, .thermRind,
   .thermTile, .thermStackSnap, .thermRindSnap, .thermTileSnap, .msixCtl]

/-- Registers whose reads follow a rule of their own (R102, R237, R445). -/
def ruledReads : List RegId := [.tbNow, .entropyData, .cwReceipt]

/-! ### Accesses that reach a slice (R294 to R297, R314) -/

/-- An access is served at once and leaves the device as `d'`: its bytes are backed, no waiting access stands
before it (R153, R162), and the slice or controller answers. -/
def served (d : Dev) (x : Access) (d' : Dev) : Prop :=
  backed d x.addr (accessBytes x.kind) = true ∧ (∀ y ∈ d.accesses, waitsBehind y x = false) ∧ perform d x = (d', true)

/-! ### Pip instructions (R334 to R338) -/

/-- The pseudo-channel is in a wave of the session, not paused, and `i` is its next instruction. -/
def nextPip (d : Dev) (n stack pc : Nat) (x : Session) (i : PipInstr) : Prop :=
  tfind d.sessions n = some x ∧ x.desc.prog[(pcRun x stack pc).ip]? = some i ∧ inWave d x stack pc = true ∧
    (pcRun x stack pc).paused = false

/-- The pseudo-channel goes on to the next instruction, the next chunk, or the end of its wave. -/
def pipAdvance (x : Session) (run : PcRun) : PcRun :=
  if run.ip + 1 ≠ x.desc.prog.length then { run with ip := run.ip + 1 }
  else if run.chunk + 1 = x.desc.chunks then { run with ip := 0, done := true }
  else { run with ip := 0, chunk := run.chunk + 1 }

/-- An instruction acts in every bank of the pseudo-channel's wave, in order. -/
def ranIn (d : Dev) (n stack pc : Nat) (x : Session) (i : PipInstr) (f : PipMeaning) : Dev :=
  let run := pcRun x stack pc
  let r := ((wavesOf d x stack pc).getD x.wave []).foldl (fun (acc : Dev × Session) b =>
    f acc.1 { x := acc.2, r := regionOf d acc.2, stack := stack, pc := pc, bank := b, j := run.chunk } i) (d, x)
  { r.1 with sessions := tput r.1.sessions n (setPcRun r.2 stack pc (pipAdvance r.2 run)) }

end Sys2Proof.Safety
end

