-- ==== Sys2Proof/Certificates/Slice0/Obligations.lean ====
section
/-! DEFINITION. The statements about this device: what holds of every command and of the whole machine first, then what
each command does on a device that runs. Every one of them gives the device as it is after the command, before waiting
accesses and logs settle (`after`); with `SettlingFrame` that is also what the command leaves unchanged. -/
open Sys2Proof Sys2Proof.Machine Sys2Proof.Safety

/-- Every command answers a next state and changes nothing but the device: no fault, no refusal, and the queue stays. -/
def Obligations.EveryCommandAnswers : Prop :=
  ∀ (c : Instr) (s : State), ∃ d : Dev, exec c s = .next { s with dev := d }

/-- The front command runs: a step of a queue that holds `c` first is `c` on the rest of the queue. -/
def Obligations.FrontCommandRuns : Prop :=
  ∀ (c : Instr) (q : List Instr) (s : State), step { s with pending := c :: q } = exec c { s with pending := q }

/-- R525 and R594: while cold reset is asserted, and after temperature has shut the device down, no command but the
power and reset signals changes anything. -/
def Obligations.HaltedDeviceStays : Prop :=
  ∀ (c : Instr) (s : State), ¬ runs s →
    (c = .coldReset ∨ (∃ r, c = .powerGoodLoss r) ∨ (∃ e, c = .powerGoodRise e) ∨ (∃ e, c = .coldResetRelease e)) ∨
      exec c s = .next s

/-- What every command leaves up to date (R366, R460): the levels whose edges raise vectors are the device's own
after every step that starts from such levels. -/
def Obligations.LevelsKept : Prop :=
  ∀ s t : State, levelsCurrent s.dev → step s = .next t → levelsCurrent t.dev

/-- Settling after a command changes no tile, canvas, stream, port, transfer, session, service, lever or block,
neither the time base nor the queue: of those a command changes only what its own effect changes. -/
def Obligations.SettlingFrame : Prop :=
  ∀ (s t : State) (d : Dev), after s d = .next t →
    t.pending = s.pending ∧ t.dev.phase = d.phase ∧ t.dev.tb = d.tb ∧ t.dev.cues = d.cues ∧ t.dev.tiles = d.tiles ∧
    t.dev.canvases = d.canvases ∧ t.dev.streams = d.streams ∧ t.dev.preserves = d.preserves ∧ t.dev.sessions = d.sessions ∧
    t.dev.sweeps = d.sweeps ∧ t.dev.xfers = d.xfers ∧ t.dev.links = d.links ∧ t.dev.ports = d.ports ∧
    t.dev.switches = d.switches ∧ t.dev.requests = d.requests ∧ t.dev.colls = d.colls ∧ t.dev.routes = d.routes ∧
    t.dev.wins = d.wins ∧ t.dev.coreWins = d.coreWins ∧ t.dev.ops = d.ops ∧ t.dev.link = d.link ∧ t.dev.svcs = d.svcs ∧
    t.dev.blocks = d.blocks ∧ t.dev.seqs = d.seqs ∧ t.dev.sensors = d.sensors ∧ t.dev.levers = d.levers ∧
    t.dev.creset = d.creset ∧ t.dev.waits = d.waits ∧ t.dev.limits = d.limits ∧ t.dev.board = d.board ∧ t.dev.fw = d.fw ∧ t.dev.entropy = d.entropy

/-- The machine right after reset: no command waits, cold reset is asserted, memory lists nothing and is canonical,
no operation runs, the time base is 0, the levels are current, and every register holds its reset value. -/
def Obligations.ResetState : Prop :=
  State.reset.pending = [] ∧ halted State.reset.dev = true ∧ State.reset.dev.phase = .coldHold ∧
  State.reset.dev.hbm.cells = [] ∧ Memory.wf State.reset.dev.hbm = true ∧ State.reset.dev.ops = [] ∧
  State.reset.dev.tb.now = 0 ∧ levelsCurrent State.reset.dev ∧
  (∀ r ix, regGet State.reset.dev r ix = (regDef r).reset)

/-- The clock (R90, R91): on an empty queue a device that runs advances its time base by one tick, and takes up again
the oldest command that waits for memory, if any; over one span of 4,096 ticks a clock that is to gain gains one
tick, one that is to lose loses one, and any other keeps time; two copies of the counter never differ by more than
one tick. The tick and the retry on an empty queue are the model's choice (logs 1 and 130). -/
def Obligations.ClockTicks : Prop :=
  (∀ s, runs s → s.pending = [] → (tick s.dev).tb.now = (tickTime s.dev.tb).now ∧ (tick s.dev).waits = s.dev.waits ∧
    (s.dev.waits = [] → step s = .next { s with dev := tick s.dev }) ∧
    (∀ c rest, s.dev.waits = c :: rest →
      step s = exec c { s with dev := { tick s.dev with waits := rest } })) ∧
  (∀ (tb : TimeBase) (j k : Nat), 0 < tb.now → tb.now < 2 ^ 64 - 1 → copyAt tb j ≤ copyAt tb k + 1) ∧
  (∀ tb : TimeBase, tb.spanPos = 0 → tb.now + 4097 < 2 ^ 64 →
    let e := iter tickTime 4096 tb
    (tb.slew = 0 → e.now = tb.now + 4096 ∧ e.slew = 0) ∧
    (tb.slew > 0 → e.now = tb.now + 4097 ∧ e.slew = tb.slew - 1 ∧ e.spanPos = 0) ∧
    (tb.slew < 0 → e.now = tb.now + 4095 ∧ e.slew = tb.slew + 1 ∧ e.spanPos = 0))

/-- Register writes (R25, R28): a bit of the half that is written takes the written bit where it is RW, clears where
it is W1C and the bit is 1, sets where it is W1S and the bit is 1; every other bit stays. -/
def Obligations.StoredBits : Prop :=
  ∀ (t : RegDef) (old mask v i : Nat), i < 64 → old < 2 ^ 64 → v < 2 ^ 64 → mask < 2 ^ 64 →
    let was := old.testBit i
    let hit := mask.testBit i && v.testBit i
    (t.rw.testBit i = true → t.w1c.testBit i = false → t.w1s.testBit i = false →
      (storedAfterWrite t old mask v).testBit i = if mask.testBit i then v.testBit i else was) ∧
    (t.rw.testBit i = false → t.w1c.testBit i = true → t.w1s.testBit i = false →
      (storedAfterWrite t old mask v).testBit i = (was && !hit)) ∧
    (t.rw.testBit i = false → t.w1c.testBit i = false → t.w1s.testBit i = true →
      (storedAfterWrite t old mask v).testBit i = (was || hit)) ∧
    (t.rw.testBit i = false → t.w1c.testBit i = false → t.w1s.testBit i = false →
      (storedAfterWrite t old mask v).testBit i = was)

/-- Handles (R33 to R35): while some SEQ of the slot is free, an operation that the slot accepts takes a handle that
names no operation, never 0, of its own slot; the handle then names it, and the SEQ after the slot's last one,
wrapping past 0, is taken where it is free. -/
def Obligations.HandlesAreFresh : Prop :=
  ∀ (d : Dev) (n opcode : Nat) (user : DWord) (quiet : Bool), n < 64 →
    (∃ q, 1 ≤ q ∧ q ≤ 0xFFFFFF ∧ handleUsed d (n * 2 ^ 24 + q) = false) →
    let next := n * 2 ^ 24 + seqAfter (winOf d (.slot n)).lastSeq
    let r := acceptOp d (.slot n) opcode user quiet
    handleUsed d r.2.2 = false ∧ r.2.2 ≠ 0 ∧ r.2.2 / 2 ^ 24 = n ∧
    handleUsed r.1 r.2.2 = true ∧ (winOf r.1 (.slot n)).lastSeq = r.2.2 % 2 ^ 24 ∧
    (handleUsed d next = false → r.2.2 = next)

/-- Homes (R287): the home slice is A[17:10] XOR f and the home set (B + 128 × f) mod 640, with f the XOR of the
bytes of the block number B; every aligned 256 KiB block places exactly one line in each slice. -/
def Obligations.HomesSpread : Prop :=
  (∀ a : Nat,
    let b := bits a 47 18
    let f := Nat.xor (Nat.xor (Nat.xor (bits b 7 0) (bits b 15 8)) (bits b 23 16)) (bits b 29 24)
    homeSlice a = Nat.xor (bits a 17 10) f ∧ homeSet a = (b + 128 * f) % 640) ∧
  (∀ block slice, slice < 256 →
    ∃ line, line < 256 ∧ homeSlice (block * 2 ^ 18 + line * 1024) = slice ∧
      ∀ l, l < 256 → homeSlice (block * 2 ^ 18 + l * 1024) = slice → l = line)

/-- Bands (R325): with 12 or 16 stacks, band r fills row r of every bank of every populated stack, and nothing else
fills that row: each place of the row is where exactly one address lies, and it lies in the band. What is above the
last band lies in row 43,690 of 32 banks per pseudo-channel. -/
def Obligations.BandsFillRows : Prop :=
  (∀ n stack pc bank r byte, n = 12 ∨ n = 16 → stack < n → pc < 32 → bank < 48 → r < 43690 → byte < 1024 →
    let at_ : Loc := { stack := stack, pc := pc, bank := bank, row := r, byte := byte }
    ∃ a, interleave n a = at_ ∧ r * (1536 * n * 1024) ≤ a ∧ a < (r + 1) * (1536 * n * 1024) ∧
      ∀ b, b < n * 2 ^ 36 → interleave n b = at_ → b = a) ∧
  (∀ n a, n = 12 ∨ n = 16 → a < n * 2 ^ 36 →
    (interleave n a).stack < n ∧ (interleave n a).pc < 32 ∧ (interleave n a).bank < 48 ∧
    (43690 * (1536 * n * 1024) ≤ a → (interleave n a).row = 43690 ∧ 10 ≤ (interleave n a).bank ∧ (interleave n a).bank < 42))

/-- A pip-aligned region (R328): its offsets lie in the rows of its bands, in banks that exist, no two in one place;
and offsets that differ by a stripe lie in one bank. -/
def Obligations.RegionsHoldSpans : Prop :=
  ∀ (n : Nat) (r : PipRegion), n = 12 ∨ n = 16 → r.bands % 2 ^ r.spanLog = 0 →
    let top := r.bands * (1536 * n * 1024)
    let stripe := 1536 * n * 1024 * 2 ^ r.spanLog
    (∀ o, o < top → (pipMap n r o).stack < n ∧ (pipMap n r o).pc < 32 ∧ (pipMap n r o).bank < 48 ∧
      r.first ≤ (pipMap n r o).row ∧ (pipMap n r o).row < r.first + r.bands) ∧
    (∀ o p, o < top → p < top → pipMap n r o = pipMap n r p → o = p) ∧
    (∀ o, (pipMap n r (o + stripe)).stack = (pipMap n r o).stack ∧ (pipMap n r (o + stripe)).pc = (pipMap n r o).pc ∧
      (pipMap n r (o + stripe)).bank = (pipMap n r o).bank ∧
      (pipMap n r (o + stripe)).row = (pipMap n r o).row + 2 ^ r.spanLog)

/-- Storage (R354, R356): in a memory of canonical form, bytes that are written read back with the mark they were
written with where whole words are written; every other byte and every other word's mark read as before. -/
def Obligations.WritesReadBack : Prop :=
  ∀ (m : Mem) (a : Nat) (bs : List Byte) (poison : Bool), Memory.wf m = true →
    (memRead (memWrite m a bs poison) a bs.length).1 = bs ∧
    (bs ≠ [] → a % 8 = 0 → bs.length % 8 = 0 → (memRead (memWrite m a bs poison) a bs.length).2 = poison) ∧
    (∀ x, x < a ∨ a + bs.length ≤ x → (memRead (memWrite m a bs poison) x 1).1 = (memRead m x 1).1) ∧
    (∀ w, 8 * w + 8 ≤ a ∨ a + bs.length ≤ 8 * w → memVal (memWrite m a bs poison) w = memVal m w)

/-- Flipped bits (R354 to R356): a word is delivered clean with none of its 80 bits flipped, and corrected with its
data and its mark with one or two. -/
def Obligations.TwoFlipsAreCorrected : Prop :=
  ∀ (data : DWord) (poison : Bool), decodeWord (encodeWord data poison) = .clean data poison ∧
    (∀ i, i < 80 → decodeWord (flipAt (encodeWord data poison) i) = .corrected data poison) ∧
    (∀ i j, i < 80 → j < i → decodeWord (flipAt (flipAt (encodeWord data poison) i) j) = .corrected data poison)

/-- Three flipped bits of a word are found uncorrectable (R355, R356), and it is delivered as read. -/
def Obligations.ThreeFlipsAreFound : Prop :=
  ∀ (data : DWord) (poison : Bool) (i j k : Nat), i < 80 → j < i → k < j →
    let c := flipAt (flipAt (flipAt (encodeWord data poison) i) j) k
    decodeWord c = .uncorrectable (codeData c)

/-- Stream instructions (R66 to R68, R129, R130, R194 to R197): where a producer holds a credit of every consumer it
writes to, STREAM.WRITE reads its packet, spends the credits and goes on; STREAM.READ takes the oldest FILLED slot of
a rank; a gated read forms a batch; STREAM.RELEASE frees a READ slot, or the slots of the batch, and sends the
credits back. -/
def Obligations.StreamInstructions : Prop :=
  (∀ s t g stream addr rank rel d i run cv e, issues s t g [] d i run → ownStream d i stream true = some (cv, e) →
    opndOk addr = true → opndOk rank = true →
    parityFails i (if e.multicast then [addr] else [addr, rank]) [i.low] = none →
    (e.multicast = true ∨ val i rank < (stageSeats cv e.consumer).length) →
    sbOk i.seat (val i addr) (packetBytes e) = true →
    ((targets cv e (val i rank)).all fun k => decide (creditsOf e (streamRt d i.cv stream) i.seat.rank k > 0)) = true →
    exec (.streamWrite t g stream addr rank rel) s =
      after s (advanced (sendPacket d i.cv stream e i.t i.seat.rank (val i addr) (targets cv e (val i rank))) i run)) ∧
  (∀ s t g stream dstAddr dstLen rank d i run cv e r k t' more se, issues s t g [] d i run →
    ownStream d i stream false = some (cv, e) → sound i rank.toList [i.low] → dstAddr < 64 → dstLen < 64 →
    r = (rank.map (val i)).getD (consEp (streamRt d i.cv stream) i.seat.rank).turn →
    r < (stageSeats cv e.producer).length → gatedStream cv i.seat.stage ≠ some stream →
    tget [] (consEp (streamRt d i.cv stream) i.seat.rank).order r = k :: more →
    seatOfRank cv e.consumer i.seat.rank = some (t', se) →
    exec (.streamRead t g stream rank dstAddr dstLen) s =
      let ep := consEp (streamRt d i.cv stream) i.seat.rank
      let ep := { ep with
        order := tput ep.order r more, slots := tput ep.slots (slotKey r k) { slotOf ep r k with st := .readSt },
        turn := if rank.isNone then (r + 1) % (stageSeats cv e.producer).length else ep.turn }
      let d := modStream d i.cv stream fun rt => putCons rt i.seat.rank ep
      after s (advanced (writeAll (writeAll d i (.reg dstAddr) (slotAddr se e r k)) i (.reg dstLen) (packetBytes e)) i run)) ∧
  (∀ s t g stream sa d i run cv e t' r k se, issues s t g [] d i run → ownStream d i stream false = some (cv, e) →
    sound i [sa] [i.low] → seatOfRank cv e.consumer i.seat.rank = some (t', se) →
    gatedStream cv i.seat.stage ≠ some stream →
    slotAt se e (stageSeats cv e.producer).length (val i sa) = some (r, k) →
    (slotOf (consEp (streamRt d i.cv stream) i.seat.rank) r k).st = .readSt →
    exec (.streamRelease t g stream sa) s =
      after s (advanced (modStream d i.cv stream fun rt => releaseSlots rt i.seat.rank [(r, k)]) i run)) ∧
  (∀ s t g stream sa d i run cv e, issues s t g [] d i run → ownStream d i stream false = some (cv, e) →
    opndOk sa = true → gatedStream cv i.seat.stage = some stream →
    (consEp (streamRt d i.cv stream) i.seat.rank).batch ≠ [] →
    exec (.streamRelease t g stream sa) s =
      after s (advanced (modStream d i.cv stream fun rt =>
        releaseSlots rt i.seat.rank (consEp (streamRt d i.cv stream) i.seat.rank).batch) i run)) ∧
  (∀ s t g stream dst addr d i run cv e t' se, issues s t g [] d i run → ownStream d i stream false = some (cv, e) →
    sound i [addr] [i.low] → dst < 64 → gatedStream cv i.seat.stage = some stream →
    (consEp (streamRt d i.cv stream) i.seat.rank).batch = [] → val i addr % 64 = 0 →
    seatOfRank cv e.consumer i.seat.rank = some (t', se) →
    let byRows := gateByRows i.stage e (consEp (streamRt d i.cv stream) i.seat.rank)
    (byRows || gateByHold d.tb.now i.stage (consEp (streamRt d i.cv stream) i.seat.rank)) = true →
    let b := formBatch (consEp (streamRt d i.cv stream) i.seat.rank) i.stage.fillRows e.rows (stageSeats cv e.producer).length
    sbOk i.seat (val i addr) (8 * b.1.batch.length) = true →
    exec (.gateRead t g stream addr dst) s =
      let d := modStream d i.cv stream fun rt => putCons rt i.seat.rank b.1
      let d := sbWrite d i.t (val i addr) (b.1.batch.flatMap fun x => leBytes 8 (batchWord se e x)) false
      let d := if byRows then regBump d .gateOpens [i.t] 31 0 1 else regBump d .gateOpens [i.t] 63 32 1
      after s (advanced (writeAll d i (.reg dst)
        (((b.2 % 2 ^ 16) <<< 16) + b.1.batch.length)) i run))

/-- Stream events (R63, R64, R66 to R68, R110 to R112, R194): an ejection channel serves one of the head packets that
wait at it, a head of the highest priority at the first requester from its pointer on; the packet lands in the lowest
FREE slot of its producer rank, wakes the consumer and moves both pointers past what was served; a credit that
returns lowers the pair's spent count and lets the first held write that now can go; lanes that wait at a gate whose
hold time is over issue their read again. -/
def Obligations.StreamEvents : Prop :=
  (∀ s tx ty ch heads t c cv sn prod e cons ep p k t' se, runs s → t = tx + 16 * ty → (tileOf s.dev t).canvas = some c →
    canvasOf s.dev c = some cv → servedHead s.dev c t ch cv heads = some (sn, prod) →
    endpointOn s.dev c t cv sn = some (e, cons, ep) →
    headPacket (streamRt s.dev c sn) e ep prod cons = some (p, k) → seatOfRank cv e.consumer cons = some (t', se) →
    exec (.packetArrives tx ty ch heads) s =
      let n := tget 0 ep.received prod
      let ep' := { ep with
        slots := tput ep.slots (slotKey prod k) { st := .filled, filledAt := s.dev.tb.now, seq := n },
        order := tmod [] ep.order prod (· ++ [k]), received := tput ep.received prod ((n + 1) % 2 ^ 24),
        rankPtr := (prod + 1) % 256 }
      let d := modStream { s.dev with ejectPtr := tput s.dev.ejectPtr (4 * t + ep.num % 4) ((ep.num + 1) % 64) } c sn
        fun rt => putCons { rt with packets := rt.packets.erase p } cons ep'
      after s (wakeReaders (sbPutWords d t (slotAddr se e prod k) p.bytes p.poison) t e.consumer sn)) ∧
  (∀ (ptr n i : Nat) (l : List (Nat × Nat)), arbitrate ptr n l = some i →
    ∃ p, (i, p) ∈ l ∧ ∀ x ∈ l, x.2 ≤ p ∧ (x.2 = p → (i + n - ptr) % n ≤ (x.1 + n - ptr) % n)) ∧
  (∀ s canvas stream prod cons, runs s → (prod, cons) ∈ (streamRt s.dev canvas stream).credits →
    exec (.creditReturns canvas stream prod cons) s =
      after s (sendHeld (modStream s.dev canvas stream fun rt => { rt with
        credits := rt.credits.erase (prod, cons), spent := tmod 0 rt.spent (65536 * prod + cons) (· - 1) })
        canvas stream prod)) ∧
  (∀ s canvas stream cons cv e t se, runs s → canvasOf s.dev canvas = some cv → cv.streams[stream]? = some e →
    seatOfRank cv e.consumer cons = some (t, se) → gatedStream cv e.consumer = some stream →
    gateByHold s.dev.tb.now (stageOf cv e.consumer) (consEp (streamRt s.dev canvas stream) cons) = true →
    exec (.fillHoldExpires canvas stream cons) s = after s (wakeReaders s.dev t e.consumer stream))

/-- Step control (R117 to R119, R136): YIELD and EXIT stop or end the executing lanes and make the step boundary when
they are the last; CANVAS.END drains a RUNNING canvas; the next step starts once a boundary is made, no switch waits
and the easel has nothing left. Barriers (R134 to R137): BAR.INIT names the live lanes of its masks; BAR.SYNC makes
its lanes arrive and wait, BAR.ARRIVE makes them arrive and go on; the timer starts at 0 with the first arrival; the
phase completes when every named lane has arrived; a timer that reaches the timeout faults. -/
def Obligations.StepsAndBarriers : Prop :=
  ((∀ s t g d i run, issues s t g [] d i run →
    exec (.yield t g) s = after s (stayed (checkBoundary (modCtx d i.t i.key fun c => modGroup c i.g fun gr =>
      modLanes gr i.lanes fun l => { l with yielded := true }) i.t i.key i.stage.groups) i run)) ∧
  (∀ s t g d i run, issues s t g [] d i run →
    exec (.exit t g) s = after s (stayed (checkBoundary (modCtx d i.t i.key fun c =>
      i.lanes.foldl (fun c l => leaveBarriers c (32 * i.g + l)) (modGroup c i.g fun gr =>
        modLanes gr i.lanes fun l => { l with live := false })) i.t i.key i.stage.groups) i run)) ∧
  (∀ s t g d i run c, issues s t g [] d i run → canvasOf d i.cv = some c → c.st = .running →
    exec (.canvasEnd t g) s = after s (advanced (beginDrain d i.cv) i run)) ∧
  (∀ s t k st cv, runs s → curSeat s.dev t = some (k, st) → canvasOf s.dev st.canvas = some cv →
    (tileOf s.dev t).atBoundary = true → st.st = .seated → (cv.st = .running ∨ cv.st = .draining) →
    ((tileOf s.dev t).sw = .none ∨ (tileOf s.dev t).sw = .waitMinSeat) →
    (tileOf s.dev t).easel.queue = [] → (tileOf s.dev t).easel.chains = [] →
    exec (.nextStepStart t) s = after s (startStep s.dev t k))) ∧
  ((∀ s t g b groupMask laneMask d i run, issues s t g [] d i run → sound i [b, groupMask, laneMask] [i.low] →
    val i b ≤ 15 → val i groupMask < 2 ^ i.stage.groups →
    namedSet i.seat.ctx i.stage.groups (val i groupMask) (val i laneMask) ≠ [] →
    ((barOf i.seat.ctx (val i b)).valid = false ∨ (barOf i.seat.ctx (val i b)).arrived = []) →
    exec (.barInit t g b groupMask laneMask) s =
      after s (advanced (modCtx d i.t i.key fun c => putBar c (val i b)
        { valid := true, groupMask := val i groupMask, laneMask := val i laneMask,
          named := namedSet i.seat.ctx i.stage.groups (val i groupMask) (val i laneMask) }) i run)) ∧
  (∀ s t g b d i run, issues s t g [] d i run → sound i [b] [i.low] → val i b ≤ 15 →
    (barOf i.seat.ctx (val i b)).valid = true →
    (∀ l ∈ i.lanes, nmem (32 * i.g + l) (barOf i.seat.ctx (val i b)).named = true ∧
      nmem (32 * i.g + l) (barOf i.seat.ctx (val i b)).arrived = false) →
    let x := barOf i.seat.ctx (val i b)
    let arrive (c : Ctx) : Ctx := checkPhase (putBar c (val i b) { x with
      arrived := (i.lanes.map fun l => 32 * i.g + l).foldl (fun a k => nadd k a) x.arrived,
      elapsed := if x.arrived.isEmpty then 0 else x.elapsed }) (val i b)
    exec (.barSync t g b) s = after s (stayed (modCtx d i.t i.key fun c => arrive (modGroup c i.g fun gr =>
      modLanes gr i.lanes fun l => { l with wait := .barrier (val i b) })) i run) ∧
    exec (.barArrive t g b) s = after s (stayed (modCtx d i.t i.key fun c => arrive (modGroup c i.g fun gr =>
      modLanes gr i.lanes fun l => { l with pc := i.pc + 1 })) i run)) ∧
  (∀ s t k st cv b g ls, runs s → curSeat s.dev t = some (k, st) → canvasOf s.dev st.canvas = some cv → st.st = .seated →
    (cv.st = .running ∨ cv.st = .draining) → s.dev.creset.active = false →
    timedOut st.ctx (stageOf cv st.stage).barTimeout = some b →
    timeoutLanes st.ctx (stageOf cv st.stage).groups b = (g, ls) →
    exec (.barrierTimeout t) s =
      after s (stageFault s.dev t g stBarrierTimeout (laneMask ls) (laneAt (groupOf st.ctx g) (ls.headD 0)).pc)))

/-- Per-lane arithmetic, lane shuffles and branches (R121, R132, R623): with defined operands that no lane finds
poisoned or of bad parity, every executing lane writes its own result; a move into a stage register carries the
poison of its source (R115); a shuffle copies a register and its poison bit; a branch inside the program moves each
lane to the target or to the next word; TIME.READ reads the tile's copy of the time base, and the copies and the
master lie on two neighbouring ticks (R89, R90). -/
def Obligations.LaneInstructions : Prop :=
  (∀ s t g op wide dst a b c upsets d i run, issues s t g upsets d i run →
    op ≠ .undef → (wide = true → arithNarrow op = false) → dstOk dst = true →
    stageMove op dst ([a, b, c].take (arithArity op)) = false →
    readable i ([a, b, c].take (arithArity op)) i.lanes →
    let w := if wide then 64 else 32
    let v (l n : Nat) : Nat := ((([a, b, c].take (arithArity op))[n]?).map fun o => (opndVal i l o).val % 2 ^ w).getD 0
    exec (.arithmeticOp t g op wide dst a b c upsets) s =
      after s (advanced (writeLanes d i dst (i.lanes.map fun l =>
        (l, arithResult op w (v l 0) (v l 1) (v l 2) (i.lanes.map fun l => (l, v l 0 != 0)), false))) i run)) ∧
  (∀ s t g wide j n b c upsets d i run, issues s t g upsets d i run → dstOk (.sreg j) = true →
    sound i [.pair n] i.lanes →
    let half (d : Dev) (hi : Bool) (r : Nat) : Dev := writeLanes d i (.sregHalf j hi) (i.lanes.map fun l =>
      (l, (opndVal i l (.reg r)).val, (opndVal i l (.reg r)).poison))
    exec (.arithmeticOp t g .mov wide (.sreg j) (.pair n) b c upsets) s =
      after s (advanced (half (half d false n) true (n + 1)) i run)) ∧
  (∀ s t g wide j hi n b c upsets d i run, issues s t g upsets d i run → dstOk (.sregHalf j hi) = true →
    sound i [.reg n] i.lanes →
    exec (.arithmeticOp t g .mov wide (.sregHalf j hi) (.reg n) b c upsets) s =
      after s (advanced (writeLanes d i (.sregHalf j hi) (i.lanes.map fun l =>
        (l, (opndVal i l (.reg n)).val, (opndVal i l (.reg n)).poison))) i run)) ∧
  (∀ s t g dst src idx upsets d i run, issues s t g upsets d i run → dst < 64 → src < 64 →
    readable i [.reg src, idx] i.lanes →
    let source (l : Nat) : Reg32 := gReg i.gr src ((opndVal i l idx).val % 32)
    (∀ l ∈ i.lanes, regBad (source l) = false) →
    exec (.laneShuffle t g dst src idx upsets) s =
      after s (advanced (writeLanes d i (.reg dst) (i.lanes.map fun l =>
        (l, (source l).val.toNat, (source l).poison))) i run)) ∧
  (∀ s t g cond target upsets d i run, issues s t g upsets d i run → readable i (target :: cond.toList) i.lanes →
    let taken (l : Nat) : Bool := cond.elim true fun o => (opndVal i l o).val != 0
    (∀ l ∈ i.lanes, taken l = true → (opndVal i l target).val < i.stage.progSize / 8) →
    exec (.branch t g cond target upsets) s =
      after s (jumped d i run (i.lanes.map fun l => (l, if taken l then (opndVal i l target).val else i.pc + 1)))) ∧
  (∀ s t g dst d i run, issues s t g [] d i run → dst < 64 → dst % 2 = 0 →
    exec (.timeRead t g dst) s =
      after s (advanced (writeAll d i (.pair dst) (copyAt d.tb i.t)) i run)) ∧
  (∀ tb : TimeBase, ∃ b, (∀ k, copyAt tb k = b ∨ copyAt tb k = (b + 1) % 2 ^ 64) ∧
    (tb.now % 2 ^ 64 = b ∨ tb.now % 2 ^ 64 = (b + 1) % 2 ^ 64))

/-- Cue instructions (R103, R106, R109): CUE.ARM reads its record in the stage buffer and returns the status of
arming; CUE.CANCEL returns the status of cancelling; CUE.WAIT passes a line whose count exceeds what its group
consumed, and waits at any other. -/
def Obligations.CueInstructions : Prop :=
  (∀ s t g dst addr d i run d' st, issues s t g [] d i run → dst < 64 → readable i [addr] [i.low] →
    val i addr % 32 = 0 → sbOk i.seat (val i addr) 32 = true →
    let r := sbRead d i.t (val i addr) 32
    armCue r.1 { w0 := leAt r.2.1 0 8, w1 := leAt r.2.1 8 8, w2 := leAt r.2.1 16 8, w3 := leAt r.2.1 24 8 } = (d', some st) →
    exec (.cueArmInstr t g dst addr) s = after s (advanced (writeAll d' i (.reg dst) st.toNat) i run)) ∧
  (∀ s t g dst kind x y tag d i run, issues s t g [] d i run → dst < 64 → readable i [kind, x, y, tag] [i.low] →
    let r := cancelCue d (val i kind) (val i x) (val i y) (if val i kind = 0 then i.seat.stage else 0) (val i tag % 65536)
    exec (.cueCancelInstr t g dst kind x y tag) s = after s (advanced (writeAll r.2 i (.reg dst) r.1.toNat) i run)) ∧
  (∀ s t g line d i run, issues s t g [] d i run → readable i [line] [i.low] → val i line ≤ 15 →
    exec (.cueWait t g line) s =
      if tget 0 i.seat.ctx.release (val i line) > tget 0 i.seat.ctx.consumed (16 * i.g + val i line) then
        after s (advanced (modCtx d i.t i.key fun c => { c with
          consumed := tmod 0 c.consumed (16 * i.g + val i line) fun x => (x + 1) % 2 ^ 32 }) i run)
      else after s (stayed (blocked d i (.cue (val i line))) i run))

/-- Memory instructions (R152, R157, R159 to R161, R170 to R173, R624): with readable operands, every lane's address
aligned and in its space, and no lane's access waiting for the host, a load fills each lane's destination, a store
writes each lane's value, an atomic updates each lane's word and returns the old value, lane after lane; on a stage
buffer no access ever waits. A store of a tile whose slice has no vertical port left is lost, and its canvas faults
with ST_CRC_FINAL (R550). A fence goes on; with system scope it writes back the tile-local lines. -/
def Obligations.MemoryInstructions : Prop :=
  (∀ s t g sp addr disp size signed dst order scope spent upsets d i run d' rs, issues s t g upsets d i run →
    opndOk addr = true → sizeBits size = true → dstOk (if size = 8 then .pair dst else .reg dst) = true →
    order ≤ 1 → scope ≤ 3 → (∀ l ∈ i.lanes, laneFault d i sp addr disp size [] [] l = none) →
    eachLane (loadLane sp i addr disp size spent) d i.lanes = some (d', rs) →
    exec (.load t g sp addr disp size signed dst order scope spent upsets) s =
      after s (advanced (writeLanes d' i (if size = 8 then .pair dst else .reg dst)
        (rs.map fun r => (r.1, extendLoad size signed r.2.1, r.2.2))) i run)) ∧
  (∀ s t g sp addr disp size src order scope upsets d i run d' rs, issues s t g upsets d i run →
    let so : Opnd := if size = 8 then .pair src else .reg src
    opndOk addr = true → sizeBits size = true → opndOk so = true → (order = 0 ∨ order = 2) → scope ≤ 3 →
    (∀ l ∈ i.lanes, laneFault d i sp addr disp size [] [so] l = none) →
    (sp = .device → cutOff d i.t = false) → eachLane (storeLane sp i addr disp size so) d i.lanes = some (d', rs) →
    exec (.store t g sp addr disp size src order scope upsets) s = after s (advanced d' i run)) ∧
  (∀ s t g sp op ty addr disp dst v cmp order scope spent upsets d i run d' rs, issues s t g upsets d i run →
    let ops := if op == .cas then [v, cmp] else [v]
    opndOk addr = true → ops.all opndOk = true → dstOk (if atomBytes ty = 8 then .pair dst else .reg dst) = true →
    atomOk op ty = true → order ≤ 3 → scope ≤ 3 →
    (∀ l ∈ i.lanes, laneFault d i sp addr disp (atomBytes ty) ops [] l = none) →
    (sp = .device → cutOff d i.t = false) →
    eachLane (atomicLane sp i op ty addr disp v cmp spent) d i.lanes = some (d', rs) →
    exec (.atomic t g sp op ty addr disp dst v cmp order scope spent upsets) s =
      after s (advanced (writeLanes d' i (if atomBytes ty = 8 then .pair dst else .reg dst)
        (rs.map fun r => (r.1, r.2.1, r.2.2))) i run)) ∧
  (∀ s t g addr disp size src order scope upsets d i run, issues s t g upsets d i run →
    let so : Opnd := if size = 8 then .pair src else .reg src
    opndOk addr = true → sizeBits size = true → opndOk so = true → (order = 0 ∨ order = 2) → scope ≤ 3 →
    (∀ l ∈ i.lanes, laneFault d i .device addr disp size [] [so] l = none) → cutOff d i.t = true →
    exec (.store t g .device addr disp size src order scope upsets) s =
      after s (stageFault (loseCut d i.t 2 (laneAddr i addr disp i.low)) t g stCrcFinal (laneMask i.lanes) i.pc
        (laneAddr i addr disp i.low))) ∧
  (∀ i op ty addr disp size so v cmp spent d ls,
    (∃ r, eachLane (loadLane .stageBuffer i addr disp size spent) d ls = some r) ∧
    (∃ r, eachLane (storeLane .stageBuffer i addr disp size so) d ls = some r) ∧
    (∃ r, eachLane (atomicLane .stageBuffer i op ty addr disp v cmp spent) d ls = some r)) ∧
  (∀ s t g scope d i run, issues s t g [] d i run → scope ≤ 3 →
    exec (.fence t g scope) s = after s (advanced (if scope = 3 then cleanTileLocal d i.t else d) i run))

/-- Matrix instructions (R178 to R183): with readable operands and every lane of the mask at it, an EASEL.HOLD or
EASEL.MMA that passes the checks of R182 takes the fields of its operands and its lanes wait for it; EASEL.WAIT goes
on when nothing of its group is left in the easel, and waits otherwise. -/
def Obligations.MatrixInstructions : Prop :=
  (∀ s t g a d i run, issues s t g [] d i run →
    readable i [a.bank, a.fmt, a.rows, a.src, a.srcPitch, a.srcScale] [i.low] → laneMask i.lanes = a.mask →
    let op := { blankOp d i true with
      bank := val i a.bank, fmt := val i a.fmt, rows := val i a.rows, src := val i a.src, pitch := val i a.srcPitch,
      scale := val i a.srcScale }
    opFault d i op true = none → exec (.easelHold t g a) s = after s (stayed (dispatchOp d i op) i run)) ∧
  (∀ s t g a d i run, issues s t g [] d i run →
    readable i [a.bank, a.fmt, a.m, a.feedMode, a.feed, a.feedStep, a.streamNo, a.first, a.col, a.feedScale, a.acc,
      a.accMode, a.outMode, a.out, a.outPitch, a.outFmt, a.round] [i.low] → laneMask i.lanes = a.mask →
    val i a.feedMode ≤ 1 → val i a.accMode ≤ 1 → val i a.outMode ≤ 1 →
    let op := { blankOp d i false with
      bank := val i a.bank, fmt := val i a.fmt, rows := val i a.m, gather := val i a.feedMode == 1, src := val i a.feed,
      pitch := val i a.feedStep, stream := val i a.streamNo, entries := batchEntries d i (val i a.streamNo),
      first := val i a.first, col := val i a.col, scale := val i a.feedScale, acc := val i a.acc,
      accMode := val i a.accMode == 1, outMode := val i a.outMode == 1, out := val i a.out,
      outPitch := val i a.outPitch, outFmt := val i a.outFmt, round := val i a.round }
    opFault d i op true = none → exec (.easelMma t g a) s = after s (stayed (dispatchOp d i op) i run)) ∧
  (∀ s t g d i run, issues s t g [] d i run →
    exec (.easelWait t g) s =
      if easelBusy (easelOf d i.t) i.g (easelOf d i.t).nextId = true
      then after s (stayed (blocked d i (.easelWait (easelOf d i.t).nextId)) i run) else after s (advanced d i run))

/-- The easel's queue, loads, feeds, writes and reloads (R178, R183 to R185, R188, R191): the instruction that
dispatched first enters a free entry; the head begins when nothing makes it wait; a load or feed that meets no poison
retires its instruction, and nothing begins or feeds once a switch has stopped issue (R190); the oldest chain is
written once nothing that joins it is left; bank 0 reloads first. The current keeper (R198, R200): a gap begins only
with no product in flight, and takes EASEL_KEEP as it then stands; with KEEP_GAP 0 one dummy row is counted and the
ramp down begins at level 7, else dummy rows are fed until the gap has run; each ramp step moves the level by one, to
idle at 0 and to run at 8. -/
def Obligations.EaselAndKeeper : Prop :=
  ((∀ s t op p k, runs s → (easelOf s.dev t).queue.find? (fun q => !q.queued) = some op →
    queueLength (easelOf s.dev t) < 8 → pairInfo op.fmt = some p → (tileOf s.dev t).cur = some k →
    exec (.easelEnterQueue t) s = after s (
      if op.hold then modSeat (modEasel s.dev t fun e =>
        { e with queue := lmod (fun q => q.id == op.id) (fun q => { q with queued := true }) e.queue }) t k
          fun x => enterHold x p op
      else modEasel s.dev t fun e => enterMma e p op)) ∧
  (∀ s t op p, runs s → (easelOf s.dev t).queue.find? (fun q => q.queued && !q.begun) = some op →
    pairInfo op.fmt = some p → mayBegin (easelOf s.dev t) p op = true →
    (op.hold = false → bankBad (easelOf s.dev t) op.bank = false) → (tileOf s.dev t).sw ≠ .draining →
    let d := modEasel s.dev t fun e =>
      { e with queue := lmod (fun q => q.id == op.id) (fun q => { q with begun := true }) e.queue }
    exec (.easelBegin t) s = after s (if op.hold then d else keeperReady d t)) ∧
  (∀ s t op d, runs s → (easelOf s.dev t).queue.find? (fun q => q.hold && q.begun) = some op →
    finishHold s.dev t op = (d, true) → exec (.holdLoaded t) s = after s d) ∧
  (∀ s t op d, runs s → (easelOf s.dev t).queue.find? (fun q => !q.hold && feeding (easelOf s.dev t) q) = some op →
    finishMma s.dev t op = (d, true) → (tileOf s.dev t).sw ≠ .draining → exec (.mmaFed t) s = after s d) ∧
  (∀ s t, runs s → (tileOf s.dev t).sw = .draining →
    (∀ q ∈ (easelOf s.dev t).queue, (pairInfo q.fmt).isSome) →
    exec (.easelBegin t) s = after s s.dev ∧ exec (.mmaFed t) s = after s s.dev) ∧
  (∀ s t ch, runs s → (easelOf s.dev t).chains.head? = some ch → ch.started = true →
    chainPending (easelOf s.dev t) ch = false → exec (.chainWrite t) s = after s (writeChain s.dev t ch)) ∧
  (∀ s t h, runs s → (easelOf s.dev t).reload0 = some h →
    exec (.holdReloadDone t 0) s = after s (modEasel (reloadBank s.dev t 0 h) t fun e => { e with reload0 := none })) ∧
  (∀ s t h b, runs s → (easelOf s.dev t).reload0 = none → (easelOf s.dev t).reload1 = some h → b ≠ 0 →
    exec (.holdReloadDone t b) s = after s (modEasel (reloadBank s.dev t 1 h) t fun e => { e with reload1 := none }))) ∧
  ((∀ s t, runs s → (easelOf s.dev t).keeper = .run → (∀ q ∈ (easelOf s.dev t).queue, q.hold = false → q.begun = false) →
    let d := modEasel s.dev t fun e =>
      { e with gap := regField s.dev .easelKeep [t] 9 0, step := regField s.dev .easelKeep [t] 31 24 }
    exec (.keeperGapBegin t) s = after s (if regField s.dev .easelKeep [t] 9 0 = 0
      then modEasel (countKept d t 1 0) t fun e => { e with keeper := .rampDown, level := 7 }
      else modEasel d t fun e => { e with keeper := .keep, level := 8 })) ∧
  (∀ s t, runs s → (easelOf s.dev t).keeper = .keep →
    exec (.keepGapExpires t) s =
      after s (modEasel (countKept s.dev t (easelOf s.dev t).gap 0) t fun e => { e with keeper := .rampDown, level := 7 })) ∧
  (∀ s t, runs s → (easelOf s.dev t).keeper = .rampDown →
    exec (.rampStepElapses t) s = after s (modEasel (countKept s.dev t (easelOf s.dev t).step 0) t fun e =>
      { e with level := e.level - 1, keeper := if e.level ≤ 1 then .idle else .rampDown })) ∧
  (∀ s t, runs s → (easelOf s.dev t).keeper = .rampUp →
    exec (.rampStepElapses t) s = after s (modEasel (countKept s.dev t (easelOf s.dev t).step (easelOf s.dev t).step) t fun e =>
      { e with level := e.level + 1, keeper := if e.level + 1 ≥ 8 then .run else .rampUp })))

/-- Conversions of registers (R221 to R223, R230, R233): CVT converts one element per lane, VCVT a vector register,
with the rounding asked for, counting what saturates or loses a NaN. Packing and unpacking (R205, R226, R230): 128
elements lie contiguous, element 0 lowest; block scaling writes 128 elements and four scale bytes, and reads them
back; a range must lie in the stage's region at its alignment. -/
def Obligations.Conversions : Prop :=
  ((∀ s t g dst src srcFmt dstFmt round sat d i run, issues s t g [] d i run → dst < 64 → src < 64 →
    cvtFmt srcFmt = true → cvtFmt dstFmt = true → round ≤ 2 → consumed i [.reg src] i.lanes = none →
    roundFault i round = none →
    let r := convertLanes d i src srcFmt dstFmt round sat
    exec (.cvt t g dst src srcFmt dstFmt round sat) s =
      after s (advanced (writeLanes r.1 i (.reg dst) (List.zipWith (fun l c => (l, c.x, false)) i.lanes r.2)) i run)) ∧
  (∀ s t g vdst vsrc srcFmt dstFmt round sat d i run, issues s t g [] d i run → vdst < 16 → vsrc < 16 →
    cvtFmt srcFmt = true → cvtFmt dstFmt = true → round ≤ 2 → vConsumed i.seat.ctx vsrc = none →
    roundFault i round = none →
    let r := convertV d i vsrc srcFmt dstFmt round sat
    exec (.vcvt t g vdst vsrc srcFmt dstFmt round sat) s =
      after s (advanced (setV r.1 i vdst (r.2.map (·.x))) i run))) ∧
  ((∀ s t g addr vsrc dstFmt round sat d i run, issues s t g [] d i run → readable i [addr] [i.low] → vsrc < 16 →
    cvtFmt dstFmt = true → round ≤ 2 → vConsumed i.seat.ctx vsrc = none → roundFault i round = none →
    val i addr % 32 = 0 → sbOk i.seat (val i addr) (packedBytes dstFmt) = true →
    let r := convertV d i vsrc 1 dstFmt round sat
    exec (.vcvtPack t g addr vsrc dstFmt round sat) s =
      after s (advanced (sbWrite r.1 i.t (val i addr)
        (leBytes (packedBytes dstFmt) (packElems (fmtWidth dstFmt) (r.2.map (·.x)))) false) i run)) ∧
  (∀ s t g vdst addr srcFmt d i run, issues s t g [] d i run → readable i [addr] [i.low] → vdst < 16 →
    1 ≤ srcFmt → srcFmt ≤ 0x0F →
    val i addr % (if srcFmt = 0x0E || srcFmt = 0x0F then 16 else 32) = 0 →
    sbOk i.seat (val i addr) (packedBytes srcFmt) = true →
    let r := sbRead d i.t (val i addr) (packedBytes srcFmt)
    r.2.2 = false →
    exec (.vcvtUnpack t g vdst addr srcFmt) s =
      after s (advanced (setV r.1 i vdst ((List.range 128).map fun l =>
        (fp32Round (elemVal srcFmt (packedElem (leNat r.2.1) (fmtWidth srcFmt) l))).toNat)) i run)) ∧
  (∀ s t g elemAddr scaleAddr vsrc fmt round d i run, issues s t g [] d i run →
    readable i [elemAddr, scaleAddr] [i.low] → vsrc < 16 → mxFmt fmt = true → round ≤ 2 →
    vConsumed i.seat.ctx vsrc = none → roundFault i round = none →
    val i elemAddr % 32 = 0 → sbOk i.seat (val i elemAddr) (packedBytes fmt) = true →
    val i scaleAddr % 4 = 0 → sbOk i.seat (val i scaleAddr) 4 = true →
    let r := vroundings d i round
    let blocks := List.zipWith (mxBlock fmt) (pieces 32 ((vals i.seat.ctx vsrc).map (elemVal 1))) (pieces 32 r.2)
    let cs := blocks.flatMap fun b => b.2.1
    let d1 := countArith r.1 i.t (sumSat cs) ((blocks.map fun b => b.2.2).foldl (· + ·) 0) 0
    let d2 := sbWrite d1 i.t (val i elemAddr) (leBytes (packedBytes fmt) (packElems (fmtWidth fmt) (cs.map (·.x)))) false
    exec (.vcvtMx t g elemAddr scaleAddr vsrc fmt round) s =
      after s (advanced (sbWrite d2 i.t (val i scaleAddr) (blocks.map fun b => BitVec.ofNat 8 b.1) false) i run)) ∧
  (∀ s t g vdst elemAddr scaleAddr fmt d i run, issues s t g [] d i run →
    readable i [elemAddr, scaleAddr] [i.low] → vdst < 16 → mxFmt fmt = true →
    val i elemAddr % 32 = 0 → sbOk i.seat (val i elemAddr) (packedBytes fmt) = true →
    val i scaleAddr % 4 = 0 → sbOk i.seat (val i scaleAddr) 4 = true →
    let es := sbRead d i.t (val i elemAddr) (packedBytes fmt)
    let xs := sbRead es.1 i.t (val i scaleAddr) 4
    es.2.2 = false → xs.2.2 = false →
    exec (.vcvtUnmx t g vdst elemAddr scaleAddr fmt) s =
      after s (advanced (setV xs.1 i vdst ((List.range 128).map fun l =>
        (mxVal fmt (leAt xs.2.1 (l / 32) 1) (packedElem (leNat es.2.1) (fmtWidth fmt) l)).toNat)) i run)))

/-- Draws (R239, R240, R244, R247, R248): with a seed pair in stage registers and an element below 2⁴⁸, RAND draws
one element per lane and the vector forms one per vector lane; RAND.JUMP jumps one generator or all 128; RAND.PSEED
seeds all from the seed and the tile's number. Categorical draws and sampling (R251, R252, R254): the weights or
logits are read from the stage buffer; the index chosen, or 0xFFFFFFFF where nothing can be, is written to the
destination in every lane. -/
def Obligations.Draws : Prop :=
  ((∀ s t g dst seed tkey index c mode d i run, issues s t g [] d i run → dst < 64 → mode ≤ 1 → seedOk seed = true →
    readable i (seedOpnds seed ++ [tkey, index, c]) i.lanes →
    (∀ l ∈ i.lanes, baseOk (opndVal i l index).val = true ∧ 1 ≤ (opndVal i l c).val ∧ (opndVal i l c).val ≤ 32) →
    let draw (acc : Dev × List (Nat × Nat × Bool)) (l : Nat) : Dev × List (Nat × Nat × Bool) :=
      let k := keying i seed (opndVal i l tkey).val (opndVal i l index).val mode
      let r := drawBits (tileOf acc.1 i.t) k (opndVal i l c).val [(32 * (i.g % 4) + l, k.base)]
      (putTile acc.1 i.t r.1, acc.2 ++ [(l, r.2.headD 0, false)])
    let r := i.lanes.foldl draw (d, [])
    exec (.rand t g dst seed tkey index c mode) s = after s (advanced (writeLanes r.1 i (.reg dst) r.2) i run)) ∧
  (∀ s t g gen d i run, issues s t g [] d i run → readable i [gen] [i.low] → (val i gen ≤ 127 ∨ val i gen = 255) →
    let jump (tl : Tile) (k : Nat) : Tile := { tl with gens := tput tl.gens k (genJump (genOf tl k)) }
    exec (.randJump t g gen) s =
      after s (advanced (modTile d i.t fun tl => if val i gen = 255 then (List.range 128).foldl jump tl
        else jump tl (val i gen)) i run)) ∧
  (∀ s t g seed d i run, issues s t g [] d i run → seedOk seed = true → consumed i (seedOpnds seed) [i.low] = none →
    exec (.randPseed t g seed) s =
      after s (advanced (modTile d i.t fun tl =>
        { tl with gens := seedGens (keying i seed 0 0 0).lo (keying i seed 0 0 0).hi i.t }) i run)) ∧
  (∀ s t g vdst seed tkey base c mode d i run, issues s t g [] d i run → vdst < 16 → mode ≤ 1 → seedOk seed = true →
    readable i (seedOpnds seed ++ [tkey, base, c]) [i.low] →
    baseOk (val i base) = true → 1 ≤ val i c → val i c ≤ 32 →
    let r := vdraws d i (keying i seed (val i tkey) (val i base) mode) (val i c)
    exec (.vrandBits t g vdst seed tkey base c mode) s = after s (advanced (setV r.1 i vdst r.2) i run)) ∧
  (∀ s t g vdst seed tkey base mode d i run, issues s t g [] d i run → vdst < 16 → mode ≤ 1 → seedOk seed = true →
    readable i (seedOpnds seed ++ [tkey, base]) [i.low] → baseOk (val i base) = true →
    let r := vdraws d i (keying i seed (val i tkey) (val i base) mode) 24
    exec (.vrandUnif t g vdst seed tkey base mode) s =
      after s (advanced (setV r.1 i vdst (r.2.map fun r => (unif r).toNat)) i run)) ∧
  (∀ s t g addr p seed tkey base mode d i run q, issues s t g [] d i run → mode ≤ 1 → seedOk seed = true →
    readable i (seedOpnds seed ++ [addr, p, tkey, base]) [i.low] → bernQ (w32 (val i p)) = some q →
    baseOk (val i base) = true → val i addr % 16 = 0 → sbOk i.seat (val i addr) 16 = true →
    let r := vdraws d i (keying i seed (val i tkey) (val i base) mode) 24
    exec (.vrandBern t g addr p seed tkey base mode) s =
      after s (advanced (sbWrite r.1 i.t (val i addr)
        (leBytes 16 (ofBitList ((List.range 128).filter fun l => decide (r.2.getD l 0 < q)))) false) i run))) ∧
  ((∀ s t g dst addr n seed tkey base mode d i run, issues s t g [] d i run → dst < 64 → mode ≤ 1 → seedOk seed = true →
    readable i (seedOpnds seed ++ [addr, n, tkey, base]) [i.low] → baseOk (val i base) = true →
    1 ≤ val i n → val i n ≤ 65536 → val i addr % 4 = 0 → sbOk i.seat (val i addr) (4 * val i n) = true →
    let r := sbRead d i.t (val i addr) (4 * val i n)
    r.2.2 = false →
    exec (.vrandCat t g dst addr n seed tkey base mode) s = after s (advanced
      (writeCat r.1 i dst (keying i seed (val i tkey) (val i base) mode) (weightsOf r.2.1)) i run)) ∧
  (∀ s t g dst addr n invT topk topp greedy seed tkey base mode d i run, issues s t g [] d i run → dst < 64 → mode ≤ 1 →
    seedOk seed = true → readable i (seedOpnds seed ++ [addr, n, invT, topk, topp, tkey, base]) [i.low] →
    baseOk (val i base) = true → 1 ≤ val i n → val i n ≤ 65536 →
    sampleOk (val i invT) (val i topk) (w32 (val i topp)) = true →
    val i addr % 4 = 0 → sbOk i.seat (val i addr) (4 * val i n) = true →
    let r := sbRead d i.t (val i addr) (4 * val i n)
    r.2.2 = false →
    let xs := scaledLogits r.2.1 (w32 (val i invT))
    exec (.vsample t g dst addr n invT topk topp greedy seed tkey base mode) s =
      after s (advanced (writeSample (countRand r.1 i.t (nanCount xs) 0) i dst
        (keying i seed (val i tkey) (val i base) mode) greedy (candidates xs (val i topk) (w32 (val i topp)))) i run)))

/-- The entropy source (R234 to R238): 1,024 raw bits that pass the health tests give 256 until the pool holds 4,096;
a run of 41 identical bits, or 640 that equal the window's first, fails the tests; a failed health test fails the
source, empties the pool and answers every waiting read with an error response; a restart starts the start-up test
again unless the failure is latched; a read of ENTROPY_DATA takes 64 bits, or waits for them. -/
def Obligations.EntropySource : Prop :=
  (∀ s raw, runs s → entropyRuns s.dev = true → s.dev.entropy.pool.length < 512 →
    (healthTest s.dev.entropy raw).2 = true →
    exec (.entropyCondition raw) s = after s (modEntropy s.dev fun e =>
      { e with runBit := (healthTest s.dev.entropy raw).1.1, runLen := (healthTest s.dev.entropy raw).1.2,
               pool := (e.pool ++ shake256 (fitBytes 128 raw) 32).take 512 })) ∧
  (∀ s raw, runs s → entropyTests s.dev = true → (healthTest s.dev.entropy raw).2 = false →
    exec (.entropyCondition raw) s = after s (s.dev.entropy.waiting.foldl entropyError (logErr (modEntropy s.dev fun e =>
      { e with runBit := (healthTest s.dev.entropy raw).1.1, runLen := (healthTest s.dev.entropy raw).1.2,
               failed := true, pool := [], fails := min (e.fails + 1) (2 ^ 32 - 1),
               latched := e.latched || decide (e.fails + 1 ≥ 3), startup := false, restart := false, waiting := [] })
      stEntropyFail ukStem 0 3))) ∧
  (∀ e raw pre b post, rawBits (fitBytes 128 raw) = pre ++ List.replicate 41 b ++ post → (healthTest e raw).2 = false) ∧
  (∀ e raw b t, rawBits (fitBytes 128 raw) = b :: t → (b :: t).countP (· == b) ≥ 640 → (healthTest e raw).2 = false) ∧
  (∀ s b, runs s → blkServes s.dev blkEntropy = true → s.dev.entropy.startup = b →
    (b = false → s.dev.entropy.failed = false) →
    exec (.entropyHealthFail b) s = after s (s.dev.entropy.waiting.foldl entropyError (logErr (modEntropy s.dev fun e =>
      { e with failed := true, pool := [], fails := min (e.fails + 1) (2 ^ 32 - 1),
               latched := e.latched || decide (e.fails + 1 ≥ 3), startup := false, restart := false, waiting := [] })
      stEntropyFail ukStem 0 3))) ∧
  (∀ s r off bytes v t, runs s → writable s.dev off bytes v t [] → off / 8 * 8 = regOff .entropyStatus [] →
    bitAt (accessValue off bytes v) 3 = true → s.dev.entropy.latched = false →
    exec (.entropyRestart r off bytes v) s =
      after s (modEntropy s.dev fun e => { e with restart := true, startup := true, runLen := 0 })) ∧
  (∀ s, runs s → blkServes s.dev blkEntropy = true → s.dev.entropy.startup = true →
    exec .entropyStartupDone s =
      after s (modEntropy s.dev fun e => { e with startup := false, restart := false, failed := false, runLen := 0 })) ∧
  (∀ s r off bytes t, runs s → readableAt s.dev off bytes t [] → off / 8 * 8 = regOff .entropyData [] →
    s.dev.entropy.failed = false →
    exec (.entropyDataRead r off bytes) s =
      after s (if s.dev.entropy.waiting = [] ∧ entropyGives s.dev = true then entropyTake s.dev r
        else modEntropy s.dev fun e => { e with waiting := e.waiting ++ [r] })) ∧
  (∀ s r rest, runs s → s.dev.entropy.waiting = r :: rest → entropyGives s.dev = true →
    exec .entropyDataDelivered s = after s (entropyTake (modEntropy s.dev fun e => { e with waiting := rest }) r))

/-- Starting transfers (R269 to R276, R280, R281): MOVE.START, the MOVER record and MOVER_SUBMIT take a command that
passes the checks of R274 into the queue of their mover, each answering ST_OK where it looks for its answer; a write
of MOVER_SUBMIT whose command read must wait for the host (R314) is taken up again and counts when it is checked. The
life of a transfer (R268, R276, R278): the oldest queued one takes the lowest free place, one to or from a peer
sending at once; at its end the rest of its elements move, and it completes when all have and nothing is unanswered;
an error ends it after the elements before it, and it completes with that status once its accesses are done; a
reserved transfer joins the queue when its cue fires. -/
def Obligations.Transfers : Prop :=
  ((∀ s t g dst addr space mover d i run c, issues s t g [] d i run → dst < 64 →
    readable i [addr, space, mover] [i.low] → val i space % 2 = 0 → val i addr % 64 = 0 →
    sbOk i.seat (val i addr) 512 = true → val i mover ≤ 7 → blkAccepts d (blkMover (val i mover)) = true →
    let r := sbRead d i.t (val i addr) 512
    checkMover r.1 (val i mover) r.2.1 (some (tilesOf r.1 i.cv)) = .ok c →
    exec (.moveStart t g dst addr space mover) s =
      after s (advanced (writeAll (addXfer r.1 (val i mover) .queued { c with hue := i.stage.hue } (.stage i.cv)).1 i
        (.reg dst) stOk.toNat) i run)) ∧
  (∀ s t g dst addr space mover d i run d2 c, issues s t g [] d i run → dst < 64 →
    readable i [addr, space, mover] [i.low] → val i space % 2 = 1 → val i mover ≤ 7 →
    fetchMover d (val i mover) (val i addr) (some (tilesOf d i.cv)) = (d2, some (.ok c)) →
    exec (.moveStart t g dst addr space mover) s =
      after s (advanced (writeAll (addXfer d2 (val i mover) .queued { c with hue := i.stage.hue } (.stage i.cv)).1 i
        (.reg dst) stOk.toNat) i run)) ∧
  (∀ s w d1 op h d2 c, runs s → accepted s.dev w 0x10 d1 op h →
    fetchMover d1 (argOf s.dev w 1) (argOf s.dev w 0) none = (d2, some (.ok c)) →
    exec (.mover w) s =
      after s (receipted (setOpHue (addXfer d2 (argOf s.dev w 1) .queued c (.op op)).1 (some op) c.hue) w 0x10 h)) ∧
  (∀ s r rind bytes v t ix d2 c, runs s → writable s.dev (regOff .moverSubmit [rind % 8]) bytes v t ix →
    fetchMover s.dev (rind % 8) (bits (accessValue (regOff .moverSubmit [rind % 8]) bytes v) 47 0) none =
      (d2, some (.ok c)) →
    exec (.moverSubmit r rind bytes v) s =
      after s (moverReceipt (addXfer d2 (rind % 8) .queued c .firmware).1 (rind % 8) stOk)) ∧
  (∀ s r rind bytes v t ix d2, runs s → writable s.dev (regOff .moverSubmit [rind % 8]) bytes v t ix →
    let a := accessValue (regOff .moverSubmit [rind % 8]) bytes v
    fetchMover s.dev (rind % 8) (bits a 47 0) none = (d2, none) →
    exec (.moverSubmit r rind bytes v) s = after s (waitFor d2 (.moverSubmit r (rind % 8) 8 (BitVec.ofNat 64 a))))) ∧
  ((∀ s rind x p, runs s → blkOn s.dev (blkMover rind) = true → s.dev.creset.active = false →
    s.dev.xfers.find? (fun x => x.rind == rind && x.st == .queued) = some x → freePlace s.dev rind = some p →
    let y := { x with st := .active, place := p }
    let d := startNexts (modXfer s.dev x.id fun _ => y) rind
    exec (.transferActivate rind) s = after s (if x.cmd.peerSide = 0 then d else walkXfer d y (elemCount x.cmd))) ∧
  (∀ s rind place x y, runs s → activeAt s.dev rind place = some x → x.st = .active → s.dev.creset.active = false →
    let d := walkXfer s.dev x (elemCount x.cmd)
    activeAt d rind place = some y →
    exec (.transferDone rind place) s = after s (
      if y.st = .active ∧ elemCount y.cmd ≤ y.moved ∧ y.waiting = 0 ∧ fetched d y.cmd = true then endXfer d y stOk else d)) ∧
  (∀ s rind place elems x cause st, runs s → activeAt s.dev rind place = some x → x.st = .active →
    s.dev.creset.active = false → causeStatus x cause = some st →
    exec (.transferError rind place elems cause) s = after s (failXfer (walkXfer s.dev x elems) x.id st)) ∧
  (∀ s rind place elems x, runs s → activeAt s.dev rind place = some x → x.st = .active → s.dev.creset.active = false →
    exec (.transferError rind place elems .unbacked) s = after s (walkXfer s.dev x (elemCount x.cmd))) ∧
  (∀ s rind place x, runs s → activeAt s.dev rind place = some x → x.st = .failing → x.waiting = 0 →
    (s.dev.creset.active = false ∨ x.status = stMoverAborted) →
    exec (.transferFailed rind place) s = after s (endXfer s.dev x x.status)) ∧
  (∀ s r c id, runs s → nextCue s.dev (.rind r) = some c → c.action = actMoverStart → c.xfer = some id →
    blkOn s.dev (blkMover r) = true →
    exec (.moverStartFires r) s = after s (queueReserved (takeCue s.dev c) id)))

/-- Canvas commands (R74 to R77, R627): a load whose image passes every check reserves its canvas and completes
later; one whose image fails a check completes at once with that check's status; a start arms a LOADED or STOPPED
canvas at T0, 2 µs from now where none is given; a stop drains a RUNNING canvas; an unload begins from LOADED,
STOPPED or FAULTED. Canvas events (R64, R75, R76, R142, R279): a load completes with every tile's block on, its
regions zero, its streams empty; issue begins at T0; a drained canvas is STOPPED once every tile has left its seat;
an unload completes once its stages' transfers are done. -/
def Obligations.CanvasLife : Prop :=
  ((∀ s w d1 op h d2 l, runs s → accepted s.dev w 0x01 d1 op h →
    backed d1 (argOf s.dev w 0) (argOf s.dev w 1) = true →
    readWhole (withHue d1 (coreHue d1)) (.core 0) (argOf s.dev w 0) (argOf s.dev w 1) = (d2, some (l, false)) →
    (∀ d3 n, loadCanvas d2 l (argOf s.dev w 1) (some op) = .ok (d3, n) →
      exec (.canvasLoad w) s = after s (receipted d3 w 0x01 h)) ∧
    (∀ st, loadCanvas d2 l (argOf s.dev w 1) (some op) = .error st →
      exec (.canvasLoad w) s = after s (receipted (complete d2 op st) w 0x01 h))) ∧
  (∀ s w d1 op h c, runs s → accepted s.dev w 0x02 d1 op h → canvasOf d1 (argOf s.dev w 0) = some c →
    svcOwned w c = false → (c.st = .loaded ∨ c.st = .stopped) → c.unloading = false →
    (argOf s.dev w 1 = 0 ∨ d1.tb.now + 4000 ≤ argOf s.dev w 1) →
    exec (.canvasStart w) s = after s (receipted (armCanvas d1 (argOf s.dev w 0)
      (if argOf s.dev w 1 = 0 then d1.tb.now + 4000 else argOf s.dev w 1) (some op)) w 0x02 h)) ∧
  (∀ s w d1 op h c, runs s → accepted s.dev w 0x03 d1 op h → canvasOf d1 (argOf s.dev w 0) = some c →
    svcOwned w c = false → c.st = .running →
    exec (.canvasStop w) s = after s (receipted (beginDrain (modCanvas d1 (argOf s.dev w 0) fun c =>
      { c with stopOp := some op }) (argOf s.dev w 0)) w 0x03 h)) ∧
  (∀ s w d1 op h c, runs s → accepted s.dev w 0x04 d1 op h → canvasOf d1 (argOf s.dev w 0) = some c →
    svcOwned w c = false → (c.st = .loaded ∨ c.st = .stopped ∨ c.st = .faulted) → c.unloading = false →
    exec (.canvasUnload w) s = after s (receipted (beginUnload d1 (argOf s.dev w 0) (some op)) w 0x04 h))) ∧
  ((∀ s n c, runs s → canvasOf s.dev n = some c → c.st = .loading → s.dev.creset.active = false →
    (∀ t ∈ tilesOf s.dev n, blkOn s.dev (quadOf t) = true) →
    exec (.canvasLoadComplete n) s = after s (moveSvcs (completeOpt (modCanvas (layCanvas s.dev n c) n fun c =>
      { c with st := .loaded, loadOp := none }) c.loadOp stOk n))) ∧
  (∀ s n c, runs s → canvasOf s.dev n = some c → c.st = .armed → c.t0 ≤ s.dev.tb.now → s.dev.creset.active = false →
    exec (.canvasBeginIssue n) s = after s (moveSvcs (modCanvas s.dev n fun c => { c with st := .running }))) ∧
  (∀ s n c, runs s → canvasOf s.dev n = some c → c.st = .draining → s.dev.creset.active = false →
    (∀ t ∈ tilesOf s.dev n, hasLeft s.dev t = true) →
    exec (.canvasDrained n) s = after s (moveSvcs (modCanvas
      (completeOpt (completeOpt s.dev c.stopOp stOk) c.startOp stOk) n fun c =>
        { c with st := .stopped, startOp := none, stopOp := none }))) ∧
  (∀ s n c, runs s → canvasOf s.dev n = some c → c.unloading = true → s.dev.creset.active = false →
    (∀ x ∈ s.dev.xfers, x.origin ≠ .stage n) →
    exec (.canvasUnloadComplete n) s =
      after s (moveSvcs (forgetCanvas (completeOpt (freeCanvas s.dev n c) c.unloadOp stOk)))))

/-- The start of a sitting switch (R77, R79, R83): a due rotation cue fires and, at a seated seat, asks for the
switch, which waits for MIN_SEAT; once MIN_SEAT has elapsed a waiting switch begins; a switch that waits for a
boundary drains mid-step when the yield window ends; LEAD ticks before the due time, of the canvas running or armed,
the movers begin to read the cold segments of the coming seat and the tile's slice the lines of its spilled context
(R84, R86). Save and restore (R79 to R82, R86, R145, R190, R191): at the switch point the seat's context is saved,
its swapped region with it; once it is stored the saved seat is parked and the next restored, or none when the canvas
leaves; a restore of an image that its storage gives back unchanged puts the swapped region back and lets the seat
issue; one of an image that fails a check of R146 faults the canvas with the status of that check. A save of a tile
whose slice has no vertical port left is lost, and the canvas faults with ST_CRC_FINAL (R550). -/
def Obligations.Switches : Prop :=
  ((∀ s t n c, runs s → (tileOf s.dev t).canvas = some n → canvasOf s.dev n = some c → c.st = .running →
    (tileOf s.dev t).rotArmed = true → (tileOf s.dev t).nextDue ≤ unitNow s.dev (.tile t) →
    stageCueFirst s.dev t (tileOf s.dev t).nextDue = false →
    let d := modTile (noteFire s.dev (rotationCue t (tileOf s.dev t))) t fun x =>
      { x with rotArmed := false, pendingSw := [((tileOf s.dev t).nextOrder, (tileOf s.dev t).nextDue)] }
    exec (.sittingSwitch t) s = after s (
      if (curSeat d t).any (fun k => k.2.st == .seated) && (tileOf s.dev t).sw == .none then askSwitch d t else d)) ∧
  (∀ s t k st, runs s → curSeat s.dev t = some (k, st) → st.st = .seated → canvasIssues s.dev t = true →
    (tileOf s.dev t).minDone = false →
    let d := modTile s.dev t fun tl => { tl with minDone := true }
    exec (.minSeatElapsed t) s = after s (if (tileOf s.dev t).sw = .waitMinSeat then beginSwitch d t else d)) ∧
  (∀ s t, runs s → (tileOf s.dev t).sw = .waitYield →
    exec (.yieldWindowExpires t) s = after s (modTile (withdrawRow s.dev t) t fun tl => { tl with sw := .draining })) ∧
  (∀ s t order st n c due, runs s → tfind (tileOf s.dev t).seats order = some st → (tileOf s.dev t).canvas = some n →
    canvasOf s.dev n = some c → (c.st = .running ∨ c.st = .armed) → st.st = .parked → st.prefetched = false →
    comingDue (tileOf s.dev t) c.period order = some due → due ≤ unitNow s.dev (.tile t) + st.lead →
    let d := (c.segments.filter fun g => g.stage == st.stage && g.place == 2).foldl prefetchSegment
      (withHue (modSeat s.dev t order fun x => { x with prefetched := true }) (stageOf c st.stage).hue)
    exec (.seatPrefetchStart t order) s = after s (fetchSpilled d c t st))) ∧
  ((∀ s t k st, runs s → curSeat s.dev t = some (k, st) → (tileOf s.dev t).sw = .draining → st.st = .seated →
    let mid := !(tileOf s.dev t).atBoundary
    let d := sbScrub (dropHeld (cutEasel s.dev t) st) t (st.swapBase * 1024) (st.swapSize * 1024)
    let d := grantSeat d t st mid
    let swap := memSlice (tileOf d t).sb (st.swapBase * 1024) (st.swapSize * 1024)
    exec (.switchPoint t) s = after s (modTile (modSeat (modCtx d t k fun c => savedCtx d.tb.now mid swap c) t k fun x =>
      { x with st := .saving }) t fun tl => { tl with sw := .saving, atBoundary := false })) ∧
  (∀ s t k st cv d1, runs s → curSeat s.dev t = some (k, st) → (tileOf s.dev t).sw = .saving → st.st = .saving →
    cutOff s.dev t = false → canvasOf s.dev st.canvas = some cv →
    storeImage s.dev cv t { st with saved := none } = (d1, true) →
    let d := modSeat d1 t k fun x => { x with st := .parked, saved := none }
    (∀ o due more, (tileOf d t).leaving = false → (tileOf d t).pendingSw = (o, due) :: more →
      exec (.saveDone t) s = after s (beginRestore d t o)) ∧
    ((tileOf d t).leaving = true ∨ (tileOf d t).pendingSw = [] →
      exec (.saveDone t) s = after s (modTile d t fun tl => { tl with sw := .none, leaving := false, pendingSw := [] })))
  ∧ (∀ s t k st, runs s → curSeat s.dev t = some (k, st) → (tileOf s.dev t).sw = .saving → st.st = .saving →
    cutOff s.dev t = true →
    exec (.saveDone t) s = after s (stageFault (loseCut s.dev t 2 0) t 0 stCrcFinal 0 0))
  ∧ (∀ s t k st cv, runs s → curSeat s.dev t = some (k, st) → (tileOf s.dev t).sw = .restoring → st.st = .restoring →
    canvasOf s.dev st.canvas = some cv →
    (seatIntact s.dev t st = true →
      exec (.restoreDone t) s = after s (resumeSeat (restoreSeat s.dev t k st) t k st)) ∧
    (∀ d1 ws d2 ws' d3, seatIntact s.dev t st = false → storedImage s.dev cv t st = (d1, some ws) →
      lostWords d1 t ws = (d2, ws') →
      (∀ x, contextOf d2 cv t st ws' = (d3, .ok x) →
        exec (.restoreDone t) s = after s (resumeSeat (restoreSeat d3 t k { st with ctx := x }) t k st)) ∧
      (∀ f, contextOf d2 cv t st ws' = (d3, .error f) →
        exec (.restoreDone t) s = after s (stageFault d3 t 0 f 0 0)))))

/-- Context images (R142, R146, R189, R448, R455, R456): an export of a parked seat of a LOADED or STOPPED canvas
writes its image at the address given and answers its length, with POISONED set where it carried poison; an import
whose image passes every check replaces the saved context and makes the hold records invalid, and one whose image
fails a check ends with that check's status; a seat of a canvas in another state is refused. -/
def Obligations.ContextCommands : Prop :=
  (∀ s w d1 op h cv t k seat d2, runs s → accepted s.dev w 0x05 d1 op h →
    parkedSeat d1 w (argOf s.dev w 0) = .ok (cv, t, k, seat) →
    let n := ctxBytes (savedOf seat).mid (stageOf cv seat.stage).groups seat.swapSize
    n ≤ argOf s.dev w 2 → backed d1 (argOf s.dev w 1) n = true →
    ∀ d3 img, storedImage d1 cv t seat = (d3, some img) →
    putWords (withHue d3 (coreHue d3)) (.core 0) (argOf s.dev w 1) img = some d2 →
    exec (.contextExport w) s = after s (receipted (complete d2 op stOk n 0 (img.any (·.2))) w 0x05 h)) ∧
  (∀ s w d1 op h cv t k seat d2 hd d3 ws, runs s → accepted s.dev w 0x06 d1 op h →
    parkedSeat d1 w (argOf s.dev w 0) = .ok (cv, t, k, seat) →
    backed d1 (argOf s.dev w 1) 64 = true →
    devReadWords (withHue d1 (coreHue d1)) (.core 0) (argOf s.dev w 1) 64 false = (d2, some hd) →
    checkPrefix 0x0202 (leAt (imgBytes hd) 0 4) = none →
    let n := max 64 (leAt (imgBytes hd) 0x28 4)
    backed d1 (argOf s.dev w 1) n = true →
    devReadWords (withHue d1 (coreHue d1)) (.core 0) (argOf s.dev w 1) (ceilDiv n 8 * 8) false = (d3, some ws) →
    controlPoison ws = false →
    let groups := (stageOf cv seat.stage).groups
    let seat' := { seat with ctx := imgCtx (bits (argOf s.dev w 0) 7 0) seat groups ws, saved := none, hold0 := none,
                             hold1 := none }
    (∀ st, ctxCheck cv seat groups ((imgBytes ws).take n) = some st →
      exec (.contextImport w) s = after s (receipted (complete d3 op st) w 0x06 h)) ∧
    (∀ d4, ctxCheck cv seat groups ((imgBytes ws).take n) = none → storeImage d3 cv t seat' = (d4, true) →
      exec (.contextImport w) s = after s (receipted
        (complete (modSeat d4 t k fun _ => seat') op stOk 0 0 (ws.any (·.2))) w 0x06 h))) ∧
  (∀ d w arg c x, canvasOf d (bits arg 7 0) = some c →
    tfind (tileOf d (bits arg 15 8 + 16 * bits arg 23 16)).seats (bits arg 31 24) = some x → svcOwned w c = false →
    c.st ≠ .loaded → c.st ≠ .stopped → parkedSeat d w arg = .error stCanvasState)

/-- Lock, holdover and correction of the time base (R91 to R96): a time base with a reference locks to it; a lost
reference is holdover, logged once; a returned one is corrected to and ends it; a locked grandmaster slews to a PPS
edge; the end of a slew clears the slewing mark; PPS_OUT rises on a whole second. Registers of the time base (R97,
R99): a whole read of TB_NOW gives the counter; a read of the low half gives it and latches the high half for its
requester; a read of the high half gives what is latched and frees it; a write of TB_CONFIG with an assigned role and
port takes effect, and a change of role begins anew. -/
def Obligations.TimeBase : Prop :=
  ((∀ s ref, runs s → tbRole s.dev ≠ 0 → s.dev.tb.locked1 = false →
    exec (.tbFirstLock ref) s = after s (correctTo s.dev ref.toNat)) ∧
  (∀ s, runs s → tbRole s.dev ≠ 0 → regBit s.dev .tbStatus [] 6 = false →
    exec .referenceLost s = after s (logErr (regSetBit s.dev .tbStatus [] 6) stTbHoldover ukStem 0 3)) ∧
  (∀ s ref, runs s → regBit s.dev .tbStatus [] 6 = true →
    exec (.referenceReturns ref) s = after s (regClearBit (correctTo s.dev ref.toNat) .tbStatus [] 6)) ∧
  (∀ s, runs s → tbRole s.dev = 1 → s.dev.tb.locked1 = true → regBit s.dev .tbStatus [] 6 = false →
    exec .ppsInEdge s = after s (slewBy s.dev (ppsOffset s.dev.tb.now))) ∧
  (∀ s, runs s → s.dev.tb.slew = 0 → regBit s.dev .tbStatus [] 7 = true →
    exec .slewEnd s = after s (regClearBit (putOffset s.dev 0) .tbStatus [] 7)) ∧
  (∀ s, runs s → regBit s.dev .tbConfig [] 3 = true → s.dev.tb.now % secTicks = 0 → s.dev.tb.ppsHigh = false →
    exec .ppsOutPulse s = after s (emit { s.dev with tb := { s.dev.tb with ppsHigh := true } } (.pin "PPS_OUT" true)))) ∧
  ((∀ s r, runs s → exec (.tbNowRead r .full) s =
    after s (emit s.dev (.regRead r (regOff .tbNow []) (BitVec.ofNat 64 (s.dev.tb.now % 2 ^ 64))))) ∧
  (∀ s r, runs s → exec (.tbNowRead r .lo) s =
    after s (emit (setLatch s.dev r (some (BitVec.ofNat 32 (s.dev.tb.now % 2 ^ 64 / 2 ^ 32))))
      (.regRead r (regOff .tbNow []) (BitVec.ofNat 64 (s.dev.tb.now % 2 ^ 64 % 2 ^ 32))))) ∧
  (∀ s r, runs s → exec (.tbNowRead r .hi) s =
    after s (emit (setLatch s.dev r none) (.regRead r (regOff .tbNow [] + 4)
      (BitVec.ofNat 64 ((latchOf s.dev r).elim (s.dev.tb.now % 2 ^ 64 / 2 ^ 32) fun x => x.toNat))))) ∧
  (∀ s r off bytes v t ix, runs s → writable s.dev off bytes v t ix → off / 8 * 8 = regOff .tbConfig [] →
    bits (written s.dev t ix off bytes v) 2 0 < 3 → bits (written s.dev t ix off bytes v) 15 8 < 64 →
    let d := regPut s.dev .tbConfig [] (written s.dev t ix off bytes v)
    exec (.tbConfigWrite r off bytes v) s =
      after s (if bits (written s.dev t ix off bytes v) 2 0 = tbRole s.dev then d
        else setRole d (bits (written s.dev t ix off bytes v) 2 0))))

/-- Cues of the cue port and of commands (R103, R106, R108, R447): CUE_GO arms or cancels the record of the port and
counts its result there; a write with neither or both bits answers ST_CUE_ACTION; the CUE_ARM and CUE_CANCEL records
answer in their receipt; a cue whose DUE is past at arming fires at once, every other waits in its entry; an armed
cue that does not fire next is freed by its cancelling. Cues that fire (R102, R105, R107, R425, R507): the next due
cue of a tile adds to its release line where its stage is seated, and waits pending otherwise; one of a rind die
opens its collective entry; the stem's samples telemetry where the sampler is on. -/
def Obligations.Cues : Prop :=
  ((∀ s r bytes v t ix d st, runs s → writable s.dev (regOff .cueGo []) bytes v t ix → bitAt v.toNat 0 = true →
    bits (accessValue (regOff .cueGo []) bytes v) 1 0 = 1 → armCue s.dev (portWords s.dev) = (d, some st) →
    exec (.cueGoArm r bytes v) s = after s (putCueResult d st)) ∧
  (∀ s r bytes v t ix, runs s → writable s.dev (regOff .cueGo []) bytes v t ix → bitAt v.toNat 0 = false →
    bits (accessValue (regOff .cueGo []) bytes v) 1 0 = 2 →
    let c := portWords s.dev
    let x := cancelCue s.dev c.kind c.x c.y c.stage c.tag
    exec (.cueGoCancel r bytes v) s = after s (putCueResult x.2 x.1)) ∧
  (∀ s r bytes v t ix, runs s → writable s.dev (regOff .cueGo []) bytes v t ix → bitAt v.toNat 0 = bitAt v.toNat 1 →
    (bits (accessValue (regOff .cueGo []) bytes v) 1 0 = 0 ∨ bits (accessValue (regOff .cueGo []) bytes v) 1 0 = 3) →
    exec (.cueGoCancel r bytes v) s = after s (putCueResult s.dev stCueAction)) ∧
  (∀ s w d, runs s → recordOk s.dev w 0x07 →
    armCue s.dev { w0 := argOf s.dev w 0, w1 := argOf s.dev w 1, w2 := argOf s.dev w 2, w3 := argOf s.dev w 3 } =
      (d, some stOk) →
    exec (.cueArm w) s = after s (receipted d w 0x07 0)) ∧
  (∀ s w d, runs s → recordOk s.dev w 0x08 →
    let a := argOf s.dev w 0
    cancelCue s.dev (bits a 7 0) (bits a 15 8) (bits a 23 16) (bits a 63 48) (bits a 47 32) = (stOk, d) →
    exec (.cueCancel w) s = after s (receipted d w 0x08 0)) ∧
  (∀ d c u, cueChecks d c = .ok u → c.action ≠ actMoverStart →
    let q := cueOf d u c none
    armCue d c = (if c.w1 < unitNow d u then fireCue (putCue d q) q else putCue d q, some stOk)) ∧
  (∀ d kind x y stage tag u c, cueUnit kind x y = some u → (d.creset.active && tileUnit u) = false →
    unitAbsent d u = false →
    ((cuesOf d u).find? fun q => q.stage == stage && q.tag == tag && !q.pending) = some c → nextCue d c.unit ≠ some c →
    cancelCue d kind x y stage tag = (stOk, removeCue (dropReserved d c) c))) ∧
  ((∀ s t c k st, runs s → nextCue s.dev (.tile t) = some c → seatOfStage s.dev t c.stage = some (k, st) →
    (st.st = .seated → (tileOf s.dev t).cur = some k →
      exec (.stepStartFires t) s =
        after s (modCtx (takeCue s.dev c) t k fun x => releaseLine x (c.arg.toNat % 16))) ∧
    (st.st ≠ .seated ∨ (tileOf s.dev t).cur ≠ some k →
      exec (.stepStartFires t) s = after s { moveCuePtr s.dev c with
        cues := lmod (fun q => q.unit == c.unit && q.entry == c.entry) (fun q => { q with pending := true }) s.dev.cues })) ∧
  (∀ s r c d, runs s → nextCue s.dev (.rind r) = some c → c.action = actCollOpen →
    openColl (takeCue s.dev c) r (c.arg.toNat % 65536) = (d, true) → exec (.collectiveOpenFires r) s = after s d) ∧
  (∀ s x c, runs s → nextCue s.dev .stem = some c →
    exec (.telemetrySampleFires x) s = after s (if blkOn (takeCue s.dev c) blkTelem = true
      then takeSample (takeCue s.dev c) c.arg.toNat c.due x else takeCue s.dev c)))

/-- Accesses of cores, the host and other agents (R30, R162, R294, R295, R314, R440, R443): one that is served at
once has the effect of its kind at its slice; a CXL.mem request of a host that is decoded acts on its 64 bytes; a
host snoop of the device's own memory is answered. The host's copies (R314): data that the host returns is written to
its line and what it still holds is recorded; the answer to a back-invalidation snoop ends it, with the data, and the
entry goes or becomes shared. -/
def Obligations.Accesses : Prop :=
  ((∀ s c addr size reserve d, runs s → c < 8 → sizeBits size = true → addr % size = 0 →
    served s.dev { agent := .core c, addr := addr, kind := .read size false reserve } d →
    exec (.coreLoad c addr size reserve) s = after s d) ∧
  (∀ s c addr size v d, runs s → c < 8 → sizeBits size = true → addr % size = 0 →
    served s.dev { agent := .core c, addr := addr, kind := .write (leBytes size v.toNat) false } d →
    exec (.coreStore c addr size v) s = after s d) ∧
  (∀ s c addr size op signed v d, runs s → c < 8 → (size = 4 ∨ size = 8) → op ≠ .cas → addr % size = 0 →
    served s.dev { agent := .core c, addr := addr, kind := .amo size op signed v.toNat } d →
    exec (.coreAmo c addr size op signed v) s = after s d) ∧
  (∀ s c addr size v d, runs s → c < 8 → (size = 4 ∨ size = 8) → addr % size = 0 →
    served s.dev { agent := .core c, addr := addr, kind := .sc size v.toNat } d →
    exec (.coreSc c addr size v) s = after s d) ∧
  (∀ s a hold d, runs s → hostDecodes s.dev = true →
    served s.dev { agent := .host, addr := a / 64 * 64, kind := .hostRead hold } d →
    exec (.hostMemRead (s.dev.link.hdmBase.toNat + a) hold) s = after s d) ∧
  (∀ s a data poison failed hold d, runs s → hostDecodes s.dev = true →
    served s.dev { agent := .host, addr := a / 64 * 64, kind := .hostWrite (hostBytes a data) poison failed hold } d →
    exec (.hostMemWrite (s.dev.link.hdmBase.toNat + a) data poison failed hold) s = after s d) ∧
  (∀ s addr, runs s → exec (.hostSnoop addr) s = after s (emit s.dev (.hostSnoopResp addr))) ∧
  (∀ s a addr bytes spent d, runs s → served s.dev { agent := a, addr := addr, kind := .read bytes spent false } d →
    exec (.sliceRead a addr bytes spent) s = after s d) ∧
  (∀ s a addr data poison d, runs s → served s.dev { agent := a, addr := addr, kind := .write data poison } d →
    exec (.sliceWrite a addr data poison) s = after s d)) ∧
  ((∀ s a data hold sl, runs s → hostDecodes s.dev = true → backed s.dev a 1 = true →
    servingSlice s.dev (homeSlice a) = some sl →
    let d := withHue s.dev (hostHue s.dev)
    let d := data.elim d fun l => hostData d sl (a / 1024) (hostBytes a l)
    exec (.hostWriteback (s.dev.link.hdmBase.toNat + a) data hold) s = after s (if isTileLocal d a = true then d
      else recordHold (hueGrant d .host d.hue 64) sl (a / 1024) hold)) ∧
  (∀ s slice line dirty q, runs s → (sliceOf s.dev slice).snoops.find? (fun x => x.idx == line) = some q →
    let d := modSlice s.dev slice fun sl => { sl with snoops := sl.snoops.filter fun x => !(x == q) }
    let d := dirty.elim d fun l => hostData (withHue d (hostHue d)) slice line l
    exec (.bisnpResponse slice line dirty) s = after s (
      if q.inv = true then dirDel d slice line
      else if (dirFind (sliceOf d slice) line).isSome = true then recordHold d slice line .shared else d)))

/-- The Kreten die's own events (R290, R296, R297, R299, R307): a fill lands, and what its slice fetches for waiting
seats goes on; a write-back of the words that the buffer still holds frees its entry; a tile-local region being set
or stopped takes effect once the lines concerned are out; the end of a full thrash window zeroes its counts and flags
the slice when its hits are below the threshold. -/
def Obligations.KretenEvents : Prop :=
  (∀ s slice line f, runs s → (sliceOf s.dev slice).fills.find? (fun f => f.idx == line) = some f →
    exec (.fillLands slice line) s = after s ((servedBy s.dev slice).foldl pumpFetch (landFill s.dev slice f))) ∧
  (∀ s slice line w x, runs s → (sliceOf s.dev slice).wbuf.find? (fun w => w.line.idx == line) = some w →
    let d := scrubBuffer s.dev slice line (isTl w.line.kind)
    findWb (sliceOf d slice) line (isTl w.line.kind) = some x →
    exec (.writebackDone slice line) s =
      after s (dropWb (writeBackUnder d x.line.hue x.line) slice line (isTl w.line.kind))) ∧
  (∀ s n, runs s → n < 16 → bitAt (regGet s.dev .krTlr [n]) 62 = true →
    let v := regGet s.dev .krTlr [n]
    exec (.krTlrDrained n) s = after s (if bitAt v 63 = true
      then regPut (flushAll s.dev fun i k => isTl k && inSpan (1024 * i) (tlrSpan v).1 (tlrSpan v).2) .krTlr [n]
        (putBit (putBit v 62 false) 63 false)
      else regPut (flushAll s.dev fun i k => !isTl k && inSpan (1024 * i) (tlrSpan v).1 (tlrSpan v).2) .krTlr [n]
        (putBit (putBit v 62 false) 63 true))) ∧
  (∀ s k, runs s → k < 256 → 2 ^ (regField s.dev .krThrashCfg [] 19 16 + 10) ≤ (sliceOf s.dev k).winAcc →
    let sl := sliceOf s.dev k
    let d := putSlice s.dev k { sl with winHits := 0, winAcc := 0 }
    let below := regBit s.dev .krThrashCfg [] 0 = true ∧ sl.winHits * 256 < sl.winAcc * regField s.dev .krThrashCfg [] 31 24
    (¬ below → exec (.thrashWindowEnd k) s = after s d) ∧
    (below → exec (.thrashWindowEnd k) s = after s (regSetBit
      (if regBit d .krThrashFlag [k / 64] (k % 64) = true then d else logErr d stKrThrash ukSlice k 3)
      .krThrashFlag [k / 64] (k % 64))))

/-- Tile-local regions by KR_TLR (R290): VALID is set on a free, backed range that meets none of the ranges placed
before it, and SETTING is read until it takes effect; clearing VALID of a region in force begins its end. Preserves
(R300 to R306): an accepted create takes the lowest free entry and its pins, and completes with its number once its
lines are placed; a release of a preserve of software ends it once it is out. -/
def Obligations.TileLocalAndPreserves : Prop :=
  ((∀ s r n bytes v t, runs s → n < 16 → bitAt v.toNat 63 = true →
    writable s.dev (regOff .krTlr [n]) bytes v t [n] →
    bitAt (regGet s.dev .krTlr [n]) 62 = false → bitAt (regGet s.dev .krTlr [n]) 63 = false →
    let x := written s.dev t [n] (regOff .krTlr [n]) bytes v
    bitAt x 63 = true →
    let b := (tlrSpan x).1
    let sz := (tlrSpan x).2
    sz ≠ 0 → backed s.dev b sz = true → hitsTlr s.dev b sz (some n) = false → hitsSpill s.dev b sz = false →
    hitsPreserve s.dev b sz = false → hitsPipr s.dev b sz = false → hitsFixed s.dev b sz = false →
    exec (.krTlrSet r n bytes v) s = after s (regPut s.dev .krTlr [n] (putBit (putBit x 63 false) 62 true))) ∧
  (∀ s r n bytes v t, runs s → n < 16 → bitAt v.toNat 63 = false →
    writable s.dev (regOff .krTlr [n]) bytes v t [n] →
    bitAt (regGet s.dev .krTlr [n]) 62 = false → bitAt (regGet s.dev .krTlr [n]) 63 = true →
    bitAt (written s.dev t [n] (regOff .krTlr [n]) bytes v) 63 = false →
    exec (.krTlrClear r n bytes v) s = after s (regPut s.dev .krTlr [n] (putBit (regGet s.dev .krTlr [n]) 62 true)))) ∧
  ((∀ s w d1 op h d2 id, runs s → accepted s.dev w 0x14 d1 op h →
    createCheck d1 (argOf s.dev w 0) (argOf s.dev w 1) = none →
    takePreserve d1 (argOf s.dev w 0) (argOf s.dev w 1) none (argOf s.dev w 2 == 1) (some op) = some (d2, id) →
    exec (.preserveCreate w) s = after s (receipted d2 w 0x14 h)) ∧
  (∀ s id p op, runs s → tfind s.dev.preserves id = some p → p.createOp = some op → s.dev.creset.active = false →
    let d := placePreserve (withHue s.dev (opHue s.dev op)) p.base p.size
    let d := if p.load = true then loadRange d p.base p.size else d
    exec (.preserveCreateDone id) s =
      after s (complete { d with preserves := tput d.preserves id { p with createOp := none } } op stOk id)) ∧
  (∀ s w d1 op h p, runs s → accepted s.dev w 0x15 d1 op h →
    tfind d1.preserves (bits (argOf s.dev w 0) 7 0) = some p → p.canvas = none → p.releaseOp = none →
    let q := { p with releaseOp := some op, mode1 := bitAt (argOf s.dev w 0) 8 }
    exec (.preserveRelease w) s = after s (receipted
      { d1 with preserves := tput d1.preserves (bits (argOf s.dev w 0) 7 0) q } w 0x15 h)) ∧
  (∀ s id p op, runs s → tfind s.dev.preserves id = some p → p.releaseOp = some op → p.createOp = none →
    s.dev.creset.active = false →
    exec (.preserveReleaseDone id) s = after s (complete (freePreserveEntry s.dev id p.mode1) op stOk)))

/-- Pip instructions (R334 to R336, R339): where the instruction is the next of its pseudo-channel, it acts in every
bank of the wave: LD and LDX load 256 lanes, ST stores them, the others compute lane by lane, in FP32 or, where FMT
is INT32, in 32-bit integers. -/
def Obligations.PipInstructions : Prop :=
  ∀ s n stack pc x i, runs s → nextPip s.dev n stack pc x i →
    let ran (f : PipMeaning) : Result := after s (ranIn s.dev n stack pc x i f)
    (i.op = 0x01 → exec (.ld n stack pc) s = ran doLd) ∧
    (i.op = 0x02 → exec (.st n stack pc) s = ran doSt) ∧
    (i.op = 0x03 → exec (.ldx n stack pc) s = ran doLdx) ∧
    (i.op = 0x10 → exec (.add n stack pc) s =
      ran (lanewise opsAb (fun v => fadd (arg v 0) (arg v 1)) fun v => arg v 0 + arg v 1)) ∧
    (i.op = 0x11 → exec (.mul n stack pc) s =
      ran (lanewise opsAb (fun v => fmul (arg v 0) (arg v 1)) fun v => arg v 0 * arg v 1)) ∧
    (i.op = 0x12 → exec (.fma n stack pc) s =
      ran (lanewise opsAbc (fun v => ffma (arg v 0) (arg v 1) (arg v 2)) fun v => arg v 0 * arg v 1 + arg v 2)) ∧
    (i.op = 0x13 → exec (.adds n stack pc) s =
      ran (lanewise opsAs (fun v => fadd (arg v 0) (arg v 1)) fun v => arg v 0 + arg v 1)) ∧
    (i.op = 0x14 → exec (.muls n stack pc) s =
      ran (lanewise opsAs (fun v => fmul (arg v 0) (arg v 1)) fun v => arg v 0 * arg v 1)) ∧
    (i.op = 0x15 → exec (.fmas n stack pc) s =
      ran (lanewise opsAsc (fun v => ffma (arg v 0) (arg v 1) (arg v 2)) fun v => arg v 0 * arg v 1 + arg v 2)) ∧
    (i.op = 0x16 → exec (.max n stack pc) s =
      ran (lanewise opsAb (fun v => fmax32 (arg v 0) (arg v 1)) fun v => imax (arg v 0) (arg v 1))) ∧
    (i.op = 0x17 → exec (.min n stack pc) s =
      ran (lanewise opsAb (fun v => fmin32 (arg v 0) (arg v 1)) fun v => imin (arg v 0) (arg v 1))) ∧
    (i.op = 0x18 → exec (.sqrt n stack pc) s = ran (lanewise opsA (fun v => fsqrt32 (arg v 0)) fun v => arg v 0)) ∧
    (i.op = 0x19 → exec (.rcp n stack pc) s = ran (lanewise opsA (fun v => frcp32 (arg v 0)) fun v => arg v 0)) ∧
    (i.op = 0x20 → exec (.mov n stack pc) s = ran (lanewise opsA (fun v => arg v 0) fun v => arg v 0)) ∧
    (i.op = 0x21 → exec (.zero n stack pc) s = ran (lanewise opsNone (fun _ => 0) fun _ => 0))

/-- Pip-aligned regions (R328 to R330): a region is set on a valid, free range of which the host holds nothing, and
cleared where no session names it; it reads SETTING until its lines are out, and then the mapping takes effect, a
cleared region with the fields that were written. -/
def Obligations.PipRegions : Prop :=
  (∀ s r n bytes v t, runs s → n < 16 → bitAt v.toNat 63 = true → writable s.dev (regOff .hbmPipr [n]) bytes v t [n] →
    bitAt (regGet s.dev .hbmPipr [n]) 62 = false → bitAt (regGet s.dev .hbmPipr [n]) 63 = false →
    let x := written s.dev t [n] (regOff .hbmPipr [n]) bytes v
    let b := bits x 15 0 * bandBytes s.dev
    let sz := bits x 47 32 * bandBytes s.dev
    bitAt x 63 = true → piprOk x = true → meetsPipr s.dev b sz n = false → hitsTlr s.dev b sz = false →
    hitsSpill s.dev b sz = false → hitsPreserve s.dev b sz = false → hitsFixed s.dev b sz = false →
    (hostHolds s.dev fun i => inSpan (1024 * i) b sz) = false →
    exec (.pipRegionSet r n bytes v) s = after s (regPut s.dev .hbmPipr [n] (putBit (putBit x 63 false) 62 true))) ∧
  (∀ s r n bytes v t, runs s → n < 16 → bitAt v.toNat 63 = false → writable s.dev (regOff .hbmPipr [n]) bytes v t [n] →
    bitAt (regGet s.dev .hbmPipr [n]) 62 = false → bitAt (regGet s.dev .hbmPipr [n]) 63 = true →
    let x := written s.dev t [n] (regOff .hbmPipr [n]) bytes v
    bitAt x 63 = false → piprOk x = true → regionInUse s.dev n = false →
    (hostHolds s.dev fun i => inSpan (1024 * i) (piprSpan s.dev n).1 (piprSpan s.dev n).2) = false →
    exec (.pipRegionClear r n bytes v) s = after s (regPut { s.dev with piprNext := tput s.dev.piprNext n x } .hbmPipr [n]
      (putBit (regGet s.dev .hbmPipr [n]) 62 true))) ∧
  (∀ s n, runs s → n < 16 → bitAt (regGet s.dev .hbmPipr [n]) 62 = true →
    let v := regGet s.dev .hbmPipr [n]
    let sp := piprSpan s.dev n
    let d := spreadUndef (quitLines s.dev fun i => inSpan (1024 * i) sp.1 sp.2) sp.1 sp.2
    exec (.pipRegionDrained n) s = after s (regPut { d with piprNext := tdel d.piprNext n } .hbmPipr [n]
      (putBit (putBit (if bitAt v 63 = true then tget 0 d.piprNext n else v) 62 false) 63 (!bitAt v 63))))

/-- Submitting and aborting pip sessions (R340, R341, R348 to R351): an accepted descriptor takes the lowest free
queue entry; PIP_SUBMIT counts its receipt with status and entry; an abort ends the session that its handle or entry
names. The life of a pip session (R342 to R346): it opens with its range out of the Kreten die, runs wave by wave,
closes after the last wave and completes once no copy of its range is left at the host. -/
def Obligations.PipSessions : Prop :=
  ((∀ s w d1 op h d2 n, runs s → accepted s.dev w 0x11 d1 op h →
    submitPip d1 (argOf s.dev w 0) (some op) = (d2, some (stOk, n)) →
    exec (.pipSession w) s = after s (receipted d2 w 0x11 h)) ∧
  (∀ s r bytes v t ix d n, runs s → writable s.dev (regOff .pipSubmit []) bytes v t ix →
    submitPip s.dev (bits (accessValue (regOff .pipSubmit []) bytes v) 47 0) none = (d, some (stOk, n)) →
    exec (.pipSubmit r bytes v) s = after s (regSetField (regSetField (regBump d .pipReceipt [] 31 16 1)
      .pipReceipt [] 39 32 n) .pipReceipt [] 15 0 stOk.toNat)) ∧
  (∀ s w n x, runs s → recordOk s.dev w 0x12 →
    (s.dev.sessions.find? fun e => s.dev.ops.any fun o => some o.id == e.2.op && o.handle.toNat == argOf s.dev w 0 &&
      argOf s.dev w 0 != 0) = some (n, x) →
    exec (.pipAbort w) s = after s (receipted (abortSession s.dev n x) w 0x12 0)) ∧
  (∀ s r bytes v t ix x, runs s → writable s.dev (regOff .pipAbort []) bytes v t ix →
    tfind s.dev.sessions (bits (accessValue (regOff .pipAbort []) bytes v) 7 0) = some x →
    exec (.pipAbortWrite r bytes v) s =
      after s (abortSession s.dev (bits (accessValue (regOff .pipAbort []) bytes v) 7 0) x))) ∧
  ((∀ s n x, runs s → tfind s.dev.sessions n = some x → x.st = .queued → mayOpen s.dev n x = true →
    (hostHolds s.dev fun i => sessHas s.dev x (1024 * i)) = false →
    let d := quitLines s.dev fun i => sessHas s.dev x (1024 * i)
    let y : Session := { x with st := .opening, flushed := true }
    exec (.sessionOpen n) s = after s { d with sessions := tput d.sessions n y }) ∧
  (∀ s n x, runs s → tfind s.dev.sessions n = some x → x.st = .opening →
    let y : Session := { freshWave x 0 with st := .running }
    exec (.sessionRun n) s = after s (if x.aborted = true then beginClosing s.dev n { x with status := stPipAborted }
      else { s.dev with sessions := tput s.dev.sessions n y })) ∧
  (∀ s n x, runs s → tfind s.dev.sessions n = some x → x.st = .running → x.aborted = false →
    (∀ p ∈ selPcs x, inWave s.dev x p.1 p.2 = false ∧ (pcRun x p.1 p.2).paused = false) →
    exec (.waveEnd n) s = after s (if anyWave s.dev (freshWave x (x.wave + 1)) = true
      then { s.dev with sessions := tput s.dev.sessions n (freshWave x (x.wave + 1)) } else beginClosing s.dev n x)) ∧
  (∀ s n x, runs s → tfind s.dev.sessions n = some x → x.st = .closing → (x.flushed = false ∨ hostCopies s.dev x = []) →
    exec (.sessionCloseDone n) s = after s (finishSession s.dev n x)))

/-- Refresh of a pseudo-channel in a wave (R331, R332): a due refresh is owed, and the limit of the stack's band
pauses the wave; the end of a pause clears what is owed, keeps the longest pause in ns, and closes an aborted session
whose last pause it was. -/
def Obligations.PipRefresh : Prop :=
  (∀ s stack pc n x, runs s → s.dev.sessions.find? (fun e => inWave s.dev e.2 stack pc) = some (n, x) →
    let owed := (tget {} s.dev.refresh (stack * 32 + pc)).owed + 1
    let d := { s.dev with refresh := tput s.dev.refresh (stack * 32 + pc) { owed := owed } }
    let y := setPcRun x stack pc { pcRun x stack pc with paused := true, since := s.dev.tb.now }
    exec (.refreshDue stack pc) s = after s (
      if bandLimit (stackOf s.dev stack).band ≤ owed ∧ (pcRun x stack pc).paused = false
      then regBump { d with sessions := tput d.sessions n y } .pipStatus [] 31 16 1 else d)) ∧
  (∀ s stack pc n x, runs s → s.dev.sessions.find? (fun e => (pcRun e.2 stack pc).paused) = some (n, x) →
    let ns := min 0xFFFF ((s.dev.tb.now - (pcRun x stack pc).since) / 2)
    let d0 := { s.dev with refresh := tdel s.dev.refresh (stack * 32 + pc) }
    let d := if ns > regField d0 .pipStatus [] 47 32 then regSetField d0 .pipStatus [] 47 32 ns else d0
    let y := setPcRun x stack pc { pcRun x stack pc with paused := false }
    exec (.pipPauseEnd stack pc) s = after s (
      if y.aborted = true ∧ (∀ e ∈ y.pcs, e.2.paused = false) then beginClosing d n y
      else { d with sessions := tput d.sessions n y }))

/-- Internal links (R358 to R361, R384): a sector passes where the CRC of its string is the one received, smudge and
all; it is then acknowledged, its words that fail the word code are dealt with, and bad ones reach its reader
poisoned; a failing one is sent again, and the fourth failure starts the lane test; after the test further attempts
follow where a bond was faulty, and the sector is lost where none was or they fail; a line sent again from the
write-back buffer ends there once it passes, and each further failure is counted and logged. -/
def Obligations.InternalLinks : Prop :=
  (∀ s l sender x u d mask, runs s → (linkOf s.dev l).testing = false → crcSmudge s.dev sender = (d, mask) →
    let passed := (x.words.mapIdx fun i w => (i, w)).foldl (fun d e => noteEscape d l e)
      { d with links := tdel d.links (linkKey l) }
    let n := (linkOf s.dev l).attempts + 1
    let failed := { d with links := tput d.links (linkKey l) { attempts := n, testing := decide (n ≥ 4) } }
    (crc32c (sectorString x.words) = x.crc ^^^ mask → exec (.sectorReceived l sender x u) s =
      after s (if badMask x.words = 0 then passed else loseWords passed u (badMask x.words))) ∧
    (crc32c (sectorString x.words) ≠ x.crc ^^^ mask → linkOf d l = linkOf s.dev l ∧
      exec (.sectorReceived l sender x u) s =
        after s (if n < 4 then emit (countResends failed 1) (.linkResend l) else failed))) ∧
  (∀ s l badBonds retryOk recovered u, runs s → (linkOf s.dev l).testing = true →
    let d := { s.dev with links := tdel s.dev.links (linkKey l) }
    let spared := if l.kind = 0 ∧ l.no < 512
      then swapWaiting (failBonds d (l.no / 2) (l.no % 2) badBonds) (l.no / 2) (l.no % 2) else d
    let r := furtherTries spared retryOk
    exec (.linkLaneTestDone l badBonds retryOk recovered u) s = after s (
      if badBonds = [] then loseSector d l 4 recovered u
      else if retryOk = true then countResends r.2 r.1 else loseSector (countResends r.2 r.1) l 8 recovered u)) ∧
  (∀ s slice line failed w, runs s → (sliceOf s.dev slice).wbuf.find? (fun w => w.line.idx == line) = some w →
    exec (.writebackRetry slice line failed) s = after s (match failed with
      | none => finishWb s.dev slice line (isTl w.line.kind)
      | some l => logErr (regBump s.dev .integUe [] 31 16 1) stCrcFinal ukSlice slice 2 (1024 * line) (linkDetail l 4)))

/-- The error log's registers and timer (R369 to R372): a base in backed memory that meets no placed region empties
the ring; a consumer position within the ring is taken, and another sets LOST; the timer of a unit writes one record
for what it corrected since its last. -/
def Obligations.ErrorLogRegisters : Prop :=
  (∀ s kind unit m, runs s → tfind s.dev.merges (kind * 65536 + unit) = some m →
    let k := kind * 65536 + unit
    let r : ErrRec := { status := stCorrected, kind := kind, unit := unit, cls := 0, canvas := 0xFF, count := m.count, time := m.time, addr := BitVec.ofNat 64 m.addr, detail := m.detail }
    exec (.correctedMergeTimer kind unit) s = after s (
      if m.count = 0 then { s.dev with merges := tdel s.dev.merges k }
      else { s.dev with errq := s.dev.errq ++ [r], merges := tput s.dev.merges k { m with count := 0 } })) ∧
  (∀ s r off bytes v t ix, runs s → writable s.dev off bytes v t ix → off / 8 * 8 = regOff .errlogBase [] →
    let x := written s.dev t ix off bytes v
    let a := bits x 47 12 <<< 12
    (a = 0 ∨ (backed s.dev a (4096 * 2 ^ bits x 3 0) = true ∧ hitsPlaced s.dev a (4096 * 2 ^ bits x 3 0) = false)) →
    exec (.errlogBaseWrite r off bytes v) s = after s (regPut (regPut s.dev .errlogBase [] x) .errlogPtr [] 0)) ∧
  (∀ s r off bytes v t ix, runs s → writable s.dev off bytes v t ix → off / 8 * 8 = regOff .errlogPtr [] →
    bits (accessMask off bytes) 63 32 ≠ 0 →
    let cons := bits (written s.dev t ix off bytes v) 63 32
    exec (.errlogConsWrite r off bytes v) s = after s (
      if (errProd s.dev + 2 ^ 32 - cons) % 2 ^ 32 ≤ (errRing s.dev).2 then regSetField s.dev .errlogPtr [] 63 32 cons
      else regSetBit s.dev .errlogStatus [] 1))

/-- The gleaners (R373 to R377): the gleaner of a populated stack in service reads and corrects its next sector, in
the order of `gleanPlace`, which is the model's; that of a slice the next sector that its lines, the seat area of its
tile or its write-back buffer hold; a pass ends when every one has. -/
def Obligations.Gleaners : Prop :=
  (∀ s k flips late, runs s → k ∈ popStacks s.dev → (stackOf s.dev k).gleanAt < stackSectors →
    (stackOf s.dev k).resting = false →
    ((∃ j ∈ popStacks s.dev, (stackOf s.dev j).gleanAt ≠ 0) ∨ regField s.dev .gleanCfg [] 47 32 ≠ 0) →
    let p := gleanPlace (stackOf s.dev k).gleanAt
    let a := locAddr s.dev k p.1 p.2.1 p.2.2.1 + 128 * p.2.2.2
    let st := { stackOf s.dev k with gleanAt := (stackOf s.dev k).gleanAt + 1 }
    let d := { s.dev with stks := tput s.dev.stks k st }
    exec (.gleanSector k flips late) s = after s (endHbmPass
      (if backed d a 128 = true then gleanSectorAt (withHue (upsetHbm d a flips) (gleanHue d)) a else d) late)) ∧
  (∀ s k flips late, runs s → k < 256 →
    ((∃ e ∈ s.dev.slices, e.2.gleanAt ≠ 0) ∨ regField s.dev .gleanCfg [] 15 0 ≠ 0) →
    (nextHeld s.dev k (sliceOf s.dev k).gleanAt = none → exec (.kretenGleanSector k flips late) s =
      after s (endKrPass (modSlice s.dev k fun sl => { sl with gleanAt := sliceSectors }) late)) ∧
    (∀ i, nextHeld s.dev k (sliceOf s.dev k).gleanAt = some i →
      let d := modSlice s.dev k fun sl => { sl with gleanAt := i + 1 }
      let d := grantSlice (withHue (upsetHeld d k i flips) (gleanHue d)) k 128
      exec (.kretenGleanSector k flips late) s = after s (endKrPass (gleanHeld d k i) late)))

/-- Sweeps and smudge masks (R381 to R385): an accepted sweep takes the lowest free place; when done it has read its
range, written its summary and completes; with testing enabled a mask is armed. -/
def Obligations.SweepsAndMasks : Prop :=
  (∀ s w d1 op h, runs s → accepted s.dev w 0x13 d1 op h →
    sweepCheck d1 (argOf s.dev w 0) (argOf s.dev w 1) (argOf s.dev w 2) (argOf s.dev w 3) = none →
    let n := ((List.range 4).find? fun k => (tfind d1.sweeps k).isNone).getD 0
    let x : Sweep := { base := argOf s.dev w 0, size := argOf s.dev w 1, mode := bits (argOf s.dev w 3) 0 0, summary := argOf s.dev w 2, hue := bits (argOf s.dev w 3) 15 8, started := d1.tb.now, op := some op, held := blkState d1 blkSweep == .onPending }
    exec (.sweep w) s = after s (receipted (setOpHue { d1 with sweeps := tput d1.sweeps n x } (some op) x.hue) w 0x13 h)) ∧
  (∀ s n x d1, runs s → tfind s.dev.sweeps n = some x → x.held = false → blkServes s.dev blkSweep = true →
    devWrite (sweepRange s.dev x).d (.core 0) x.summary (sweepSummary x (sweepRange s.dev x) s.dev.tb.now) = (d1, true) →
    exec (.sweepDone n) s = after s (completeOpt { d1 with
      sweeps := tdel d1.sweeps n, lost := d1.lost.filter fun e => e.who != .sweep } x.op stOk)) ∧
  (∀ s r off bytes v t ix, runs s → writable s.dev off bytes v t ix →
    (t.id = .smudgeCtlHbm ∨ t.id = .smudgeCtlKr) → s.dev.board.testEn = true →
    let d := plainWrite s.dev t ix (accessMask off bytes) (accessValue off bytes v)
    (bitAt (accessValue off bytes v) 16 = true → exec (.smudgeArmWord r off bytes v) s = after s d) ∧
    (bitAt (accessValue off bytes v) 17 = true → exec (.smudgeArmCrc r off bytes v) s = after s d)) ∧
  (∀ s, runs s → exec .hueWindowStart s = after s (rollWindow s.dev))

/-- Switches and the control of ports (R403, R405, R431): a pair's switch opens while one of its ports is enabled,
and closes with neither; a write of XP_CTL with a rate that the ordering code permits enables, disables or, in
FAILED, retrains its port; the retry timer of a FAILED port trains it again. Leaving ACTIVE and coming back (R405,
R412, R423): lost signal and a retrain that times out take the link down and train it again; a resend timeout resends
from the oldest frame; a retrain that is done resends from there too. -/
def Obligations.PortStates : Prop :=
  ((∀ s pair, runs s → pair < 32 →
    let a := 2 * pair
    let want := portEnabled s.dev a || portEnabled s.dev (a + 1)
    want ≠ nmem pair s.dev.switches →
    exec (.bypassSwitchChange pair) s = after s (
      if want = true then wakePort (wakePort { s.dev with switches := nadd pair s.dev.switches } a) (a + 1)
      else stopPort (stopPort { s.dev with switches := ndel pair s.dev.switches } a .bypassed) (a + 1) .bypassed)) ∧
  (∀ s r p off bytes v t ix, runs s → writable s.dev off bytes v t ix → off / 8 * 8 = regOff .xpCtl (portIx p) →
    let x := written s.dev t ix off bytes v
    let d := regPut s.dev .xpCtl ix (putBit x 2 false)
    bits x 10 8 ≤ 2 → s.dev.limits.maxRate ≤ bits x 10 8 →
    (bitAt (accessValue off bytes v) 0 = true → bitAt (accessValue off bytes v) 2 = false → bitAt x 0 = true →
      exec (.portEnable r p off bytes v) s = after s (wakePort d p)) ∧
    (bitAt (accessValue off bytes v) 0 = false → bitAt (accessValue off bytes v) 2 = false → bitAt x 0 = false →
      exec (.portDisable r p off bytes v) s =
        after s (if (portOf d p).st = .bypassed then d else stopPort d p .disabled)) ∧
    (bitAt (accessValue off bytes v) 2 = true → bitAt x 0 = true → (portOf (wakePort d p) p).st = .failed →
      exec (.portRetrainWrite r p off bytes v) s = after s (enterDetect (wakePort d p) p))) ∧
  (∀ s p, runs s → (portOf s.dev p).st = .failed → exec (.failedRetryTimer p) s = after s (enterDetect s.dev p))) ∧
  ((∀ s p, runs s → (portOf s.dev p).st = .active → exec (.signalLoss p) s = after s (downAndTrain s.dev p)) ∧
  (∀ s p, runs s → (portOf s.dev p).st = .retrain → exec (.retrainTimeout p) s = after s (downAndTrain s.dev p)) ∧
  (∀ s p, runs s → (portOf s.dev p).st = .active →
    exec (.resendTimeout p) s = after s (resendFrom s.dev p (oldestSeq s.dev p))) ∧
  (∀ s p, runs s → (portOf s.dev p).st = .retrain →
    let d := modPort (enterPort (recordMeasure s.dev p) p .active) p fun x =>
      { x with txFrames := x.txFrames.map fun f => { f with sent := 0 } }
    exec (.retrainDone p) s = after s (pumpPort (resendFrom d p (oldestSeq d p)) p)))

/-- Training (R405 to R408, R411, R432 to R434): a TRAIN frame is judged by the decoder, its header and its slot
CRCs, in DETECT by that of slot 0 alone; one that fails is a frame error. A record in DETECT gives the rate, the
greater of the two proposals; MEASURE takes 64 exchanges; NEGOTIATE ends in ACTIVE or FAILED; a training record at an
ACTIVE port takes the link down; each record is answered where training goes on. An equalization that times out tries
the next slower rate and then fails. -/
def Obligations.Training : Prop :=
  (∀ s p f, runs s → p < 64 → (headerOf f).kind = 3 → hears (portOf s.dev p).st = true →
    let x := trainOf f
    let good := frameOk f (headerOf f) = true ∧
      (if (portOf s.dev p).st = .detect then slotOk f (headerOf f) 0 else slotsOk f (headerOf f)) = true
    let d0 := countCorrected s.dev p f
    let d := noteRecord d0 p f x
    (¬ good → exec (.trainFrame p f) s = after s (frameError d0 p)) ∧
    (good → x.rsv = false →
      ((portOf s.dev p).st = .detect → x.proposed ≤ 2 → exec (.trainFrame p f) s =
        after s (sendTrain (setRate (enterPort (notePartner d p x) p .equalize) p (max (ownProposal d p) x.proposed)
          (bandPreset d p)) p)) ∧
      ((portOf s.dev p).st = .measure → exec (.trainFrame p f) s =
        after s (sendTrain (if 64 ≤ (portOf (noteExchange d p f x) p).exchanges.length
          then enterPort (recordMeasure (noteExchange d p f x) p) p .negotiate else noteExchange d p f x) p)) ∧
      ((portOf s.dev p).st = .negotiate → exec (.trainFrame p f) s = after s (negotiate (notePartner d p x) p x)) ∧
      ((portOf s.dev p).st = .retrain → exec (.trainFrame p f) s = after s (sendTrain (noteExchange d p f x) p)) ∧
      ((portOf s.dev p).st = .active → exec (.trainFrame p f) s = after s (enterDetect (linkDown d p .disabled) p)))) ∧
  (∀ s p, runs s → (portOf s.dev p).st = .equalize →
    exec (.equalizeDone p) s =
      after s (sendTrain (enterPort (modPort s.dev p fun x => { x with exchanges := [] }) p .measure) p)) ∧
  (∀ s p, runs s → (portOf s.dev p).st = .equalize →
    let r := (portOf s.dev p).rate
    exec (.equalizeTimeout p) s = after s (
      if r < 2 then sendTrain (setRate (modPort s.dev p fun x => { x with triedRate := x.rate + 1 }) p (r + 1)
        (bandPreset s.dev p)) p
      else enterPort (putXpStatus (logErr s.dev stLinkTrain ukXeost p 3) p 31 16 stLinkTrain.toNat) p .failed))

/-- Frames (R410 to R415, R428, R429): a frame that fails a check is a frame error; an idle one gives its header,
which takes no place in sequence; the next in sequence gives its header and then its slots; one out of sequence does
nothing. Stamps go out with a time of the port's own copy from a locked time base, and their absence loses the
reference. -/
def Obligations.Frames : Prop :=
  (∀ s p f, runs s → p < 64 → (portOf s.dev p).st = .active → (headerOf f).kind ≠ 3 →
    let h := headerOf f
    let d := countCorrected s.dev p f
    let sound := slotsOk f h = true ∧ 3 ∉ h.codes
    (frameOk f h = false → exec (.frameReceived p f) s = after s (frameError d p)) ∧
    (frameOk f h = true → isIdle h = true → exec (.frameReceived p f) s = after s (takeHeader d p f h)) ∧
    (frameOk f h = true → isIdle h = false → h.seq ≠ (portOf s.dev p).expectSeq →
      exec (.frameReceived p f) s = after s d) ∧
    (frameOk f h = true → isIdle h = false → h.seq = (portOf s.dev p).expectSeq → ¬ sound →
      exec (.frameReceived p f) s = after s (frameError d p)) ∧
    (frameOk f h = true → isIdle h = false → h.seq = (portOf s.dev p).expectSeq → sound →
      exec (.frameReceived p f) s = after s (sendIdle ((List.range 4).foldl (fun d k => takeSlot d p f h k)
        (takeHeader (modPort d p fun x => { x with expectSeq := (x.expectSeq + 1) % 1024, lastOk := h.seq, nak := false })
          p f h)) p))) ∧
  (∀ s p frac, runs s → (portOf s.dev p).st = .active → regBit s.dev .tbStatus [] 5 = true →
    exec (.stampSend p frac) s = after s (putFrame s.dev p 2 (portOf s.dev p).txSeq (stampAt s.dev p frac) [])) ∧
  (∀ s, runs s → tbRole s.dev = 2 →
    exec .stampTimeout s = after s (loseReference { s.dev with tb := { s.dev.tb with offsets := [] } }))

/-- Messages at a port (R417, R418, R420, R422, R430): one for another device goes on by the route's port with one
hop more; a request that fails a check of R420 is answered with its status; a WRITE, a COMBINE and a READ that pass
are performed under their hue, counted for their collective entry, and answered; a response ends its request; RELAY
is handed to the stem die, or dropped where the port takes none or a reserved field is not 0; a request that gets no
response in time ends its transfer. -/
def Obligations.Messages : Prop :=
  (∀ s p n m q v d1, runs s → inboxAt s.dev p n = some m → m.dst ≠ ownNo s.dev → m.op ≠ xoRelay → m.hops < 31 →
    regBit s.dev .xrCfg [] 16 = true → routeEntry s.dev (p / 8) m.dst = (d1, some v) →
    choosePort d1 v m.addr m.src = some q →
    exec (.messageForward p n) s = after s
      (queueMsg (eraseMsg d1 p n) q { m with hops := m.hops + 1, channel := dateline v m.channel })) ∧
  (∀ s p n m st, runs s → inboxAt s.dev p n = some m → m.dst = ownNo s.dev → requestCheck s.dev m = some st →
    (m.op = xoWrite → exec (.write p n) s = after s (answerTake s.dev s.dev p n m st [])) ∧
    (m.op = xoCombine → exec (.combine p n) s = after s (answerTake s.dev s.dev p n m st [])) ∧
    (m.op = xoRead → exec (.read p n) s = after s (answerTake s.dev s.dev p n m st []))) ∧
  (∀ s p n m d1, runs s → inboxAt s.dev p n = some m → m.dst = ownNo s.dev → requestCheck s.dev m = none →
    let d := withHue s.dev m.hue
    let told := fun (d : Dev) (bad : Bool) (bs : List Byte) =>
      answerTake s.dev (withHue (if bad then logPeerPoison d p m else d) s.dev.hue) p n m (if bad then stPoison else stOk) bs
    (∀ d2, m.op = xoWrite → performWrite d m = some d1 → countColl d1 m = some d2 →
      exec (.write p n) s = after s (told d2 false [])) ∧
    (∀ bad d2, m.op = xoCombine → performCombine d m = some (d1, bad) → countColl d1 m = some d2 →
      exec (.combine p n) s = after s (told d2 bad [])) ∧
    (∀ bs bad, m.op = xoRead → devRead d (.peer m.src) m.addr m.len = (d1, some (bs, bad)) →
      exec (.read p n) s = after s (told d1 bad (if bad then [] else bs)))) ∧
  (∀ s p n m, runs s → inboxAt s.dev p n = some m → m.dst = ownNo s.dev →
    (∀ q, m.op = xoWriteAck → requestOf s.dev m.tag false = some q → exec (.writeAck p n) s = after s (pumpAll (
      if respStatus m = 0 then dropRequest (takeMsg s.dev p n) q
      else endRequest (takeMsg s.dev p n) q (BitVec.ofNat 16 (respStatus m))))) ∧
    (m.op = xoWriteAck → requestOf s.dev m.tag false = none → exec (.writeAck p n) s = after s (lateResponse s.dev p n)) ∧
    (m.op = xoReadData → s.dev.creset.active = false → requestOf s.dev m.tag true = none → exec (.readData p n) s = after s (lateResponse s.dev p n)) ∧
    (∀ q, m.op = xoReadData → s.dev.creset.active = false → requestOf s.dev m.tag true = some q → respStatus m ≠ 0 →
      exec (.readData p n) s =
        after s (pumpAll (endRequest (takeMsg s.dev p n) q (BitVec.ofNat 16 (respStatus m))))) ∧
    (∀ q x d1, m.op = xoReadData → s.dev.creset.active = false → requestOf s.dev m.tag true = some q → respStatus m = 0 →
      s.dev.xfers.find? (fun x => x.id == q.xfer && x.st == .active) = some x →
      let bs := rangeBytes { m with addr := q.addr, len := q.len }
      landRead s.dev x q (fun i => (bs.getD i 0).toNat) (fun i => wordPoison { m with addr := q.addr } i) = some d1 →
      exec (.readData p n) s = after s (pumpAll (dropRequest (takeMsg d1 p n) q)))) ∧
  (∀ s p n m, runs s → inboxAt s.dev p n = some m → m.op = xoRelay → exec (.relay p n) s = after s (
    if regBit s.dev .xpCtl (portIx p) 1 = true ∧ m.rsv = false then grapevineChunk (takeMsg s.dev p n) p m.tag m.addr (rangeBytes m)
    else undelivered (takeMsg s.dev p n))) ∧
  (∀ s tag q, runs s → s.dev.requests.find? (fun q => q.tag == tag) = some q →
    q.sent + usTicks * regField s.dev .xrTimeout [] 19 0 ≤ s.dev.tb.now →
    exec (.requestTimeout tag) s = after s (pumpAll (endRequest s.dev q stLinkTimeout)))

/-- Collective entries and routes (R425, R427, R435): ARM of an entry whose fields pass arms it, with its NEXT
checked; OPEN opens an armed one; DISARM makes it idle; INVAL empties every rind die's cache of routes. -/
def Obligations.CollectiveEntries : Prop :=
  (∀ s r rind entry bytes v t, runs s →
    let k := rind % 8
    let n := entry % 16
    writable s.dev (regOff .xcCtl [k, n]) bytes v t [k, n] →
    let x := accessValue (regOff .xcCtl [k, n]) bytes v
    blkAccepts s.dev (blkColl k) = true →
    (∀ d1, bitAt v.toNat 0 = true → bitAt x 0 = true → bitAt x 1 = false → bitAt x 2 = false →
      armColl s.dev k n = (d1, some none) → exec (.xcCtlArm r rind entry bytes v) s = after s d1) ∧
    (∀ d1, bitAt v.toNat 0 = false → bitAt v.toNat 1 = true → bitAt x 0 = false → bitAt x 1 = true → bitAt x 2 = false →
      openColl s.dev k n = (d1, true) → exec (.xcCtlOpen r rind entry bytes v) s = after s d1) ∧
    (bitAt v.toNat 0 = false → bitAt v.toNat 1 = false → bitAt x 0 = false → bitAt x 1 = false → bitAt x 2 = true →
      exec (.xcCtlDisarm r rind entry bytes v) s = after s (
        if (collOf s.dev k n).st = .armed ∨ (collOf s.dev k n).st = .openSt
        then putColl s.dev k n { collOf s.dev k n with st := .idle, next := none, held := none }
        else putColl s.dev k n { collOf s.dev k n with held := none }))) ∧
  (∀ s r off bytes v t ix, runs s → writable s.dev off bytes v t ix → off / 8 * 8 = regOff .xrRoute [] →
    bitAt (accessValue off bytes v) 0 = true →
    let x := written s.dev t ix off bytes v
    let base := bits x 47 19 <<< 19
    backed s.dev base 0x80000 = true → overlapsRegions s.dev base 0x80000 = false →
    exec (.routeInval r off bytes v) s = after s { regPut s.dev .xrRoute ix (putBit x 0 false) with routes := [] })

/-- Registers (R25, R26, R30, R445, R450, R451): a write of a register without a rule of its own stores what R25
gives; a read answers the register's value, all of it or the half that is asked for; a write into RECORD changes the
bytes it addresses; a read of RECEIPT whose record fails a check is rejected with that check's status, and one whose
record passes gives its command to the handler of its opcode, whose acceptance it returns; a slot's CTL writes and
its LAST reads in BAR2; a write that sets a reserved bit is logged and changes nothing else. -/
def Obligations.RegisterAccess : Prop :=
  (∀ s r off bytes v t ix, runs s → writable s.dev off bytes v t ix → t.id ∉ ruledRegs →
    exec (.registerWrite r false off bytes v) s = after s (regPut s.dev t.id ix (written s.dev t ix off bytes v))) ∧
  (∀ s r off bytes t ix, runs s → readableAt s.dev off bytes t ix → t.id ∉ ruledReads →
    let x := regValue s.dev t ix
    exec (.registerRead r false off bytes) s = after s (emit s.dev (.regRead r off (BitVec.ofNat 64
      (if bytes = 8 then x else if off % 8 = 0 then x % 2 ^ 32 else x >>> 32))))) ∧
  (∀ s r off bytes v t ix, runs s → sizeOk off bytes = true → regAt (off / 8 * 8) = some (t, ix) →
    regGated s.dev off = false → (t.actsW && bytes == 4) = false → Nat.land (accessValue off bytes v) t.rsv ≠ 0 →
    t.id ∉ ruledRegs →
    exec (.registerWrite r false off bytes v) s = after s (logAccess s.dev r stReserved off false true bytes)) ∧
  (∀ s w off data, runs s → winExists w = true → data.length ∈ [4, 8, 16, 32, 64] → off % data.length = 0 →
    off + data.length ≤ 64 →
    exec (.recordWrite w off data) s = after s (putWin s.dev w { winOf s.dev w with
      record := BitVec.ofNat 512 (putBits (winOf s.dev w).record.toNat (8 * (off + data.length) - 1) (8 * off) (leNat data)) })) ∧
  (∀ s w st, runs s → winExists w = true → recordCheck s.dev w = some st →
    exec (.receiptRead w 8) s = after s (rejectRecord s.dev s.dev w (windowRecord s.dev w).opcode st)) ∧
  (∀ s w o d1 op h d2, runs s → accepted s.dev w o d1 op h → o ∈ longOpcodes → o ≠ 0x30 →
    handlerOf w o d1 (windowRecord s.dev w) (some op) = (some stOk, d2) →
    exec (.receiptRead w 8) s = after s (receipted d2 w o h)) ∧
  (∀ s w o d2, runs s → recordOk s.dev w o → o ∉ longOpcodes →
    handlerOf w o s.dev (windowRecord s.dev w) none = (some stOk, d2) →
    exec (.receiptRead w 8) s = after s (receipted d2 w o 0)) ∧
  (∀ s n v, runs s → n < 64 → Nat.land v.toNat 0xFFFFFFFFFFFF0078 = 0 → bits v.toNat 15 8 ≤ 63 →
    exec (.registerWrite .host true (0x1000 * n + 0x50) 8 v) s =
      after s (putWin s.dev (.slot n) { winOf s.dev (.slot n) with ctl := v })) ∧
  (∀ s n, runs s → n < 64 →
    exec (.registerRead .host true (0x1000 * n + 0x48) 8) s =
      after s (emit s.dev (.slotRead (0x1000 * n + 0x48) (winOf s.dev (.slot n)).last)))

/-- The host port (R437, R440, R457, R459, R462, R537): the link comes up and the host configures the function, a
plain endpoint below 32 GT/s; on a link that is up it is configured anew; the decoder commits only with
back-invalidation and where bring-up allows it; enabling a log sets PROD to 0; a filled entry is read again; the
management port answers its protocols. -/
def Obligations.HostPortEvents : Prop :=
  (∀ s rate width en b0 b2, runs s → s.dev.phase = .running →
    let d := leaveDeep s.dev
    let r := if s.dev.link.up = true then s.dev.link.rate else min rate 3
    let w := if s.dev.link.up = true then s.dev.link.width else min width 3
    exec (.hostLinkUp rate width en b0 b2) s = after s { d with link := { s.dev.link with
      up := true, rate := r, width := w, bar0 := b0, bar2 := b2, memEn := decide (r < 3) && en.mem,
      cacheEn := decide (r < 3) && en.cache, biEn := decide (r < 3) && en.bi } }) ∧
  (∀ s base, runs s → s.dev.link.up = true → exec (.hdmCommit base) s = after s (
    if s.dev.link.biEn = true ∧ s.dev.noHdm = false
    then { s.dev with link := { s.dev.link with committed := true, hdmBase := base, notCommitted := false } }
    else { s.dev with link := { s.dev.link with committed := false, notCommitted := true } })) ∧
  (∀ s r log off bytes v t ix, runs s → log < 16 → off = logCtlOff log → bitAt v.toNat 15 = true →
    writable s.dev off bytes v t ix →
    let x := written s.dev t ix off bytes v
    let n := if t.id = .complogCtl then ix.headD 0 else 8 + ix.headD 0
    bitAt x 15 = true → bits x 3 0 ≤ 10 → bitAt (regGet s.dev t.id ix) 15 = false →
    enableBad s.dev (if n < 8 then regGet s.dev .complogBase ix else regGet s.dev .cwLogBase ix) x = false →
    exec (.complogEnable r log off bytes v) s = after s (regPut { s.dev with
      held := lmod (fun h => logOf s.dev h.op.win == n) (fun h => { h with waited := false }) s.dev.held } t.id ix
      (putBits x 63 32 0))) ∧
  (∀ s log taken h, runs s → headOf s.dev log = some h → logEnabled s.dev log = true → h.waited = true →
    exec (.complogRetry log taken) s = after s (tryHead s.dev log h (some taken)).1) ∧
  (∀ s payload, runs s →
    exec (.managementRequest .mctpControl payload) s = after s (emit (leaveDeep s.dev) (.mgmt (Config.protocolAnswer 0 payload))) ∧
    (s.dev.phase = .running →
      exec (.managementRequest .pldm payload) s = after s (emit (leaveDeep s.dev) (.mgmt (Config.protocolAnswer 1 payload)))))

/-- Resets (R463, R553 to R557): the compute reset is accepted or joins the one in progress; its steps abort
transfers that name stage buffers, settle dirty lines, drop the directory and map repairs, and end with canvases,
cues and tiles fresh; the host port and cold resets follow their receipt; the host's resets act as the board's policy
says. -/
def Obligations.Resets : Prop :=
  (∀ s w d1 op h, runs s → accepted s.dev w 0x30 d1 op h →
    let a := argOf s.dev w 0
    (bits a 7 0 = 1 → regBit s.dev .bootStatus [] 4 = true → exec (.reset w) s =
      after s (receipted (startReset d1 (bitAt a 8) (some op) false) w 0x30 h)) ∧
    (bits a 7 0 = 0 → exec (.reset w) s =
      after s (hostPortReset { receipted d1 w 0x30 h with ops := (receipted d1 w 0x30 h).ops.filter fun o => o.id != op } false)) ∧
    (bits a 7 0 = 2 → exec (.reset w) s = after s (coldReset (receipted d1 w 0x30 h)))) ∧
  (∀ s, runs s → s.dev.creset.active = true → s.dev.creset.phase ≤ 3 → tileAccessWaits s.dev = true →
    exec .computeReset s = after s (setPhase s.dev 2)) ∧
  (∀ s d4 d5, runs s → s.dev.creset.active = true → s.dev.creset.phase ≤ 3 → tileAccessWaits s.dev = false →
    resetStep4 (setPhase (abortXfers (s.dev.canvases.foldl (fun d e => eachTile d e.1 haltEasel) s.dev)) 4) = (d4, true) →
    resetStep5 (setPhase d4 5) = (d5, true) →
    exec .computeReset s = after s (setPhase d5 6)) ∧
  (∀ s f, runs s → s.dev.creset.active = true → s.dev.creset.phase = 6 → seedsWait s.dev = false →
    let d1 := ((testedTiles s.dev).filter fun t => f.badTiles.contains (physTile s.dev t)).foldl
      (fun d t => addDefect d (physTile d t)) s.dev
    let d2 := buildTileMap (discardCanvases (discardCues d1 fun c => tileUnit c.unit))
    let d3 := ((List.range 256).filter fun t => blkServes d2 (quadOf t)).foldl (resetTile f.seeds) d2
    let d4 := s.dev.creset.ops.foldl (fun d o => complete d o stOk) (abortOps (tileResetRegs.foldl regResetAll d3))
    let d5 := regBump ((d4.svcs.map (·.1)).foldl resetSvc (forgetCanvas { d4 with creset := {} })) .resetStatus [] 63 48 1
    exec (.computeResetComplete f) s = after s (moveSvcs (if s.dev.creset.thenPort = true then hostPortReset d5 false else d5))) ∧
  (∀ s, runs s → exec .perst s = after s (if s.dev.board.resetPolicy = 1 then coldReset s.dev else hostPortReset s.dev true)) ∧
  (∀ s, runs s → s.dev.link.up = true →
    exec .functionLevelReset s = after s (hostPortReset s.dev false) ∧
    exec .cxlReset s = after s (startReset s.dev true none true))

/-- Cold reset and bring-up (R536 to R538, R594): the cold reset acts in any state and leaves what R553 keeps; its
release with every rail good runs steps 1 to 6; the lost and the risen power-good signal; the end of the Xeost step
runs the rest, in order. -/
def Obligations.BringUp : Prop :=
  (∀ s, ∃ d, (d = s.dev ∨ d = emit s.dev (.pin "THERM_TRIP_N" true)) ∧
    exec .coldReset s = after s { coldReset d with rstHigh := false, thermTrip := false }) ∧
  (∀ s rail, exec (.powerGoodLoss rail) s = after s { coldReset s.dev with pgLow := nadd rail s.dev.pgLow }) ∧
  (∀ s env, s.dev.phase = .coldHold → s.dev.pgLow = [] →
    exec (.coldResetRelease env) s = after s (boot { s.dev with rstHigh := true } env)) ∧
  (∀ s env, s.dev.phase = .coldHold → s.dev.pgLow ≠ [] → exec (.powerGoodRise env) s =
    after s (if s.dev.rstHigh = true then boot { s.dev with pgLow := [] } env else { s.dev with pgLow := [] })) ∧
  (∀ s e, runs s → s.dev.phase = .bringUp6 →
    let d := bootFirmware (bootStep (bootHost { s.dev with phase := .running } e) 8)
    exec (.xeostStepEnd e) s = after s (bootServices
      (bootSelfTest (if d.fw.running = true then d else { d with noServices := true }) e.selfTestOk) e.doneMs))

/-- Firmware staging and activation (R570 to R574, R583, R584, R587): an image is taken from device memory or turned
away with a status; a whole body ends its staging; a staged image becomes PENDING, at its time or at the next cold
reset; FW_CTL, which core 0 alone writes, confirms a trial, takes an activation back and unwraps the fleet keys. -/
def Obligations.FirmwareCommands : Prop :=
  (∀ s w d1 op h d2, runs s → accepted s.dev w 0x20 d1 op h →
    stageFrom d1 (argOf s.dev w 0) (some (argOf s.dev w 1)) (some op) = (some stOk, d2) →
    exec (.fwStage w) s = after s (receipted d2 w 0x20 h)) ∧
  (∀ s w d1 op h, runs s → accepted s.dev w 0x21 d1 op h → (fwSlot d1 (inactiveSlot d1)).st = .staged →
    let t := argOf s.dev w 0
    let d := changeSlot (modFw d1 fun f => { f with actT := t }) (inactiveSlot d1) fun x => { x with st := .pendingSt }
    (t = 0 → exec (.fwActivate w) s = after s (receipted (completeOpt d (some op) stOk) w 0x21 h)) ∧
    (d1.tb.now + msTicks ≤ t → exec (.fwActivate w) s =
      after s (receipted (modFw d fun f => { f with actOp := some op }) w 0x21 h))) ∧
  (∀ s r bytes v t ix, runs s → writable s.dev (regOff .fwStageAddr []) bytes v t ix →
    let x := accessValue (regOff .fwStageAddr []) bytes v
    (∀ st d1, stageFrom s.dev (bits x 47 0) none none = (some st, d1) →
      exec (.fwStageAddrWrite r bytes v) s = after s (fwReceipt d1 st))) ∧
  (∀ s r bytes v t ix st d1, runs s → writable s.dev (regOff .fwAct []) bytes v t ix →
    activate s.dev (accessValue (regOff .fwAct []) bytes v) none = (st, d1) →
    exec (.fwActWrite r bytes v) s = after s (fwReceipt d1 st)) ∧
  (∀ s x, runs s → s.dev.fw.staging = some x →
    (x.src = none → x.size ≤ x.image.length →
      exec .stagingComplete s = after s (finishStaging s.dev x (x.image.take x.size))) ∧
    (∀ a d1 l bad, x.src = some a → readWhole (withHue s.dev (coreHue s.dev)) (.core 0) a x.size = (d1, some (l, bad)) →
      exec .stagingComplete s = after s (finishStaging d1 x l))) ∧
  (∀ s off bytes v t ix, runs s → writable s.dev off bytes v t ix → off / 8 * 8 = regOff .fwCtl [] →
    let x := accessValue off bytes v
    (bitAt x 0 = true → bitAt x 1 = false → bitAt x 2 = false → inTrial s.dev = true →
      exec (.fwConfirm (.core 0) off bytes v) s = after s (confirm s.dev)) ∧
    (bitAt x 0 = false → bitAt x 1 = true → bitAt x 2 = false → (fwSlot s.dev (inactiveSlot s.dev)).st = .pendingSt →
      exec (.fwCancel (.core 0) off bytes v) s = after s (cancelActivation s.dev)) ∧
    (bitAt x 0 = false → bitAt x 1 = false → bitAt x 2 = true →
      exec (.keyReload (.core 0) off bytes v) s = after s (unwrapKeys s.dev)) ∧
    (∀ r, bitAt x 0 = true → r ≠ .core 0 → exec (.fwConfirm r off bytes v) s =
      after s (emit (logAccess s.dev r stFwAccess off false true bytes) (.regError r off))))

/-- Image starts and trials (R576 to R579): at its time the pending image starts on trial, or the other one when it
does not; a trial that is not confirmed in time falls back through a cold reset; a staged image is offered to the
neighbours, every 60 s; a reception of which no chunk came for 10 s is abandoned. -/
def Obligations.FirmwareLife : Prop :=
  (∀ s, runs s → (fwSlot s.dev (inactiveSlot s.dev)).st = .pendingSt → s.dev.fw.actT ≠ 0 → s.dev.fw.actT ≤ s.dev.tb.now →
    let n := inactiveSlot s.dev
    let r := startImage (beginTrial (stopCores s.dev) n) n
    let fell := completeOpt (endTrial (modFw r.1 fun f => { f with actOp := none }) n) r.1.fw.actOp stFwFallback
    exec .coreRestart s = after s (
      if r.2 = true then moveSvcs r.1
      else if (startImage fell (1 - n)).2 = true then moveSvcs (startImage fell (1 - n)).1
      else fwFail (startImage fell (1 - n)).1 stFwNone)) ∧
  (∀ s, runs s → (fwSlot s.dev s.dev.fw.active).st = .trial → inTrial s.dev = false →
    exec .healthTimeout s = after s (coldReset (settle (endTrial (fwFail s.dev stFwFallback) s.dev.fw.active)))) ∧
  (∀ s, runs s → s.dev.fw.offersLeft ≠ 0 → s.dev.fw.offerAt ≤ s.dev.tb.now →
    let n := inactiveSlot s.dev
    let d := modFw s.dev fun f => { f with offersLeft := f.offersLeft - 1, offerAt := f.offerAt + 60000 * msTicks }
    ((fwSlot s.dev n).st ≠ .staged → (fwSlot s.dev n).st ≠ .pendingSt →
      exec .grapevineOffer s = after s (modFw s.dev fun f => { f with offersLeft := 0 })) ∧
    ((fwSlot s.dev n).st = .staged ∨ (fwSlot s.dev n).st = .pendingSt →
      exec .grapevineOffer s = after s ((transitForm d n).elim d fun l =>
        (d.ports.filter fun e => e.2.st == .active && e.2.grapevine && d.fw.fromPort != some e.1).foldl
          (fun d e => (relayMsgs d e.1 l).foldl (fun d m => queueMsg d e.1 m) d) d))) ∧
  (∀ s x p, runs s → s.dev.fw.staging = some x → x.port = some p → x.image.length < x.size →
    x.heard + 10000 * msTicks ≤ s.dev.tb.now →
    exec .receptionTimeout s = after s (abandon s.dev))

/-- Attestation (R563 to R565): while the firmware runs, each request joins the transcript and has its answer:
version, capabilities, algorithms, the digest and the parts of the chain, a signature under the identity key,
measurements, and UnsupportedRequest for any other. -/
def Obligations.Attestation : Prop :=
  ∀ s, runs s → spdmReady s.dev = true →
    (let d := spdmHear s.dev 0x84 []
     exec .getVersion s = after s (spdmAnswer d 0x04 []) ∧ d.fw.transcript = [0x84]) ∧
    exec .getCapabilities s = after s (spdmAnswer (spdmHear s.dev 0xE1 []) 0x61 []) ∧
    exec .negotiateAlgorithms s = after s (spdmAnswer (spdmHear s.dev 0xE3 []) 0x63 []) ∧
    exec .getDigests s = after s (spdmAnswer (spdmHear s.dev 0x81 []) 0x01
      (if s.dev.fw.certOk = true then sha3_512 (certChain s.dev) else [])) ∧
    (∀ off len, let d := spdmHear s.dev 0x82 (leBytes 2 off ++ leBytes 2 len)
      exec (.getCertificate off len) s = after s (
        if s.dev.fw.certOk = true then spdmAnswer d 0x02 (slice (certChain s.dev) off len) else spdmAnswer d 0x7F [1])) ∧
    (∀ nonce, let d := spdmHear s.dev 0x83 nonce
      exec (.challenge nonce) s = after s (spdmAnswer d 0x03 (spdmSign d))) ∧
    (∀ index nonce signed, let d := spdmHear s.dev 0xE0 (leBytes 1 index ++ leBytes 1 signed.toNat ++ nonce)
      exec (.getMeasurements index nonce signed) s = after s (spdmAnswer d 0x60
        (measurement s.dev index ++ (if signed = true then spdmSign d else [])))) ∧
    (∀ code, exec (.spdmUnsupportedRequest code) s =
      after s (spdmAnswer (spdmHear s.dev code []) 0x7F (leBytes 1 7 ++ leBytes 1 code)))

/-- Service loads and control (R477, R478, R485): a load from the flash lands in device memory; one from a peer ends
with its transfer; a WAIT load ends when the word holds its value, and polls again where it does not; START and STOP
act by state: START of a STOPPED service takes its stopped canvas back, or with RELOAD unloads it and begins the
loads, as from FAILED and DISABLED, where without RELOAD its image is loaded; STOP takes a WAITING, LOADING or
RUNNING service to STOPPING, where the loads end first and a LOOP its step; a faulted service canvas is unloaded
through the command port, and the service restarts while restarts are left and fails when none is. -/
def Obligations.ServiceControl : Prop :=
  (∀ s n v e, runs s → svcOf s.dev n = some v → loading v = some e →
    (e.src = 0 → s.dev.flashOk = true → backed s.dev e.dstAddr e.size = true →
      let r := devWrite (withHue s.dev (coreHue s.dev)) (.core v.core) e.dstAddr (nvmBytes s.dev e.srcAddr e.size)
      r.2 = true → exec (.serviceLoadDone n true) s = after s (loadDone r.1 n)) ∧
    (e.src = 0 → exec (.serviceLoadDone n false) s = after s (loadFailed s.dev n stNvm)) ∧
    (∀ ok st, e.src = 1 → v.xferEnd = some (v.xfer, st) →
      exec (.serviceLoadDone n ok) s = after s (if st = stOk then loadDone s.dev n else loadFailed s.dev n st)) ∧
    (∀ d1 l, e.src = 2 → svcRead s.dev v e.srcAddr 8 = (d1, some l) →
      exec (.waitPoll n) s = after s (if leNat l = e.size then loadDone d1 n else d1))) ∧
  (∀ s r n bytes v t x, runs s → n < 16 → writable s.dev (regOff .svcCtl [n]) bytes v t [n] →
    s.dev.fw.running = true → svcOf s.dev n = some x → bitAt v.toNat 1 = true →
    let c := accessValue (regOff .svcCtl [n]) bytes v
    bitAt c 1 = true → bitAt c 0 = false →
    let d := modSvc s.dev n fun v => { v with used := 0, step := 0, stopWait := false }
    (∀ k y, x.st = .stopped → bitAt c 2 = false → x.canvas = some k → canvasOf s.dev k = some y → y.st = .stopped →
      y.unloading = false → exec (.svcStart r n (regOff .svcCtl [n]) bytes v) s =
        after s (moveSvcs (skipLoads (modCanvas d k fun c => { c with owner := some n }) n))) ∧
    (x.st = .stopped ∨ x.st = .failed ∨ x.st = .disabled → bitAt c 2 = true →
      exec (.svcStart r n (regOff .svcCtl [n]) bytes v) s = after s (moveSvcs (startLoads (portUnload d n x) n))) ∧
    (x.st = .failed ∨ x.st = .disabled → bitAt c 2 = false →
      exec (.svcStart r n (regOff .svcCtl [n]) bytes v) s = after s (moveSvcs (skipLoads (portUnload d n x) n)))) ∧
  (∀ s r n bytes v t x, runs s → n < 16 → writable s.dev (regOff .svcCtl [n]) bytes v t [n] →
    s.dev.fw.running = true → svcOf s.dev n = some x → bitAt v.toNat 0 = true →
    let c := accessValue (regOff .svcCtl [n]) bytes v
    bitAt c 0 = true → bitAt c 1 = false →
    (x.st = .waiting ∨ x.st = .loading ∨ x.st = .running →
      let keep := if x.st = .loading then decide (x.loadIx < x.loads.length) else x.st == .running && x.kind == 3
      exec (.svcStop r n (regOff .svcCtl [n]) bytes v) s = after s
        (moveSvcs (modSvc (setSvc s.dev n .stopping) n fun v => { v with stopWait := keep })))) ∧
  (∀ s n v k c, runs s → svcOf s.dev n = some v → v.canvas = some k → canvasOf s.dev k = some c → c.st = .faulted →
    c.unloading = false → c.owner = some n →
    let d := portUnload (endRequests s.dev n c.faultSt) n v
    (v.st = .running → v.used < v.restarts → exec (.serviceCanvasFaulted n) s = after s
      (moveSvcs (modSvc (setSvc d n .starting) n fun v => { v with used := v.used + 1, lastStatus := c.faultSt }))) ∧
    (v.st = .running → v.restarts ≤ v.used → exec (.serviceCanvasFaulted n) s = after s (failSvc d n c.faultSt)) ∧
    (v.st = .stopping → exec (.serviceCanvasFaulted n) s =
      after s (moveSvcs (modSvc (endRequests s.dev n c.faultSt) n fun v => { v with stopWait := false }))))

/-- Services at work (R479, R481, R482): a period releases a step into each line's signal word; a poll admits
entries, ends a delivery, and tries the entries that it ends and the admitted ones; a LOOP whose step is counted
takes its checkpoint or goes on. -/
def Obligations.ServiceWork : Prop :=
  (∀ s n v k c, runs s → svcOf s.dev n = some v → ownedBy s.dev n = some k → canvasOf s.dev k = some c →
    c.st = .running → s.dev.creset.active = false →
    (v.kind = 1 → v.st = .running → exec (.stepRelease n) s =
      after s (modSvc (releaseStep s.dev n c s.dev.tb.now (svcLines v)) n countStep)) ∧
    (v.kind = 2 → v.admitted ≠ [] → exec (.stepRelease n) s =
      after s (releaseStep s.dev n c s.dev.tb.now (svcLines v)))) ∧
  (∀ s n v, runs s → svcOf s.dev n = some v → v.kind = 2 → s.dev.creset.active = false →
    let ended := fun (d : Dev) => (svcOf d n).elim d (endDelivery d n)
    let told := fun (d : Dev) => (svcOf d n).elim d fun v => v.ending.foldl (tryEnding n) d
    let tried := fun (d : Dev) => (svcOf d n).elim d fun v => v.admitted.foldl (tryEntry n) d
    (v.st = .running → exec (.servePoll n) s = after s (moveSvcs (tried (told (ended (admitEntries s.dev n v)))))) ∧
    (v.st ≠ .running → exec (.servePoll n) s = after s (moveSvcs (tried (told (ended s.dev)))))) ∧
  (∀ s n v d1 l, runs s → svcOf s.dev n = some v → v.kind = 3 → v.ckptOn = false →
    (v.st = .running ∨ (v.st = .stopping ∧ v.stopWait = true)) → s.dev.creset.active = false → svcRead s.dev v (svcParam v 2) 8 = (d1, some l) →
    (leNat l < v.step → exec (.loopStepDone n) s = after s d1) ∧
    (v.step ≤ leNat l → svcParam v 3 = 0 ∨ v.step % svcParam v 3 ≠ 0 → exec (.loopStepDone n) s = after s (loopNext d1 n v)) ∧
    (v.step ≤ leNat l → svcParam v 3 ≠ 0 → v.step % svcParam v 3 = 0 → checkpointWaits d1 v (bits (svcParam v 5) 7 0) = false →
      exec (.loopStepDone n) s = after s (modSvc
        ((List.range (bits (svcParam v 5) 7 0)).foldl (submitCheckpoint n v) d1) n fun v => { v with ckptOn := true }))) ∧
  (∀ s n v, runs s → svcOf s.dev n = some v → v.ckptOn = true → (∀ x ∈ s.dev.xfers, x.origin ≠ .service n) →
    exec (.loopCheckpointDone n) s = after s (loopNext s.dev n v))

/-- Telemetry, power limit and sequencers (R492, R493, R496 to R499, R501, R502, R516, R520, R523): a poll keeps what
each rail reads; the end of a window writes the averages and moves the levers, once; the power manager acts each
2,000 ticks; a sequencer takes its target, its voltage and its clock in order, times out to STABLE, and tries again;
a reading moves the used temperature and what follows from it; expired grace enforces. -/
def Obligations.PowerManagement : Prop :=
  (∀ s rails, runs s → exec (.pmbusPoll rails) s =
    after s (((rails.take 7).mapIdx fun i x => (i, x)).foldl takeRail s.dev)) ∧
  (∀ s domains models paces, runs s → s.dev.tb.now / 2000000 ≠ s.dev.windowNo →
    let d0 := { s.dev with windowNo := s.dev.tb.now / 2000000 }
    let d1 := (List.range 24).foldl (fun d n => regPut d .pwrDom [n] (domainWord d n (domainAt domains n))) d0
    let d2 := (List.range 7).foldl senseRail (regSetField d1 .pwrPkg [] 47 32 (min 0xFFFF (packageMw d1 / 1000)))
    let d3 := putPaces (models.foldl takeModel d2) .thermTile paces
    exec (.telemetryWindowEnd domains models paces) s = after s (if d3.phase = .shutdown then d3 else leversWindow d3)) ∧
  (∀ s e, runs s → s.dev.tb.now % 2000 = 0 → s.dev.managedAt ≠ some s.dev.tb.now →
    exec (.powerManagerTick e) s = after s (manageVcore { s.dev with managedAt := some s.dev.tb.now } e)) ∧
  (∀ s r, runs s → exec (.sequencerTarget r (wantedPoint s.dev r)) s = after s (seqTarget s.dev r (wantedPoint s.dev r))) ∧
  (∀ s r, runs s →
    let x := seqOf s.dev r
    (x.st = .raiseV → x.mv = x.goal → exec (.voltageSettled r) s = after s (putSeq s.dev r { x with st := .raiseF })) ∧
    (x.st = .lowerV → x.mv = x.goal → exec (.voltageSettled r) s = after s (seqStable s.dev r)) ∧
    (x.st = .raiseF → exec (.clockSwitchDone r) s = after s (seqStable (putSeq s.dev r { x with point := x.target }) r)) ∧
    (x.st = .lowerF → exec (.clockSwitchDone r) s = after s (
      let d := writeRail (putSeq s.dev r { x with point := x.target }) r (pointMv r x.target)
      putSeq d r { seqOf d r with st := .lowerV })) ∧
    (x.st = .raiseV ∨ x.st = .lowerV → exec (.sequencerTimeout r) s =
      after s (logErr (putSeq s.dev r { x with st := .stable, retry := some x.target }) stVpmFault ukStem (railNo r) 3)) ∧
    (∀ p, x.st = .stable → x.retry = some p → x.point ≠ p → exec (.sequencerRetry r) s = after s (seqStart s.dev r p))) ∧
  (∀ s id reading model, runs s → (∀ k, id ≠ .stem k) → siteFitted s.dev id = true →
    exec (.sensorReading id reading model) s = after s (actOnTemp (takeReading s.dev id reading model) id)) ∧
  (∀ s l t, runs s → l < 4 → (lever s.dev l).grace = some t → (lever s.dev l).request = true → (lever s.dev l).enforce = false →
    t + msTicks * regField s.dev .thermCtl [] 47 32 ≤ s.dev.tb.now →
    exec (.graceExpires l) s = after s (thermalSignal (logErr (putLever s.dev l { lever s.dev l with enforce := true })
      stThermalEnforce ukStem 0 3) stThermalEnforce))

/-- Power states (R503 to R506): an idle tile naps, and dozes after DOZE_IDLE, when its next known event is far
enough; a dozing tile forgets what its easel cells hold and reloads when it wakes; a stack rests and wakes; deep
begins when nothing runs, and ends. -/
def Obligations.PowerStates : Prop :=
  (∀ s t, runs s →
    let x := tileOf s.dev t
    (x.present = true → blkServes s.dev (quadOf t) = true → x.pwr = .run → tileIdle s.dev t = true →
      quietFor s.dev (tileKnown s.dev t) 80 = true → exec (.tileNapEnter t) s =
        after s (setPwr (modTile s.dev t fun tl => { tl with napAt := s.dev.tb.now }) t .nap)) ∧
    (x.pwr = .nap → exec (.tileNapWake t) s = after s (setPwr s.dev t .run)) ∧
    (x.pwr = .nap → regBit s.dev .pwrCtl [] 1 = true → tileIdle s.dev t = true →
      quietFor s.dev (tileKnown s.dev t) 8000 = true →
      x.napAt + usTicks * regField s.dev .pwrCtl [] 23 16 ≤ s.dev.tb.now → exec (.tileDozeEnter t) s = after s (dozeTile s.dev t)) ∧
    (x.pwr = .doze → s.dev.deep = false → exec (.tileDozeWake t) s = after s (wakeDoze s.dev t))) ∧
  (∀ s n, runs s →
    let x := stackOf s.dev n
    (x.populated = true → x.resting = false → regBit s.dev .pwrCtl [] 2 = true → s.dev.link.memEn = false →
      (∀ e ∈ s.dev.sessions, bitAt e.2.desc.stackMask n = false) → quietFor s.dev (deviceKnown s.dev) 200000 = true →
      x.accessAt + 100 * usTicks * regField s.dev .pwrCtl [] 15 8 ≤ s.dev.tb.now →
      exec (.stackRestEnter n) s = after s (setRest s.dev n true)) ∧
    (x.resting = true → s.dev.deep = false → exec (.stackRestWake n) s = after s (setRest s.dev n false))) ∧
  (∀ s, runs s → mayDeepen s.dev = true →
    let d1 := (List.range 256).foldl (fun d t => if (tileOf d t).present then dozeTile d t else d) { s.dev with deep := true }
    let d2 := (List.range 16).foldl (fun d n => if (stackOf d n).populated then setRest d n true else d) d1
    exec .deepEnter s = after s (seqTarget (seqTarget d2 .rind (wantedPoint d2 .rind)) .stem (wantedPoint d2 .stem))) ∧
  (∀ s, runs s → s.dev.deep = true →
    let d := { s.dev with deep := false }
    exec .deepExit s = after s (seqTarget (seqTarget d .rind (wantedPoint d .rind)) .stem (wantedPoint d .stem)))

/-- Gated blocks and vertical bonds (R507 to R510, R548, R549, R617): a write of BLK_ENABLE moves every block whose
bit changes, or none where a quadrant in use would go; power-up ends in ON, of a quadrant once its tiles can be
seeded; a drained block powers down, or goes on with what it held; failed bonds wait for a quiescent point and are
swapped there. -/
def Obligations.BlocksAndBonds : Prop :=
  (∀ s r off bytes v t ix, runs s → writable s.dev off bytes v t ix → off / 8 * 8 = regOff .blkEnable [] →
    let old := regGet s.dev .blkEnable
    let new := written s.dev t ix off bytes v
    let moved := (List.range 31).foldl (fun d k =>
      if bitAt new k == bitAt old k then d else if bitAt new k then turnOn d k else turnOff d k) (regPut s.dev .blkEnable [] new)
    ((∀ q < 4, bitAt old q = true → bitAt new q = false → quadInUse s.dev q = false) →
      (enableChanges s.dev off bytes v true = true → exec (.blockEnable r off bytes v) s = after s moved) ∧
      (enableChanges s.dev off bytes v false = true → exec (.blockDisable r off bytes v) s = after s moved)) ∧
    (∀ q < 4, bitAt old q = true → bitAt new q = false → quadInUse s.dev q = true →
      enableChanges s.dev off bytes v false = true →
      exec (.blockDisable r off bytes v) s = after s (logAccess s.dev r stBlockInUse off false true bytes))) ∧
  (∀ s k, runs s → k < 31 →
    (blkState s.dev k = .waking → (k < 4 → seedsWait s.dev = false) → exec (.blockPoweredUp k) s = after s (startBlock (setBlk s.dev k .on) k)) ∧
    (drained s.dev k = true → blkState s.dev k = .draining → exec (.blockDrainComplete k) s = after s (powerDown s.dev k)) ∧
    (drained s.dev k = true → blkState s.dev k = .onPending →
      exec (.blockDrainComplete k) s = after s (releaseHeld (setBlk s.dev k .on) k))) ∧
  (∀ s slice port, runs s → slice < 256 → port < 2 →
    (∀ failed, failed ≠ [] → exec (.laneTest slice port failed) s = after s (failBonds s.dev slice port failed)) ∧
    ((vportOf s.dev slice port).waiting ≠ [] →
      exec (.bondSwap slice port) s = after s (swapWaiting s.dev slice port) ∧
      exec (.quiescenceTimeout slice port) s =
        after s (putVport s.dev slice port { vportOf s.dev slice port with forced := true })))
end

