-- ==== Sys2Proof/Laws/Settle.lean ====
section
/-! SUPPORT. What every command ends with: settling changes nothing outside what `Safety.rest` blanks. One lemma per
operation that settling reaches, each cited by the next. -/
namespace Sys2Proof.Laws
open Sys2Proof.Machine Sys2Proof.Safety

theorem foldl_rest {α : Type} (f : Dev → α → Dev) (h : ∀ d a, rest (f d a) = rest d) (l : List α) (d : Dev) :
    rest (l.foldl f d) = rest d := by
  induction l generalizing d with
  | nil => rfl
  | cons a t ih => rw [List.foldl_cons, ih, h]

theorem foldl_fst_rest {α β : Type} (f : Dev × β → α → Dev × β) (h : ∀ x a, rest (f x a).1 = rest x.1) (l : List α)
    (x : Dev × β) : rest (l.foldl f x).1 = rest x.1 := by
  induction l generalizing x with
  | nil => rfl
  | cons a t ih => rw [List.foldl_cons, ih, h]

/-! ### Registers, outputs, logs -/

@[simp] theorem rest_regPut (d : Dev) (r : RegId) (ix : List Nat) (v : Nat) : rest (regPut d r ix v) = rest d := rfl
@[simp] theorem rest_regSetField (d : Dev) (r : RegId) (ix : List Nat) (hi lo x : Nat) :
    rest (regSetField d r ix hi lo x) = rest d := rfl
@[simp] theorem rest_regSetBit (d : Dev) (r : RegId) (ix : List Nat) (i : Nat) : rest (regSetBit d r ix i) = rest d := rfl
@[simp] theorem rest_regClearBit (d : Dev) (r : RegId) (ix : List Nat) (i : Nat) :
    rest (regClearBit d r ix i) = rest d := rfl
@[simp] theorem rest_regBump (d : Dev) (r : RegId) (ix : List Nat) (hi lo n : Nat) :
    rest (regBump d r ix hi lo n) = rest d := rfl
@[simp] theorem rest_regBumpSat (d : Dev) (r : RegId) (ix : List Nat) (hi lo n : Nat) :
    rest (regBumpSat d r ix hi lo n) = rest d := rfl
@[simp] theorem rest_emit (d : Dev) (o : Output) : rest (emit d o) = rest d := rfl
@[simp] theorem rest_logErr (d : Dev) (st : Half) (k u c a e v : Nat) : rest (logErr d st k u c a e v) = rest d := rfl
@[simp] theorem rest_withHue (d : Dev) (h : Nat) : rest (withHue d h) = rest d := rfl
@[simp] theorem rest_putSlice (d : Dev) (s : Nat) (x : Slice) : rest (putSlice d s x) = rest d := rfl
@[simp] theorem rest_modSlice (d : Dev) (s : Nat) (f : Slice → Slice) : rest (modSlice d s f) = rest d := rfl
@[simp] theorem rest_repairRecord (d : Dev) (l : List Nat) : rest (repairRecord d l) = rest d := rfl
@[simp] theorem rest_clearUndef (d : Dev) (a : Nat) : rest (clearUndef d a) = rest d := rfl
@[simp] theorem rest_breakResv (d : Dev) (a n : Nat) : rest (breakResv d a n) = rest d := rfl
@[simp] theorem rest_nvmWrite (d : Dev) (a : Nat) (bs : List Byte) : rest (nvmWrite d a bs) = rest d := rfl
@[simp] theorem rest_dropHead (d : Dev) (h : Held) : rest (dropHead d h) = rest d := rfl

@[simp] theorem rest_setHbm (d : Dev) (m : Mem) : rest { d with hbm := m } = rest d := rfl
@[simp] theorem rest_setStks (d : Dev) (m : Tab Stack) : rest { d with stks := m } = rest d := rfl
@[simp] theorem rest_setErrq (d : Dev) (m : List ErrRec) : rest { d with errq := m } = rest d := rfl
@[simp] theorem rest_setMerges (d : Dev) (m : Tab Merge) : rest { d with merges := m } = rest d := rfl
@[simp] theorem rest_setHeld (d : Dev) (m : List Held) : rest { d with held := m } = rest d := rfl
@[simp] theorem rest_setResv (d : Dev) (m : Tab (Nat × Nat)) : rest { d with resv := m } = rest d := rfl
@[simp] theorem rest_setRas (d : Dev) (b : Bool) : rest { d with rasInternal := b } = rest d := rfl
@[simp] theorem rest_setMsixPend (d : Dev) (m : List Nat) : rest { d with msixPend := m } = rest d := rfl
@[simp] theorem rest_setFreeCnt (d : Dev) (m : Nat) : rest { d with freeCnt := m } = rest d := rfl
@[simp] theorem rest_setLost (d : Dev) (m : List Lost) : rest { d with lost := m } = rest d := rfl
@[simp] theorem rest_setAccesses (d : Dev) (m : List Access) : rest { d with accesses := m } = rest d := rfl
@[simp] theorem rest_setPrefetches (d : Dev) (m : List Prefetch) : rest { d with prefetches := m } = rest d := rfl
@[simp] theorem rest_touchStack (d : Dev) (s : Nat) : rest (touchStack d s) = rest d := rfl
@[simp] theorem rest_takeLost (d : Dev) (w : LostBy) (a : Nat) : rest (takeLost d w a) = rest d := rfl
@[simp] theorem rest_setRepairq (d : Dev) (m : List (List Byte)) : rest { d with repairq := m } = rest d := rfl
@[simp] theorem rest_setRepairCnt (d : Dev) (m : Nat) : rest { d with repairCnt := m } = rest d := rfl
@[simp] theorem rest_setHueWin (d : Dev) (m : Tab Nat) : rest { d with hueWin := m } = rest d := rfl
@[simp] theorem rest_setLevels (d : Dev) (a : Bool) (b : List Nat) :
    rest { d with lvlErr := a, lvlPorts := b } = rest d := rfl

@[simp] theorem rest_drawBool (d : Dev) : rest (drawBool d).2 = rest d := rfl

@[simp] theorem rest_sendMsix (d : Dev) (v : Nat) : rest (sendMsix d v) = rest d := by
  unfold sendMsix; split <;> simp

@[simp] theorem rest_logCorrected (d : Dev) (k u a e : Nat) : rest (logCorrected d k u a e) = rest d := by
  unfold logCorrected; dsimp only; split <;> simp

@[simp] theorem rest_rollWindow (d : Dev) : rest (rollWindow d) = rest d := by
  unfold rollWindow; dsimp only; split <;> rfl

@[simp] theorem rest_hueGrant (d : Dev) (r : Regulator) (h n : Nat) : rest (hueGrant d r h n) = rest d := by
  unfold hueGrant; dsimp only; simp only [rest_regBump, rest_setHueWin]
  split
  · simp
  · rw [foldl_rest _ (fun d a => by simp)]; simp

@[simp] theorem rest_hueGrants (d : Dev) (r : Regulator) (h n k : Nat) : rest (hueGrants d r h n k) = rest d := by
  unfold hueGrants; dsimp only; split <;> simp

@[simp] theorem rest_grantHbm (d : Dev) (a n : Nat) : rest (grantHbm d a n) = rest d := by unfold grantHbm; simp
@[simp] theorem rest_grantSlice (d : Dev) (s n : Nat) : rest (grantSlice d s n) = rest d := rest_hueGrant ..

/-! ### HBM -/

@[simp] theorem rest_logHole (d : Dev) (l : Loc) : rest (logHole d l) = rest d := by
  unfold logHole; dsimp only; split <;> simp

@[simp] theorem rest_hbmUe (d : Dev) (l : Loc) : rest (hbmUe d l) = rest d := by
  unfold hbmUe; dsimp only; split <;> simp

@[simp] theorem rest_smudgeHbm (d : Dev) (s w : Nat) : rest (smudgeHbm d s w) = rest d := by
  unfold smudgeHbm; dsimp only; split <;> simp

@[simp] theorem rest_hbmRead (d : Dev) (a : Nat) : rest (hbmRead d a).1 = rest d := by
  unfold hbmRead; dsimp only; split
  · simp
  · split
    · rfl
    · split <;> simp

@[simp] theorem rest_hbmWrite (d : Dev) (a : Nat) (v : DWord) (m : Nat) (p : Bool) :
    rest (hbmWrite d a v m p) = rest d := by
  unfold hbmWrite; dsimp only; split
  · simp
  · split
    · rfl
    · split <;> simp

@[simp] theorem rest_hbmWriteBytes (d : Dev) (a : Nat) (bs : List Byte) (p : Bool) :
    rest (hbmWriteBytes d a bs p) = rest d := foldl_rest _ (fun d a => by simp) ..

/-! ### The cache -/

@[simp] theorem rest_putLine (d : Dev) (s k : Nat) (l : Line) : rest (putLine d s k l) = rest d := rfl
@[simp] theorem rest_delLine (d : Dev) (s k : Nat) : rest (delLine d s k) = rest d := rfl
@[simp] theorem rest_touchLine (d : Dev) (s k : Nat) : rest (touchLine d s k) = rest d := rfl
@[simp] theorem rest_dirDel (d : Dev) (s k : Nat) : rest (dirDel d s k) = rest d := rfl
@[simp] theorem rest_dropWb (d : Dev) (s i : Nat) (t : Bool) : rest (dropWb d s i t) = rest d := rfl
@[simp] theorem rest_openFill (d : Dev) (s i k : Nat) (x : LineKind) : rest (openFill d s i k x) = rest d := rfl
@[simp] theorem rest_keepDir (e d : Dev) (s : Nat) : rest (keepDir e d s) = rest d := rfl

@[simp] theorem rest_krUe (d : Dev) (s t : Nat) : rest (krUe d s t) = rest d := by
  unfold krUe; dsimp only; split
  · simp
  · split <;> simp

@[simp] theorem rest_smudgeKr (d : Dev) (s k w : Nat) : rest (smudgeKr d s k w) = rest d := by
  unfold smudgeKr; dsimp only; split
  · split <;> simp
  · rfl

@[simp] theorem rest_lineRead (d : Dev) (s k w : Nat) : rest (lineRead d s k w).1 = rest d := by
  unfold lineRead; dsimp only; split
  · rfl
  · split <;> simp

@[simp] theorem rest_bufferRead (d : Dev) (s i : Nat) (t : Bool) (w : Nat) : rest (bufferRead d s i t w).1 = rest d := by
  unfold bufferRead; dsimp only; split
  · rfl
  · split <;> simp

@[simp] theorem rest_homeWord (d : Dev) (s i : Nat) (t : Bool) (w : Nat) : rest (homeWord d s i t w).1 = rest d := by
  unfold homeWord; dsimp only
  repeat' split
  all_goals simp

@[simp] theorem rest_writeBackUnder (d : Dev) (h : Nat) (l : Line) : rest (writeBackUnder d h l) = rest d := by
  unfold writeBackUnder; dsimp only; rw [rest_withHue, foldl_rest _ (fun d a => by simp), foldl_rest, rest_withHue]
  intro d a; split <;> simp

@[simp] theorem rest_writeBack (d : Dev) (l : Line) : rest (writeBack d l) = rest d := rest_writeBackUnder ..

@[simp] theorem rest_engineGrant (d : Dev) (s h n : Nat) : rest (engineGrant d s h n) = rest d := by
  unfold engineGrant; split <;> simp

@[simp] theorem rest_scrubLine (d : Dev) (s k : Nat) : rest (scrubLine d s k) = rest d := by
  unfold scrubLine; split
  · rfl
  · exact foldl_rest _ (fun d a => by simp) ..

@[simp] theorem rest_scrubBuffer (d : Dev) (s i : Nat) (t : Bool) : rest (scrubBuffer d s i t) = rest d := by
  unfold scrubBuffer; split
  · rfl
  · exact foldl_rest _ (fun d a => by simp) ..

theorem rest_evictKey {d d' : Dev} {s k : Nat} (h : evictKey d s k = some d') : rest d' = rest d := by
  unfold evictKey at h; split at h
  · cases h; rfl
  · split at h
    · split at h
      · cases h
      · cases h; simp
    · cases h; simp

theorem rest_allocWay {d : Dev} {s a : Nat} {t : Bool} {r : Dev × Nat × LineKind} (h : allocWay d s a t = some r) :
    rest r.1 = rest d := by
  unfold allocWay at h; split at h
  · simp only [Option.bind_eq_some_iff, Option.map_eq_some_iff] at h
    obtain ⟨k, -, e, he, rfl⟩ := h; exact rest_evictKey he
  · split at h
    · dsimp only at h; split at h
      · simp only [Option.map_eq_some_iff] at h
        obtain ⟨e, he, rfl⟩ := h; exact rest_evictKey he
      · cases h
    · simp only [Option.bind_eq_some_iff, Option.map_eq_some_iff] at h
      obtain ⟨k, -, e, he, rfl⟩ := h; exact rest_evictKey he

theorem rest_allocLine {d : Dev} {s a : Nat} {t : Bool} {r : Dev × Nat} (h : allocLine d s a t = some r) :
    rest r.1 = rest d := by
  unfold allocLine at h; simp only [Option.map_eq_some_iff] at h
  obtain ⟨e, he, rfl⟩ := h; simp [rest_allocWay he]

@[simp] theorem rest_countAcc (d : Dev) (s : Nat) (h p : Bool) : rest (countAcc d s h p) = rest d := by
  unfold countAcc; dsimp only; split <;> split <;> simp

@[simp] theorem rest_addStone (d : Dev) (s i : Nat) : rest (addStone d s i) = rest d := by
  unfold addStone; dsimp only; split
  · rfl
  · split <;> simp

@[simp] theorem rest_wbBegun (d : Dev) (s i : Nat) (t : Bool) : rest (wbBegun d s i t).2 = rest d := by
  unfold wbBegun; split
  · split <;> simp
  · rfl

@[simp] theorem rest_spend (d : Dev) (s i : Nat) (t : Bool) : rest (spend d s i t) = rest d := by
  unfold spend; dsimp only
  repeat' split
  all_goals simp

@[simp] theorem rest_rereadStone (d : Dev) (s i : Nat) : rest (rereadStone d s i) = rest d := by
  unfold rereadStone; simp

@[simp] theorem rest_startSnoop (d : Dev) (s i : Nat) (v : Bool) : rest (startSnoop d s i v) = rest d := by
  unfold startSnoop; dsimp only; split <;> simp

@[simp] theorem rest_homeWords (d : Dev) (s : Nat) (t : Bool) (a n : Nat) : rest (homeWords d s t a n).1 = rest d :=
  foldl_fst_rest _ (fun x a => by simp) ..

@[simp] theorem rest_hbmWords (d : Dev) (a n : Nat) : rest (hbmWords d a n).1 = rest d :=
  foldl_fst_rest _ (fun x a => by simp) ..

@[simp] theorem rest_mergeMasked (d : Dev) (s k i : Nat) : rest (mergeMasked d s k i) = rest d := by
  unfold mergeMasked; dsimp only; split
  · rfl
  · split
    · rfl
    · split
      · rw [foldl_rest, rest_grantHbm]
        intro d a; split
        · rfl
        · split
          · rfl
          · split <;> simp
      · rw [rest_smudgeKr, rest_putLine, foldl_rest, rest_grantHbm]
        intro d a; split
        · rfl
        · split
          · rfl
          · split <;> simp

theorem rest_prepareRead {d e : Dev} {s a : Nat} {t sp : Bool} (h : prepareRead d s a t sp = some e) :
    rest e = rest d := by
  unfold prepareRead at h; dsimp only at h
  split at h
  · split at h
    · cases h; simp
    · cases h; simp
    · cases h; simp
    · split at h
      · split at h
        · cases h
        · cases h; simp
      · split at h
        · cases h
        · cases h; simp
  · split at h
    · split at h <;> cases h <;> simp
    · split at h
      · cases h; simp
      · split at h
        · cases h
        · simp only [Option.map_eq_some_iff] at h
          obtain ⟨r, hr, rfl⟩ := h
          simp [rest_allocLine hr]

@[simp] theorem rest_sectorReadAt (d : Dev) (ag : Agent) (a n : Nat) (sp : ReadPart) :
    rest (sectorReadAt d ag a n sp).1 = rest d := by
  unfold sectorReadAt; dsimp only; split
  · rfl
  · rfl
  · split <;> simp
  · split
    · simp
    · split
      · dsimp only; split <;> simp
      · split
        · rfl
        · rename_i h
          dsimp only; split <;> simp [rest_prepareRead h]

@[simp] theorem rest_sectorRead (d : Dev) (ag : Agent) (a n : Nat) (sp : ReadPart) :
    rest (sectorRead d ag a n sp).1 = rest d := by
  unfold sectorRead; dsimp only; split
  · split <;> simp
  · simp

@[simp] theorem rest_devReadWords (d : Dev) (ag : Agent) (a n : Nat) (sp : Bool) :
    rest (devReadWords d ag a n sp).1 = rest d := by
  refine foldl_fst_rest _ (fun x a => ?_) _ _
  split <;> simp

@[simp] theorem rest_devRead (d : Dev) (ag : Agent) (a n : Nat) (sp : Bool) :
    rest (devRead d ag a n sp).1 = rest d := rest_devReadWords ..

@[simp] theorem rest_applyWrite (d : Dev) (s k a : Nat) (bs : List Byte) (p : Bool) :
    rest (applyWrite d s k a bs p) = rest d := by
  unfold applyWrite; dsimp only; split
  · rfl
  · rw [rest_smudgeKr, rest_putLine]; split
    · rfl
    · exact foldl_rest _ (fun d a => by split <;> simp) _ _

@[simp] theorem rest_writeStone (d : Dev) (s k a : Nat) (bs : List Byte) (p : Bool) :
    rest (writeStone d s k a bs p) = rest d := by
  unfold writeStone; split <;> simp

theorem rest_reallocWb {d : Dev} {s a : Nat} {t : Bool} {r : Dev × Nat} (h : reallocWb d s a t = some r) :
    rest r.1 = rest d := by
  unfold reallocWb at h; dsimp only at h; split at h
  · cases h
  · simp only [Option.map_eq_some_iff] at h
    obtain ⟨e, he, rfl⟩ := h
    have := rest_allocLine he
    simp only [rest_smudgeKr, rest_modSlice, this, rest_dropWb]
    split <;> simp

theorem rest_homeWrite {d e : Dev} {s a : Nat} {t : Bool} {bs : List Byte} {p : Bool}
    (h : homeWrite d s a t bs p = some e) : rest e = rest d := by
  unfold homeWrite at h; dsimp only at h; split at h
  · simp only [Option.map_eq_some_iff] at h
    obtain ⟨r, hr, rfl⟩ := h
    simp [rest_allocLine hr]
  · split at h
    · split at h <;> cases h <;> simp
    · simp only [Option.map_eq_some_iff] at h
      obtain ⟨r, hr, rfl⟩ := h
      have : rest r.1 = rest d := by
        split at hr
        · exact rest_reallocWb hr
        · exact rest_allocLine hr
      simp [this]

@[simp] theorem rest_sectorWriteAt (d : Dev) (ag : Agent) (a : Nat) (bs : List Byte) (p : Bool) :
    rest (sectorWriteAt d ag a bs p).1 = rest d := by
  unfold sectorWriteAt; split
  · rfl
  · rfl
  · split <;> simp
  · split
    · simp
    · split
      · rename_i h; simp [rest_homeWrite h]
      · rfl

@[simp] theorem rest_sectorWrite (d : Dev) (ag : Agent) (a : Nat) (bs : List Byte) (p : Bool) :
    rest (sectorWrite d ag a bs p).1 = rest d := by
  unfold sectorWrite; dsimp only; split <;> simp

@[simp] theorem rest_devWrite (d : Dev) (ag : Agent) (a : Nat) (bs : List Byte) (p : Bool) :
    rest (devWrite d ag a bs p).1 = rest d := by
  unfold devWrite; dsimp only; split
  · exact foldl_fst_rest _ (fun x a => by split <;> simp) _ _
  · refine foldl_rest _ (fun d a => ?_) _ _
    split
    · split <;> simp
    · split <;> simp
    · rfl

@[simp] theorem rest_devAtomicAt (d : Dev) (ag : Agent) (a n : Nat) (f : Nat → Nat) (sp : Bool) :
    rest (devAtomicAt d ag a n f sp).1 = rest d := by
  unfold devAtomicAt; dsimp only; split
  · rfl
  · rfl
  · split
    · simp
    · dsimp only; split <;> simp
  · split
    · simp
    · split
      · simp
      · split
        · simp
        · rename_i d1 h
          have h1 : rest d1 = rest d := by
            obtain ⟨e, he, h⟩ := Option.bind_eq_some_iff.mp h
            have he : rest e = rest d := by
              split at he
              · simp only [Option.map_eq_some_iff] at he
                obtain ⟨r, hr, rfl⟩ := he
                exact rest_reallocWb hr
              · cases he; rfl
            split at h
            · cases h; simp [he]
            · rw [rest_prepareRead h, he]
          split
          · split <;> simp [h1]
          · split
            · rfl
            · rename_i d2 h2
              have h2 := rest_homeWrite h2
              rw [rest_homeWord, rest_grantSlice, h1] at h2
              split <;> simp [h2]

@[simp] theorem rest_devAtomic (d : Dev) (ag : Agent) (a n : Nat) (f : Nat → Nat) (sp : Bool) :
    rest (devAtomic d ag a n f sp).1 = rest d := by
  unfold devAtomic; dsimp only; split <;> simp

/-! ### Accesses -/

@[simp] theorem rest_startSnoops (d : Dev) (ag : Agent) (a n : Nat) (w : Bool) :
    rest (startSnoops d ag a n w) = rest d := by
  refine foldl_rest _ (fun d a => ?_) _ _
  dsimp only; split
  · split <;> simp
  · split <;> simp
  · rfl

@[simp] theorem rest_logPoison (d : Dev) (ag : Agent) (a : Nat) : rest (logPoison d ag a) = rest d := by
  unfold logPoison; split <;> simp

@[simp] theorem rest_answerRead (d : Dev) (ag : Agent) (a n : Nat) (ws : List (DWord × Bool)) :
    rest (answerRead d ag a n ws) = rest d := by
  unfold answerRead; dsimp only; split <;> split <;> simp

@[simp] theorem rest_recordHold (d : Dev) (s i : Nat) (h : HostHold) : rest (recordHold d s i h) = rest d := by
  unfold recordHold; dsimp only; split <;> simp

@[simp] theorem rest_evictDir (d : Dev) (s i : Nat) : rest (evictDir d s i) = rest d := by
  unfold evictDir; split <;> simp

theorem rest_writeLineRuns {d e : Dev} {ag : Agent} {i : Nat} {rs : List (Nat × List Byte)} {p : Bool}
    (h : writeLineRuns d ag i rs p = some e) : rest e = rest d := by
  unfold writeLineRuns at h; dsimp only at h; split at h
  · cases h; exact foldl_fst_rest _ (fun x a => by split <;> simp) _ _
  · cases h

@[simp] theorem rest_snoopClosing (d : Dev) (s i : Nat) : rest (snoopClosing d s i) = rest d := by
  unfold snoopClosing; dsimp only; split <;> simp

/-- A host request changes nothing of `rest` that its own part leaves. -/
theorem rest_hostRequest (d : Dev) (a : Nat) (h : HostHold) (f : Dev → Option Dev)
    (hf : ∀ d e, f d = some e → rest e = rest d) : rest (hostRequest d a h f).1 = rest d := by
  unfold hostRequest; dsimp only; split
  · simp
  · split
    · rename_i h; rw [rest_hueGrant, hf _ _ h, rest_withHue]
    · simp
  · split
    · simp
    · split
      · rename_i h; simp [hf _ _ h]
      · simp

@[simp] theorem rest_underHue (d : Dev) (ag : Agent) : rest (underHue d ag) = rest d := by
  unfold underHue; split <;> rfl

theorem rest_perform (d : Dev) (x : Access) : rest (perform d x).1 = rest d := by
  have hd := rest_underHue d x.agent
  unfold perform; dsimp only
  split
  · split
    · rw [rest_hostRequest, hd]
      intro d e h
      simp only [Option.map_eq_some_iff] at h
      obtain ⟨ws, hw, rfl⟩ := h
      split <;> simp
    · split
      · rename_i h
        simp only [Option.map_eq_some_iff] at h
        obtain ⟨ws, hw, rfl⟩ := h
        split <;> simp [hd]
      · rw [rest_startSnoops, hd]
  · split
    · rw [rest_hostRequest, hd]
      intro d e h
      simp only [Option.map_eq_some_iff] at h
      obtain ⟨ws, hw, rfl⟩ := h
      rw [rest_emit, rest_writeLineRuns hw]
    · split <;> simp [hd]
  · split
    · split <;> simp [hd]
    · rw [hd]
  · split
    · split
      · simp [hd]
      · split <;> simp [hd]
    · rw [hd]
  · rw [rest_hostRequest, hd]
    intro d e h
    simp only [Option.map_eq_some_iff] at h
    obtain ⟨ws, hw, rfl⟩ := h
    simp
  · rw [rest_hostRequest, hd]
    intro d e h
    split at h
    · split at h
      · cases h; simp
      · cases h
    · simp only [Option.map_eq_some_iff] at h
      obtain ⟨r, hr, rfl⟩ := h
      rw [rest_emit, rest_writeLineRuns hr]

@[simp] theorem rest_retryAccesses (d : Dev) : rest (retryAccesses d) = rest d := by
  unfold retryAccesses
  rw [foldl_rest]
  · rfl
  · intro d x; split
    · rfl
    · dsimp only; split
      · exact rest_perform ..
      · rw [rest_setAccesses, rest_perform]

/-! ### Logs -/

theorem iterOpt_rest (f : Dev → Option Dev) (h : ∀ d e, f d = some e → rest e = rest d) (n : Nat) (d : Dev) :
    rest (iterOpt f n d) = rest d := by
  induction n generalizing d with
  | zero => rfl
  | succ n ih =>
    unfold iterOpt; split
    · rfl
    · rename_i e he; rw [ih, h _ _ he]

@[simp] theorem rest_flushErrors (d : Dev) : rest (flushErrors d) = rest d := by
  have h : rest (iterOpt errStep (d.errq.length + 4) d) = rest d := by
    refine iterOpt_rest _ (fun d e h => ?_) _ _
    unfold errStep at h; split at h
    · cases h
    · dsimp only at h; split at h
      · cases h; simp
      · split at h
        · cases h; simp
        · cases h
  unfold flushErrors; dsimp only; split
  · exact h
  · split
    · exact h
    · rw [rest_devWrite, h]

@[simp] theorem rest_bumpProd (d : Dev) (n : Nat) : rest (bumpProd d n) = rest d := by
  unfold bumpProd; split <;> simp

theorem rest_writeHead {d e : Dev} {n : Nat} {h : Held} (he : writeHead d n h = some e) : rest e = rest d := by
  unfold writeHead at he; simp only [Option.map_eq_some_iff] at he
  obtain ⟨r, hr, rfl⟩ := he
  have h1 : rest r = rest d := by
    split at hr
    · split at hr
      · cases hr; simp
      · cases hr
    · cases hr; simp
  split
  · split <;> simp [h1]
  · simp [h1]

@[simp] theorem rest_readTaken (d : Dev) (n : Nat) (h : Option Bool) : rest (readTaken d n h).1 = rest d := by
  unfold readTaken; split
  · simp
  · split <;> rfl

@[simp] theorem rest_tryHead (d : Dev) (n : Nat) (h : Held) (b : Option Bool) : rest (tryHead d n h b).1 = rest d := by
  unfold tryHead; dsimp only; split
  · simp
  · split
    · rename_i he; rw [rest_writeHead he, rest_readTaken]
    · simp
  · split <;> simp

@[simp] theorem rest_pumpLog (d : Dev) (n : Nat) : rest (pumpLog d n) = rest d := by
  unfold pumpLog; split
  · rfl
  · refine foldl_fst_rest _ (fun x a => ?_) _ _
    split
    · rfl
    · split
      · rfl
      · split <;> simp

@[simp] theorem rest_pumpLogs (d : Dev) : rest (pumpLogs d) = rest d := by
  unfold pumpLogs; split
  · rfl
  · exact foldl_rest _ (fun d a => by simp) _ _

@[simp] theorem rest_flushRepairs (d : Dev) : rest (flushRepairs d) = rest d := by
  unfold flushRepairs; rw [foldl_rest]
  · rfl
  · intro d a; split
    · rfl
    · split <;> simp

/-! ### Prefetches -/

@[simp] theorem rest_prefetchLine (d : Dev) (r i : Nat) : rest (prefetchLine d r i).1 = rest d := by
  refine foldl_fst_rest _ (fun x a => ?_) _ _
  split
  · rfl
  · dsimp only
    generalize hs : sectorRead _ _ _ _ _ = p
    have hp : rest p.1 = rest x.1 := by rw [← hs]; simp
    obtain ⟨e, r⟩ := p
    cases r <;> simpa using hp

@[simp] theorem rest_readPrefetch (d : Dev) (p : Prefetch) : rest (readPrefetch d p).1 = rest d :=
  foldl_fst_rest _ (fun x a => by split <;> simp) ..

@[simp] theorem rest_pumpPrefetch (d : Dev) (p : Prefetch) : rest (pumpPrefetch d p) = rest d := by
  unfold pumpPrefetch; dsimp only; split
  · rfl
  · split <;> simp

@[simp] theorem rest_pumpPrefetches (d : Dev) : rest (pumpPrefetches d) = rest d := by
  unfold pumpPrefetches; dsimp only; split
  · rfl
  · rw [foldl_rest _ (fun d a => by simp)]; rfl

@[simp] theorem rest_seeLevels (d : Dev) (e : Bool) (l : List Nat) : rest (seeLevels d e l) = rest d := rfl
@[simp] theorem rest_errEdge (d : Dev) : rest (errEdge d) = rest d := by unfold errEdge; split <;> simp
@[simp] theorem rest_portEdge (d : Dev) : rest (portEdge d) = rest d := by unfold portEdge; split <;> simp
@[simp] theorem rest_edges (d : Dev) : rest (edges d) = rest d := by unfold edges; simp

/-- Settling leaves `rest` as it was. -/
theorem rest_settle (d : Dev) : rest (settle d) = rest d := by
  unfold settle; simp

end Sys2Proof.Laws
end

