-- ==== Sys2Proof/Laws/Act.lean ====
section
/-! SUPPORT. How every command ends, and what the three shared paths into a command do where their checks pass: an
issued instruction, an accepted command record, a register access. -/
namespace Sys2Proof.Laws
open Sys2Proof Sys2Proof.Machine Sys2Proof.Safety

/-- On a device that runs, a command's effect is settled. -/
theorem act_runs {s : State} (h : runs s) (f : Dev → Dev) : act s f = after s (f s.dev) := by
  unfold runs at h; simp [act, after, h]

/-- A halted device stays as it is. -/
theorem act_halted {s : State} (h : ¬ runs s) (f : Dev → Dev) : act s f = .next s := by
  unfold runs at h; simp [act, h]

/-- A command whose effect leaves the device as `e`. -/
theorem act_eq {s : State} (h : runs s) {f : Dev → Dev} {e : Dev} (he : f s.dev = e) : act s f = after s e := by
  rw [act_runs h, he]

/-! ### Issue -/

/-- Every way an issue can end, for an instruction that issues. -/
theorem issue_eq {d d1 : Dev} {t g run : Nat} {ups : List Upset} {i : Iss} (h : issuing d t g ups = some (d1, i, run))
    (f : Dev → Iss → Issued) :
    issue d t g ups f = match f d1 i with
      | .fault st addr => stageFault d1 t g st (laneMask i.lanes) i.pc addr
      | .faultIn d st addr => stageFault d t g st (laneMask i.lanes) i.pc addr
      | .stall d => modCtx d t i.key fun x => modGroup x g fun gr => leavePath { gr with pathPc := i.pc }
      | .done d => advanced d i run
      | .stay d => stayed d i run
      | .jump d ps => jumped d i run ps := by
  revert h; unfold issuing issue
  cases issuer d t g with
  | none => intro h; cases h
  | some p =>
    obtain ⟨k, s, c⟩ := p
    dsimp only
    generalize hg : groupOf (ups.foldl (fun x u => upset x g u) s.ctx) g = gr
    cases hp : pickPath gr with
    | none => intro h; cases h
    | some q =>
      obtain ⟨pc, run'⟩ := q
      dsimp only
      by_cases hpc : pc ≥ (stageOf c s.stage).progSize / 8
      · rw [if_pos hpc]; intro h; cases h
      · rw [if_neg hpc, if_neg hpc]; intro h; cases h; rfl

/-- What a stage instruction does once it issues. -/
theorem act_issue {s : State} {d : Dev} {t g run : Nat} {ups : List Upset} {i : Iss} (h : issues s t g ups d i run)
    (f : Dev → Iss → Issued) :
    act s (fun x => issue x t g ups f) = after s (match f d i with
      | .fault st addr => stageFault d t g st (laneMask i.lanes) i.pc addr
      | .faultIn d st addr => stageFault d t g st (laneMask i.lanes) i.pc addr
      | .stall d => modCtx d t i.key fun x => modGroup x g fun gr => leavePath { gr with pathPc := i.pc }
      | .done d => advanced d i run
      | .stay d => stayed d i run
      | .jump d ps => jumped d i run ps) := by
  rw [act_runs h.1, issue_eq h.2]

theorem issue_done {d d1 d2 : Dev} {t g run : Nat} {ups : List Upset} {i : Iss}
    (h : issuing d t g ups = some (d1, i, run)) {f : Dev → Iss → Issued} (hf : f d1 i = .done d2) :
    issue d t g ups f = advanced d2 i run := by rw [issue_eq h, hf]

theorem issue_stay {d d1 d2 : Dev} {t g run : Nat} {ups : List Upset} {i : Iss}
    (h : issuing d t g ups = some (d1, i, run)) {f : Dev → Iss → Issued} (hf : f d1 i = .stay d2) :
    issue d t g ups f = stayed d2 i run := by rw [issue_eq h, hf]

theorem issue_jump {d d1 d2 : Dev} {t g run : Nat} {ups : List Upset} {i : Iss} {ps : List (Nat × Nat)}
    (h : issuing d t g ups = some (d1, i, run)) {f : Dev → Iss → Issued} (hf : f d1 i = .jump d2 ps) :
    issue d t g ups f = jumped d2 i run ps := by rw [issue_eq h, hf]

/-! ### Command records -/

/-- A long command whose owner accepts it. -/
theorem submitAs_long {d d1 d2 : Dev} {w : Win} {o op hd : Nat} {f : Handler} (ha : accepted d w o d1 op hd)
    (hl : nmem o longOpcodes = true) (hf : f d1 (windowRecord d w) (some op) = (some stOk, d2)) :
    submitAs d w o f = receipted d2 w o hd := by
  obtain ⟨⟨hw, ho, hc⟩, hn, hacc⟩ := ha
  unfold submitAs; rw [hw, ho]
  simp only [beq_self_eq_true, Bool.and_self, if_true]
  unfold submit; dsimp only; rw [hc]; dsimp only; rw [ho, if_pos hl, hn]; dsimp only; rw [hacc]; dsimp only
  rw [hf]; unfold finishRecord; simp [receipted]

/-- A short command whose owner accepts it. -/
theorem submitAs_short {d d2 : Dev} {w : Win} {o : Nat} {f : Handler} (ha : recordOk d w o)
    (hl : nmem o longOpcodes = false) (hf : f d (windowRecord d w) none = (some stOk, d2)) :
    submitAs d w o f = receipted d2 w o 0 := by
  obtain ⟨hw, ho, hc⟩ := ha
  unfold submitAs; rw [hw, ho]
  simp only [beq_self_eq_true, Bool.and_self, if_true]
  unfold submit; dsimp only; rw [hc]; dsimp only; rw [ho, if_neg (by simp [hl]), hf]
  unfold finishRecord; simp [receipted]

/-! ### Register accesses -/

theorem withWrite_eq {d : Dev} {off bytes : Nat} {v : DWord} {t : RegDef} {ix : List Nat}
    (h : writable d off bytes v t ix) (r : Req) (f : Dev → RegDef → List Nat → Nat → Nat → Dev) :
    withWrite d r off bytes v f = f d t ix (accessMask off bytes) (accessValue off bytes v) := by
  obtain ⟨h1, h2, h3, h4, h5⟩ := h
  unfold withWrite; rw [h1, h2]; simp only [Bool.not_true, Bool.false_eq_true, if_false, h3]
  simp only [Bool.and_eq_false_iff, beq_eq_false_iff_ne] at h4
  have h4 : ¬((t.actsW && decide (bytes = 4)) = true) := by rcases h4 with h | h <;> simp [h]
  rw [if_neg h4, h5]; simp

theorem withRead_eq {d d' : Dev} {off bytes v : Nat} {t : RegDef} {ix : List Nat} (h : readableAt d off bytes t ix)
    (r : Req) {f : Dev → RegDef → List Nat → Dev × Option Nat} (hf : f d t ix = (d', some v)) :
    withRead d r off bytes f =
      emit d' (.regRead r off (BitVec.ofNat 64 (if bytes = 8 then v else if off % 8 = 0 then v % 2 ^ 32 else v >>> 32))) := by
  obtain ⟨h1, h2, h3, h4⟩ := h
  unfold withRead; rw [h1, h2]; simp only [Bool.not_true, Bool.false_eq_true, if_false, h3]
  have h4 : ¬((t.actsR && decide (bytes = 4)) = true) := by
    simp only [Bool.and_eq_false_iff, beq_eq_false_iff_ne] at h4
    rcases h4 with h | h <;> simp [h]
  rw [if_neg h4]
  simp [hf]

/-! ### Settling -/

theorem settle_quiet {d : Dev} (h : quiet d) : settle d = d := by
  obtain ⟨ha, hf, he, hh, hr, hl, hp⟩ := h
  have h1 : retryAccesses d = d := by
    unfold retryAccesses
    have : ({ d with accesses := [] } : Dev) = d := by rw [← ha]
    rw [ha, this]; rfl
  have h0 : pumpPrefetches d = d := by unfold pumpPrefetches; rw [hf]; rfl
  have h2 : flushRepairs d = d := by
    unfold flushRepairs
    have : ({ d with repairq := [] } : Dev) = d := by rw [← hr]
    rw [hr, this]; rfl
  have h3 : pumpLogs d = d := by unfold pumpLogs; rw [hh]; rfl
  have h4 : flushErrors d = d := by
    have : iterOpt errStep (d.errq.length + 4) d = d := by rw [he]; simp [iterOpt, errStep, he]
    unfold flushErrors; rw [this]; simp [he]
  unfold settle; rw [h1, h0, h2, h3, h4]
  have h5 : errEdge d = d := by unfold errEdge; rw [hl]; cases errNotEmpty d <;> rfl
  have h6 : portEdge d = d := by unfold portEdge; rw [if_pos hp.symm]
  unfold edges; rw [h5, h6, ← hl, ← hp]; rfl

end Sys2Proof.Laws
end

