-- ==== Sys2Proof/Laws/Mem.lean ====
section
/-! SUPPORT. Storage: what a written byte reads as, and that every operation on a `Mem` keeps its canonical form. -/
namespace Sys2Proof.Laws
open Sys2Proof Sys2Proof.Machine

/-! ### Sorted lists that the three parts of a memory are -/

/-- Keys strictly rise above `lo`, where one is given, and every value satisfies `p`. -/
def SortedBy {α : Type} (p : α → Prop) : Option Nat → List (Nat × α) → Prop
  | _, [] => True
  | lo, (k, v) :: t => (∀ l, lo = some l → l < k) ∧ p v ∧ SortedBy p (some k) t

theorem above_iff {lo : Option Nat} {k : Nat} :
    (match lo with | none => true | some l => decide (l < k)) = true ↔ ∀ l, lo = some l → l < k := by
  cases lo <;> simp

theorem SortedBy.weaken {α : Type} {p : α → Prop} {lo : Option Nat} {l : Nat} {t : List (Nat × α)} (h : SortedBy p (some l) t)
    (hl : ∀ m, lo = some m → m ≤ l) : SortedBy p lo t := by
  cases t with
  | nil => trivial
  | cons e t => exact ⟨fun m hm => Nat.lt_of_le_of_lt (hl m hm) (h.1 l rfl), h.2⟩

theorem SortedBy.filter {α : Type} {p : α → Prop} {lo : Option Nat} {t : List (Nat × α)} (q : Nat × α → Bool) (h : SortedBy p lo t) :
    SortedBy p lo (t.filter q) := by
  induction t generalizing lo with
  | nil => trivial
  | cons e t ih =>
    obtain ⟨k, v⟩ := e
    simp only [List.filter_cons]
    split
    · exact ⟨h.1, h.2.1, ih h.2.2⟩
    · exact (ih h.2.2).weaken fun m hm => Nat.le_of_lt (h.1 m hm)

/-- Keys that all are at least `b` may be lowered by `b`. -/
theorem SortedBy.lower {α : Type} {p : α → Prop} {b : Nat} {lo : Option Nat} {t : List (Nat × α)} (h : SortedBy p lo t)
    (hb : ∀ e ∈ t, b ≤ e.1) (hlo : ∀ l, lo = some l → b ≤ l) :
    SortedBy p (lo.map (· - b)) (t.map fun e => (e.1 - b, e.2)) := by
  induction t generalizing lo with
  | nil => trivial
  | cons e t ih =>
    obtain ⟨k, v⟩ := e
    have hk : b ≤ k := hb (k, v) (by simp)
    refine ⟨fun l hl => ?_, h.2.1, ?_⟩
    · cases lo with
      | none => cases hl
      | some m =>
        have h1 := h.1 m rfl
        have h2 := hlo m rfl
        simp only [Option.map_some, Option.some.injEq] at hl
        omega
    · exact ih (lo := some k) h.2.2 (fun e he => hb e (List.mem_cons_of_mem _ he)) (fun l hl => by cases hl; exact hk)

theorem SortedBy.mem_prop {α : Type} {p : α → Prop} {lo : Option Nat} {t : List (Nat × α)} (h : SortedBy p lo t) : ∀ e ∈ t, p e.2 := by
  induction t generalizing lo with
  | nil => intro e he; cases he
  | cons e t ih =>
    intro x hx
    cases hx with
    | head => exact h.2.1
    | tail _ hx => exact ih h.2.2 x hx

/-! ### Bytes -/

theorem cellsWf_iff (lo : Option Nat) (t : List Host.Cell) : cellsWf lo t = true ↔ SortedBy (fun b : Byte => b ≠ 0) lo t := by
  induction t generalizing lo with
  | nil => simp [cellsWf, SortedBy]
  | cons e t ih =>
    obtain ⟨j, b⟩ := e
    simp only [cellsWf, SortedBy, Bool.and_eq_true, ih, bne_iff_ne, ne_eq, and_assoc]
    exact and_congr above_iff Iff.rfl

theorem errsWf_iff (lo : Option Nat) (t : Tab Codeword) : errsWf lo t = true ↔ SortedBy (fun c : Codeword => c ≠ 0) lo t := by
  induction t generalizing lo with
  | nil => simp [errsWf, SortedBy]
  | cons e t ih =>
    obtain ⟨j, b⟩ := e
    simp only [errsWf, SortedBy, Bool.and_eq_true, ih, bne_iff_ne, ne_eq, and_assoc]
    exact and_congr above_iff Iff.rfl

theorem risingFrom_iff (lo : Option Nat) (t : List Nat) :
    risingFrom lo t = true ↔ SortedBy (fun _ : Unit => True) lo (t.map fun k => (k, ())) := by
  induction t generalizing lo with
  | nil => simp [risingFrom, SortedBy]
  | cons j t ih =>
    simp only [risingFrom, SortedBy, List.map_cons, Bool.and_eq_true, ih, true_and]
    exact and_congr above_iff Iff.rfl

theorem cellsGet_below {l a : Nat} {t : List Host.Cell} (h : SortedBy (fun b : Byte => b ≠ 0) (some l) t) (ha : a ≤ l) : cellsGet t a = 0 := by
  induction t generalizing l with
  | nil => rfl
  | cons e t ih =>
    obtain ⟨j, b⟩ := e
    have := h.1 l rfl
    simp only [cellsGet]
    rw [if_neg (by omega)]
    exact ih h.2.2 (by omega)

/-- A written byte reads back; every other byte reads as before. -/
theorem cellsGet_cellsPut {lo : Option Nat} {t : List Host.Cell} (h : SortedBy (fun b : Byte => b ≠ 0) lo t) (a x : Nat) (b : Byte) :
    cellsGet (cellsPut t a b) x = if a = x then b else cellsGet t x := by
  induction t generalizing lo with
  | nil =>
    unfold cellsPut
    split
    · rename_i hb; subst hb; simp [cellsGet]
    · simp [cellsGet]
  | cons e t ih =>
    obtain ⟨j, c⟩ := e
    unfold cellsPut
    by_cases h1 : a < j
    · rw [if_pos h1]
      split
      · rename_i hb; subst hb
        by_cases hx : a = x
        · subst hx; rw [if_pos rfl]
          simp only [cellsGet]; rw [if_neg (by omega)]
          exact cellsGet_below h.2.2 (by omega)
        · rw [if_neg hx]
      · rfl
    · rw [if_neg h1]
      by_cases h2 : a = j
      · subst h2; rw [if_pos rfl]
        split
        · rename_i hb; subst hb
          by_cases hx : a = x
          · subst hx; rw [if_pos rfl]; exact cellsGet_below h.2.2 (Nat.le_refl _)
          · rw [if_neg hx]; simp only [cellsGet]; rw [if_neg hx]
        · simp only [cellsGet]
          by_cases hx : a = x
          · rw [if_pos hx, if_pos hx]
          · rw [if_neg hx, if_neg hx, if_neg hx]
      · rw [if_neg h2]
        simp only [cellsGet, ih h.2.2]
        by_cases hx : j = x
        · rw [if_pos hx, if_pos hx, if_neg (by omega)]
        · rw [if_neg hx, if_neg hx]

theorem cellsPut_sorted {lo : Option Nat} {t : List Host.Cell} (h : SortedBy (fun b : Byte => b ≠ 0) lo t) (a : Nat) (b : Byte)
    (ha : ∀ l, lo = some l → l < a) : SortedBy (fun b : Byte => b ≠ 0) lo (cellsPut t a b) := by
  induction t generalizing lo with
  | nil =>
    unfold cellsPut
    split
    · trivial
    · exact ⟨ha, ‹_›, trivial⟩
  | cons e t ih =>
    obtain ⟨j, c⟩ := e
    unfold cellsPut
    by_cases h1 : a < j
    · rw [if_pos h1]
      split
      · exact h
      · exact ⟨ha, ‹_›, fun l hl => by cases hl; exact h1, h.2⟩
    · rw [if_neg h1]
      by_cases h2 : a = j
      · subst h2; rw [if_pos rfl]
        split
        · exact h.2.2.weaken fun m hm => Nat.le_of_lt (h.1 m hm)
        · exact ⟨ha, ‹_›, h.2.2⟩
      · rw [if_neg h2]
        exact ⟨h.1, h.2.1, ih h.2.2 fun l hl => by cases hl; omega⟩

theorem tput_sorted {α : Type} {p : α → Prop} {lo : Option Nat} {t : Tab α} (h : SortedBy p lo t) (k : Nat) (v : α) (hv : p v)
    (hk : ∀ l, lo = some l → l < k) : SortedBy p lo (tput t k v) := by
  induction t generalizing lo with
  | nil => exact ⟨hk, hv, trivial⟩
  | cons e t ih =>
    obtain ⟨i, w⟩ := e
    unfold tput
    by_cases h1 : k < i
    · rw [if_pos h1]
      exact ⟨hk, hv, fun l hl => by cases hl; exact h1, h.2⟩
    · rw [if_neg h1]
      by_cases h2 : k = i
      · subst h2; rw [if_pos rfl]; exact ⟨hk, hv, h.2.2⟩
      · rw [if_neg h2]
        exact ⟨h.1, h.2.1, ih h.2.2 fun l hl => by cases hl; omega⟩

theorem tdel_sorted {α : Type} {p : α → Prop} {lo : Option Nat} {t : Tab α} (h : SortedBy p lo t) (k : Nat) : SortedBy p lo (tdel t k) := by
  induction t generalizing lo with
  | nil => trivial
  | cons e t ih =>
    obtain ⟨i, w⟩ := e
    unfold tdel
    split
    · exact h.2.2.weaken fun m hm => Nat.le_of_lt (h.1 m hm)
    · exact ⟨h.1, h.2.1, ih h.2.2⟩

theorem nadd_sorted {lo : Option Nat} {t : List Nat} (h : risingFrom lo t = true) (k : Nat) (hk : ∀ l, lo = some l → l < k) :
    risingFrom lo (nadd k t) = true := by
  induction t generalizing lo with
  | nil => simp only [nadd, risingFrom, Bool.and_true]; exact above_iff.mpr hk
  | cons j t ih =>
    simp only [risingFrom, Bool.and_eq_true] at h
    unfold nadd
    by_cases h1 : k < j
    · rw [if_pos h1]
      simp only [risingFrom, Bool.and_eq_true, decide_eq_true_eq]
      exact ⟨above_iff.mpr hk, h1, h.2⟩
    · rw [if_neg h1]
      by_cases h2 : k = j
      · subst h2; rw [if_pos rfl]
        simp only [risingFrom, Bool.and_eq_true]
        exact ⟨above_iff.mpr hk, h.2⟩
      · rw [if_neg h2]
        simp only [risingFrom, Bool.and_eq_true]
        exact ⟨h.1, ih h.2 fun l hl => by cases hl; omega⟩

theorem ndel_sorted {lo : Option Nat} {t : List Nat} (h : risingFrom lo t = true) (k : Nat) : risingFrom lo (ndel k t) = true := by
  induction t generalizing lo with
  | nil => rfl
  | cons j t ih =>
    simp only [risingFrom, Bool.and_eq_true] at h
    unfold ndel
    split
    · have h2 := (risingFrom_iff _ _).mp h.2
      exact (risingFrom_iff _ _).mpr (h2.weaken fun m hm => Nat.le_of_lt (above_iff.mp h.1 m hm))
    · simp only [risingFrom, Bool.and_eq_true]
      exact ⟨h.1, ih h.2⟩

theorem risingFrom_filter {lo : Option Nat} {t : List Nat} (q : Nat → Bool) (h : risingFrom lo t = true) : risingFrom lo (t.filter q) = true := by
  induction t generalizing lo with
  | nil => rfl
  | cons j t ih =>
    simp only [risingFrom, Bool.and_eq_true] at h
    simp only [List.filter_cons]
    split
    · simp only [risingFrom, Bool.and_eq_true]; exact ⟨h.1, ih h.2⟩
    · have h2 := (risingFrom_iff _ _).mp (ih h.2)
      exact (risingFrom_iff _ _).mpr (h2.weaken fun m hm => Nat.le_of_lt (above_iff.mp h.1 m hm))

/-! ### The canonical form -/

theorem wf_iff (m : Mem) : Memory.wf m = true ↔
    SortedBy (fun b : Byte => b ≠ 0) none m.cells ∧ risingFrom none m.poison = true ∧ SortedBy (fun c : Codeword => c ≠ 0) none m.errs := by
  simp only [Memory.wf, Bool.and_eq_true, cellsWf_iff, errsWf_iff, and_assoc]

theorem wf_empty : Memory.wf {} = true := rfl

/-- Reset memory is canonical. -/
theorem wf_reset : Memory.wf State.reset.dev.hbm = true := rfl

theorem memByte_memPutByte {m : Mem} (h : Memory.wf m = true) (a x : Nat) (b : Byte) :
    memByte (memPutByte m a b) x = if a = x then b else memByte m x :=
  cellsGet_cellsPut ((wf_iff m).mp h).1 a x b

theorem wf_memPutByte {m : Mem} (h : Memory.wf m = true) (a : Nat) (b : Byte) : Memory.wf (memPutByte m a b) = true := by
  obtain ⟨hc, hp, he⟩ := (wf_iff m).mp h
  exact (wf_iff _).mpr ⟨cellsPut_sorted hc a b (fun _ h => by cases h), hp, he⟩

theorem wf_memSetPoison {m : Mem} (h : Memory.wf m = true) (w : Nat) (p : Bool) : Memory.wf (memSetPoison m w p) = true := by
  obtain ⟨hc, hp, he⟩ := (wf_iff m).mp h
  refine (wf_iff _).mpr ⟨hc, ?_, he⟩
  cases p
  · exact ndel_sorted hp w
  · exact nadd_sorted hp w fun _ h => by cases h

theorem wf_memSetErr {m : Mem} (h : Memory.wf m = true) (w : Nat) (e : Codeword) : Memory.wf (memSetErr m w e) = true := by
  obtain ⟨hc, hp, he⟩ := (wf_iff m).mp h
  refine (wf_iff _).mpr ⟨hc, hp, ?_⟩
  unfold memSetErr
  dsimp only
  split
  · exact tdel_sorted he w
  · exact tput_sorted he w e ‹_› fun _ h => by cases h

/-- A fold of operations that keep the form keeps it. -/
theorem wf_foldl {α : Type} (f : Mem → α → Mem) (hf : ∀ m x, Memory.wf m = true → Memory.wf (f m x) = true) (l : List α) {m : Mem}
    (h : Memory.wf m = true) : Memory.wf (l.foldl f m) = true := by
  induction l generalizing m with
  | nil => exact h
  | cons x t ih => exact ih (hf m x h)

theorem wf_memPutWord {m : Mem} (h : Memory.wf m = true) (w : Nat) (data : DWord) (p : Bool) : Memory.wf (memPutWord m w data p) = true :=
  wf_memSetErr (wf_memSetPoison (wf_foldl _ (fun _ _ h => wf_memPutByte h _ _) _ h) w p) w 0

theorem wf_memFlip {m : Mem} (h : Memory.wf m = true) (w : Nat) (e : Codeword) : Memory.wf (memFlip m w e) = true := wf_memSetErr h w _

theorem wf_memScrub {m : Mem} (h : Memory.wf m = true) (w : Nat) : Memory.wf (memScrub m w) = true := by
  unfold memScrub
  split
  · exact h
  · exact wf_memPutWord h ..
  · exact wf_memPutWord h ..

theorem wf_memWriteWord {m : Mem} (h : Memory.wf m = true) (w : Nat) (data : DWord) (mask : Nat) (p : Bool) :
    Memory.wf (memWriteWord m w data mask p) = true := by
  unfold memWriteWord
  split
  · exact wf_memPutWord h ..
  · split
    · exact h
    · exact wf_memPutWord h ..

theorem wf_memWrite {m : Mem} (h : Memory.wf m = true) (a : Nat) (bs : List Byte) (p : Bool) : Memory.wf (memWrite m a bs p) = true :=
  wf_foldl _ (fun _ _ h => wf_memWriteWord h ..) _ h

theorem wf_memScrubRange {m : Mem} (h : Memory.wf m = true) (a n : Nat) : Memory.wf (memScrubRange m a n) = true :=
  wf_foldl _ (fun _ _ h => wf_memScrub h _) _ h

theorem wf_memClear {m : Mem} (h : Memory.wf m = true) (a n : Nat) : Memory.wf (memClear m a n) = true := by
  obtain ⟨hc, hp, he⟩ := (wf_iff m).mp h
  exact (wf_iff _).mpr ⟨hc.filter _, risingFrom_filter _ hp, he.filter _⟩

theorem wf_memSlice {m : Mem} (h : Memory.wf m = true) (a n : Nat) : Memory.wf (memSlice m a n) = true := by
  obtain ⟨hc, hp, he⟩ := (wf_iff m).mp h
  refine (wf_iff _).mpr ⟨?_, ?_, ?_⟩
  · refine (hc.filter _).lower (b := a) (fun e he => ?_) (fun _ h => by cases h)
    have := (List.mem_filter.mp he).2
    simp only [decide_eq_true_eq] at this; exact this.1
  · have h1 := (risingFrom_iff _ _).mp (risingFrom_filter (fun w => decide (a ≤ 8 * w ∧ 8 * w < a + n)) hp)
    have h2 := h1.lower (b := a / 8) (fun e he => by
      obtain ⟨w, hw, rfl⟩ := List.mem_map.mp he
      have := (List.mem_filter.mp hw).2
      simp only [decide_eq_true_eq] at this
      show a / 8 ≤ w
      omega) (fun _ h => by cases h)
    refine (risingFrom_iff _ _).mpr ?_
    simpa only [List.map_map, Function.comp_def, Option.map_none, memSlice] using h2
  · refine (he.filter _).lower (b := a / 8) (fun e he => ?_) (fun _ h => by cases h)
    have := (List.mem_filter.mp he).2
    simp only [decide_eq_true_eq] at this; omega

theorem wf_memPaste {m p : Mem} (h : Memory.wf m = true) (hp : Memory.wf p = true) (a n : Nat) : Memory.wf (memPaste m a n p) = true := by
  obtain ⟨hc, hq, he⟩ := (wf_iff _).mp (wf_memClear h a n)
  have hpe := ((wf_iff p).mp hp).2.2
  refine (wf_iff _).mpr ⟨?_, ?_, ?_⟩
  · show SortedBy _ none (List.foldl _ _ _)
    generalize (p.cells.filter fun c => decide (c.1 < n)) = l
    generalize (memClear m a n).cells = cs at hc
    induction l generalizing cs with
    | nil => exact hc
    | cons c t ih => exact ih _ (cellsPut_sorted hc _ _ fun _ h => by cases h)
  · show risingFrom none (List.foldl _ _ _) = true
    generalize (p.poison.filter fun w => decide (8 * w < n)) = l
    generalize (memClear m a n).poison = ps at hq
    induction l generalizing ps with
    | nil => exact hq
    | cons c t ih => exact ih _ (nadd_sorted hq _ fun _ h => by cases h)
  · show SortedBy _ none (List.foldl _ _ _)
    have hl := (hpe.filter fun e => decide (8 * e.1 < n)).mem_prop
    generalize (p.errs.filter fun e => decide (8 * e.1 < n)) = l at hl
    generalize (memClear m a n).errs = es at he
    induction l generalizing es with
    | nil => exact he
    | cons c t ih =>
      exact ih (fun e he => hl e (List.mem_cons_of_mem _ he)) _ (tput_sorted he _ _ (hl c (by simp)) fun _ h => by cases h)

end Sys2Proof.Laws
end

