-- ==== Sys2Proof/Laws/Rails.lean ====
section
/-! SUPPORT. What the sequencers of the rails and the end of `deep` can do to the device. -/
namespace Sys2Proof.Laws
open Sys2Proof Sys2Proof.Machine

/-- A step of a rail changes its sequencer, and what is put out. -/
theorem stepRail_frame (d : Dev) (r : Rail) : ∃ q o, stepRail d r = { d with seqs := q, out := o } := by
  unfold stepRail; dsimp only; split
  · exact ⟨_, _, rfl⟩
  · exact ⟨_, _, rfl⟩

theorem writeRail_frame (d : Dev) (r : Rail) (mv : Nat) : ∃ q o, writeRail d r mv = { d with seqs := q, out := o } := by
  unfold writeRail
  obtain ⟨q, o, h⟩ := stepRail_frame (putSeq d r { seqOf d r with goal := mv }) r
  exact ⟨q, o, by rw [h]; rfl⟩

theorem seqStart_frame (d : Dev) (r : Rail) (p : Nat) : ∃ q o, seqStart d r p = { d with seqs := q, out := o } := by
  unfold seqStart; dsimp only; split
  · obtain ⟨q, o, h⟩ := writeRail_frame (putSeq d r { seqOf d r with target := p, retry := none }) r (pointMv r p)
    rw [h]; exact ⟨_, _, rfl⟩
  · split
    · exact ⟨_, _, rfl⟩
    · exact ⟨_, _, rfl⟩

theorem seqTarget_frame (d : Dev) (r : Rail) (p : Nat) : ∃ q o, seqTarget d r p = { d with seqs := q, out := o } := by
  unfold seqTarget; dsimp only; split
  · split
    · exact ⟨_, _, rfl⟩
    · obtain ⟨q, o, h⟩ := seqStart_frame (putSeq d r { seqOf d r with pending := none }) r p
      rw [h]; exact ⟨_, _, rfl⟩
  · split
    · exact ⟨_, _, rfl⟩
    · exact ⟨_, _, rfl⟩

/-- Leaving `deep` turns the rails' sequencers to the points that are wanted again. -/
theorem leaveDeep_frame (d : Dev) : ∃ q o, leaveDeep d = { d with deep := false, seqs := q, out := o } := by
  unfold leaveDeep; split
  · rename_i h
    refine ⟨d.seqs, d.out, ?_⟩
    have : d.deep = false := by simpa using h
    rw [← this]
  · obtain ⟨q, o, h⟩ := seqTarget_frame { d with deep := false } .rind (wantedPoint { d with deep := false } .rind)
    dsimp only; rw [h]
    obtain ⟨q', o', h'⟩ := seqTarget_frame { d with deep := false, seqs := q, out := o } .stem
      (wantedPoint { d with deep := false } .stem)
    exact ⟨q', o', h'⟩

@[simp] theorem leaveDeep_phase (d : Dev) : (leaveDeep d).phase = d.phase := by
  obtain ⟨q, o, h⟩ := leaveDeep_frame d; rw [h]
@[simp] theorem leaveDeep_link (d : Dev) : (leaveDeep d).link = d.link := by
  obtain ⟨q, o, h⟩ := leaveDeep_frame d; rw [h]
@[simp] theorem leaveDeep_regs (d : Dev) : (leaveDeep d).regs = d.regs := by
  obtain ⟨q, o, h⟩ := leaveDeep_frame d; rw [h]

end Sys2Proof.Laws
end

