-- ==== Sys2Proof/Laws/Tab.lean ====
section
/-! SUPPORT. What the table and number-list operations do: read after write, and the order they keep. -/
namespace Sys2Proof.Laws
open Sys2Proof Sys2Proof.Machine

/-! ### Tables -/

theorem tfind_tput {α : Type} (t : Tab α) (k j : Nat) (v : α) :
    tfind (tput t k v) j = if k = j then some v else tfind t j := by
  induction t with
  | nil => rfl
  | cons e t ih =>
    obtain ⟨i, w⟩ := e
    unfold tput
    by_cases h1 : k < i
    · rw [if_pos h1]; rfl
    · rw [if_neg h1]
      by_cases h2 : k = i
      · rw [if_pos h2]; subst h2
        simp only [tfind]
        by_cases h3 : k = j
        · rw [if_pos h3, if_pos h3]
        · rw [if_neg h3, if_neg h3, if_neg h3]
      · rw [if_neg h2]
        simp only [tfind, ih]
        by_cases h3 : i = j
        · subst h3; rw [if_pos rfl, if_pos rfl, if_neg h2]
        · rw [if_neg h3, if_neg h3]

@[simp] theorem tfind_tput_same {α : Type} (t : Tab α) (k : Nat) (v : α) : tfind (tput t k v) k = some v := by
  rw [tfind_tput, if_pos rfl]

@[simp] theorem tget_tput_same {α : Type} (d : α) (t : Tab α) (k : Nat) (v : α) : tget d (tput t k v) k = v := by
  simp [tget]

theorem tget_tput_other {α : Type} (d : α) (t : Tab α) {k j : Nat} (h : k ≠ j) (v : α) :
    tget d (tput t k v) j = tget d t j := by
  simp [tget, tfind_tput, h]

@[simp] theorem tget_tmod_same {α : Type} (d : α) (t : Tab α) (k : Nat) (f : α → α) :
    tget d (tmod d t k f) k = f (tget d t k) := by simp [tmod]

theorem tget_tmod_other {α : Type} (d : α) (t : Tab α) {k j : Nat} (h : k ≠ j) (f : α → α) :
    tget d (tmod d t k f) j = tget d t j := tget_tput_other d t h _

/-- Keys strictly rise above `lo`, where one is given. -/
def Rising {α : Type} : Option Nat → Tab α → Prop
  | _, [] => True
  | lo, (k, _) :: t => (∀ l, lo = some l → l < k) ∧ Rising (some k) t

theorem Rising.weaken {α : Type} {lo : Option Nat} {l : Nat} {t : Tab α} (h : Rising (some l) t)
    (hl : ∀ m, lo = some m → m ≤ l) : Rising lo t := by
  cases t with
  | nil => trivial
  | cons e t => exact ⟨fun m hm => Nat.lt_of_le_of_lt (hl m hm) (h.1 l rfl), h.2⟩

theorem tput_rising {α : Type} (t : Tab α) (lo : Option Nat) (k : Nat) (v : α) (h : Rising lo t)
    (hk : ∀ l, lo = some l → l < k) : Rising lo (tput t k v) := by
  induction t generalizing lo with
  | nil => exact ⟨hk, trivial⟩
  | cons e t ih =>
    obtain ⟨i, w⟩ := e
    unfold tput
    by_cases h1 : k < i
    · rw [if_pos h1]
      exact ⟨hk, fun l hl => by cases hl; exact h1, h.2⟩
    · rw [if_neg h1]
      by_cases h2 : k = i
      · subst h2; rw [if_pos rfl]; exact ⟨hk, h.2⟩
      · rw [if_neg h2]
        exact ⟨h.1, ih (some i) h.2 (fun l hl => by cases hl; omega)⟩

theorem tdel_rising {α : Type} (t : Tab α) (lo : Option Nat) (k : Nat) (h : Rising lo t) : Rising lo (tdel t k) := by
  induction t generalizing lo with
  | nil => trivial
  | cons e t ih =>
    obtain ⟨i, w⟩ := e
    unfold tdel
    by_cases h1 : i = k
    · rw [if_pos h1]; exact h.2.weaken fun m hm => Nat.le_of_lt (h.1 m hm)
    · rw [if_neg h1]; exact ⟨h.1, ih (some i) h.2⟩

theorem tfind_below {α : Type} (t : Tab α) (l k : Nat) (h : Rising (some l) t) (hk : k ≤ l) : tfind t k = none := by
  induction t generalizing l with
  | nil => rfl
  | cons e t ih =>
    obtain ⟨i, w⟩ := e
    have hi : l < i := h.1 l rfl
    simp only [tfind]
    rw [if_neg (by omega)]
    exact ih i h.2 (by omega)

theorem tfind_tdel {α : Type} (t : Tab α) (lo : Option Nat) (h : Rising lo t) (k j : Nat) :
    tfind (tdel t k) j = if k = j then none else tfind t j := by
  induction t generalizing lo with
  | nil => simp [tdel, tfind]
  | cons e t ih =>
    obtain ⟨i, w⟩ := e
    unfold tdel
    by_cases h1 : i = k
    · subst h1; rw [if_pos rfl]
      by_cases h2 : i = j
      · subst h2; rw [if_pos rfl]; exact tfind_below t i i h.2 (Nat.le_refl _)
      · rw [if_neg h2]; simp only [tfind]; rw [if_neg h2]
    · rw [if_neg h1]; simp only [tfind, ih (some i) h.2]
      by_cases h2 : i = j
      · subst h2; rw [if_pos rfl, if_pos rfl, if_neg (fun h => h1 h.symm)]
      · rw [if_neg h2, if_neg h2]

/-! ### Number lists -/

theorem nmem_iff (x : Nat) (l : List Nat) : nmem x l = true ↔ x ∈ l := by
  induction l with
  | nil => simp [nmem]
  | cons y t ih => simp [nmem, ih]

theorem mem_nadd (x y : Nat) (l : List Nat) : y ∈ nadd x l ↔ y = x ∨ y ∈ l := by
  induction l with
  | nil => simp [nadd]
  | cons z t ih =>
    unfold nadd
    split
    · simp
    · split
      · rename_i h; subst h; simp
      · simp only [List.mem_cons, ih]
        constructor
        · rintro (h | h | h) <;> simp [h]
        · rintro (h | h | h) <;> simp [h]

@[simp] theorem nmem_nadd (x y : Nat) (l : List Nat) : nmem y (nadd x l) = (y == x || nmem y l) := by
  rw [Bool.eq_iff_iff]; simp [nmem_iff, mem_nadd]

/-! ### Sorting and arbitration -/

theorem mem_insBy {α : Type} (key : α → Nat) (x y : α) (l : List α) : y ∈ insBy key x l ↔ y = x ∨ y ∈ l := by
  induction l with
  | nil => simp [insBy]
  | cons a t ih => simp only [insBy]; split <;> simp [ih, or_left_comm]

theorem insBy_sorted {α : Type} (key : α → Nat) (x : α) (l : List α) (h : l.Pairwise fun a b => key a ≤ key b) :
    (insBy key x l).Pairwise fun a b => key a ≤ key b := by
  induction l with
  | nil => simp [insBy]
  | cons a t ih =>
    obtain ⟨h1, h2⟩ := List.pairwise_cons.mp h
    simp only [insBy]; split
    · refine List.pairwise_cons.mpr ⟨?_, h⟩
      intro b hb
      rcases List.mem_cons.mp hb with rfl | hb
      · omega
      · have := h1 b hb; omega
    · refine List.pairwise_cons.mpr ⟨?_, ih h2⟩
      intro b hb
      rcases (mem_insBy ..).mp hb with rfl | hb
      · omega
      · exact h1 b hb

/-- What sorting gives: the same elements, in order of their keys. -/
theorem sortBy_spec {α : Type} (key : α → Nat) (l : List α) :
    (∀ y, y ∈ sortBy key l ↔ y ∈ l) ∧ (sortBy key l).Pairwise fun a b => key a ≤ key b := by
  suffices h : ∀ acc : List α, acc.Pairwise (fun a b => key a ≤ key b) →
      (∀ y, y ∈ l.foldl (fun acc x => insBy key x acc) acc ↔ y ∈ l ∨ y ∈ acc) ∧
        (l.foldl (fun acc x => insBy key x acc) acc).Pairwise fun a b => key a ≤ key b by
    simpa [sortBy] using h [] List.Pairwise.nil
  induction l with
  | nil => intro acc h; simpa using h
  | cons a t ih =>
    intro acc h
    obtain ⟨h1, h2⟩ := ih _ (insBy_sorted key a acc h)
    refine ⟨fun y => ?_, h2⟩
    rw [List.foldl_cons, h1, mem_insBy, List.mem_cons]; tauto

/-- The first after sorting is an element with the least key. -/
theorem sortBy_head {α : Type} {key : α → Nat} {l : List α} {x : α} (h : (sortBy key l).head? = some x) :
    x ∈ l ∧ ∀ y ∈ l, key x ≤ key y := by
  obtain ⟨h1, h2⟩ := sortBy_spec key l
  cases hs : sortBy key l with
  | nil => rw [hs] at h; cases h
  | cons a t =>
    rw [hs] at h h1 h2; cases h
    refine ⟨(h1 x).mp (by simp), fun y hy => ?_⟩
    rcases List.mem_cons.mp ((h1 y).mpr hy) with rfl | hy
    · exact le_refl _
    · exact (List.pairwise_cons.mp h2).1 y hy

end Sys2Proof.Laws
end

