-- ==== Sys2Proof/Laws/State.lean ====
section
/-! SUPPORT. What the shared updates of the device leave as it was: one lemma per update and field, so that no proof
unfolds a record update; and that what is put is what is read. -/
namespace Sys2Proof.Laws
open Sys2Proof Sys2Proof.Machine

variable (d : Dev)

/-! ### emit -/

@[simp] theorem emit_phase (o : Output) : (emit d o).phase = d.phase := rfl
@[simp] theorem emit_regs (o : Output) : (emit d o).regs = d.regs := rfl
@[simp] theorem emit_tb (o : Output) : (emit d o).tb = d.tb := rfl
@[simp] theorem emit_cues (o : Output) : (emit d o).cues = d.cues := rfl
@[simp] theorem emit_cuePtr (o : Output) : (emit d o).cuePtr = d.cuePtr := rfl
@[simp] theorem emit_cueFired (o : Output) : (emit d o).cueFired = d.cueFired := rfl
@[simp] theorem emit_ejectPtr (o : Output) : (emit d o).ejectPtr = d.ejectPtr := rfl
@[simp] theorem emit_managedAt (o : Output) : (emit d o).managedAt = d.managedAt := rfl
@[simp] theorem emit_windowNo (o : Output) : (emit d o).windowNo = d.windowNo := rfl
@[simp] theorem emit_waits (o : Output) : (emit d o).waits = d.waits := rfl
@[simp] theorem emit_piprNext (o : Output) : (emit d o).piprNext = d.piprNext := rfl
@[simp] theorem emit_prefetches (o : Output) : (emit d o).prefetches = d.prefetches := rfl
@[simp] theorem emit_tiles (o : Output) : (emit d o).tiles = d.tiles := rfl
@[simp] theorem emit_canvases (o : Output) : (emit d o).canvases = d.canvases := rfl
@[simp] theorem emit_streams (o : Output) : (emit d o).streams = d.streams := rfl
@[simp] theorem emit_hbm (o : Output) : (emit d o).hbm = d.hbm := rfl
@[simp] theorem emit_undef (o : Output) : (emit d o).undef = d.undef := rfl
@[simp] theorem emit_undefCnt (o : Output) : (emit d o).undefCnt = d.undefCnt := rfl
@[simp] theorem emit_slices (o : Output) : (emit d o).slices = d.slices := rfl
@[simp] theorem emit_accesses (o : Output) : (emit d o).accesses = d.accesses := rfl
@[simp] theorem emit_preserves (o : Output) : (emit d o).preserves = d.preserves := rfl
@[simp] theorem emit_stks (o : Output) : (emit d o).stks = d.stks := rfl
@[simp] theorem emit_refresh (o : Output) : (emit d o).refresh = d.refresh := rfl
@[simp] theorem emit_sessions (o : Output) : (emit d o).sessions = d.sessions := rfl
@[simp] theorem emit_sessSeq (o : Output) : (emit d o).sessSeq = d.sessSeq := rfl
@[simp] theorem emit_sweeps (o : Output) : (emit d o).sweeps = d.sweeps := rfl
@[simp] theorem emit_xfers (o : Output) : (emit d o).xfers = d.xfers := rfl
@[simp] theorem emit_nextXfer (o : Output) : (emit d o).nextXfer = d.nextXfer := rfl
@[simp] theorem emit_merges (o : Output) : (emit d o).merges = d.merges := rfl
@[simp] theorem emit_links (o : Output) : (emit d o).links = d.links := rfl
@[simp] theorem emit_ports (o : Output) : (emit d o).ports = d.ports := rfl
@[simp] theorem emit_switches (o : Output) : (emit d o).switches = d.switches := rfl
@[simp] theorem emit_requests (o : Output) : (emit d o).requests = d.requests := rfl
@[simp] theorem emit_nextTag (o : Output) : (emit d o).nextTag = d.nextTag := rfl
@[simp] theorem emit_colls (o : Output) : (emit d o).colls = d.colls := rfl
@[simp] theorem emit_routes (o : Output) : (emit d o).routes = d.routes := rfl
@[simp] theorem emit_wins (o : Output) : (emit d o).wins = d.wins := rfl
@[simp] theorem emit_coreWins (o : Output) : (emit d o).coreWins = d.coreWins := rfl
@[simp] theorem emit_ops (o : Output) : (emit d o).ops = d.ops := rfl
@[simp] theorem emit_nextOp (o : Output) : (emit d o).nextOp = d.nextOp := rfl
@[simp] theorem emit_held (o : Output) : (emit d o).held = d.held := rfl
@[simp] theorem emit_rasInternal (o : Output) : (emit d o).rasInternal = d.rasInternal := rfl
@[simp] theorem emit_link (o : Output) : (emit d o).link = d.link := rfl
@[simp] theorem emit_msixPend (o : Output) : (emit d o).msixPend = d.msixPend := rfl
@[simp] theorem emit_svcs (o : Output) : (emit d o).svcs = d.svcs := rfl
@[simp] theorem emit_blocks (o : Output) : (emit d o).blocks = d.blocks := rfl
@[simp] theorem emit_seqs (o : Output) : (emit d o).seqs = d.seqs := rfl
@[simp] theorem emit_railReads (o : Output) : (emit d o).railReads = d.railReads := rfl
@[simp] theorem emit_senseRun (o : Output) : (emit d o).senseRun = d.senseRun := rfl
@[simp] theorem emit_senseLogged (o : Output) : (emit d o).senseLogged = d.senseLogged := rfl
@[simp] theorem emit_overCurrent (o : Output) : (emit d o).overCurrent = d.overCurrent := rfl
@[simp] theorem emit_deep (o : Output) : (emit d o).deep = d.deep := rfl
@[simp] theorem emit_thermTrip (o : Output) : (emit d o).thermTrip = d.thermTrip := rfl
@[simp] theorem emit_sensors (o : Output) : (emit d o).sensors = d.sensors := rfl
@[simp] theorem emit_levers (o : Output) : (emit d o).levers = d.levers := rfl
@[simp] theorem emit_hbmLevel (o : Output) : (emit d o).hbmLevel = d.hbmLevel := rfl
@[simp] theorem emit_cals (o : Output) : (emit d o).cals = d.cals := rfl
@[simp] theorem emit_creset (o : Output) : (emit d o).creset = d.creset := rfl
@[simp] theorem emit_noServices (o : Output) : (emit d o).noServices = d.noServices := rfl
@[simp] theorem emit_noTiles (o : Output) : (emit d o).noTiles = d.noTiles := rfl
@[simp] theorem emit_noHdm (o : Output) : (emit d o).noHdm = d.noHdm := rfl
@[simp] theorem emit_repairCnt (o : Output) : (emit d o).repairCnt = d.repairCnt := rfl
@[simp] theorem emit_defects (o : Output) : (emit d o).defects = d.defects := rfl
@[simp] theorem emit_class1 (o : Output) : (emit d o).class1 = d.class1 := rfl
@[simp] theorem emit_limits (o : Output) : (emit d o).limits = d.limits := rfl
@[simp] theorem emit_board (o : Output) : (emit d o).board = d.board := rfl
@[simp] theorem emit_nvm (o : Output) : (emit d o).nvm = d.nvm := rfl
@[simp] theorem emit_flashOk (o : Output) : (emit d o).flashOk = d.flashOk := rfl
@[simp] theorem emit_fw (o : Output) : (emit d o).fw = d.fw := rfl
@[simp] theorem emit_entropy (o : Output) : (emit d o).entropy = d.entropy := rfl
@[simp] theorem emit_resv (o : Output) : (emit d o).resv = d.resv := rfl
@[simp] theorem emit_pgLow (o : Output) : (emit d o).pgLow = d.pgLow := rfl
@[simp] theorem emit_rstHigh (o : Output) : (emit d o).rstHigh = d.rstHigh := rfl
@[simp] theorem emit_hueWin (o : Output) : (emit d o).hueWin = d.hueWin := rfl
@[simp] theorem emit_hueWinNo (o : Output) : (emit d o).hueWinNo = d.hueWinNo := rfl
@[simp] theorem emit_hueForce (o : Output) : (emit d o).hueForce = d.hueForce := rfl
@[simp] theorem emit_hue (o : Output) : (emit d o).hue = d.hue := rfl
@[simp] theorem emit_freeCnt (o : Output) : (emit d o).freeCnt = d.freeCnt := rfl
@[simp] theorem emit_errq (o : Output) : (emit d o).errq = d.errq := rfl
@[simp] theorem emit_lost (o : Output) : (emit d o).lost = d.lost := rfl
@[simp] theorem emit_repairq (o : Output) : (emit d o).repairq = d.repairq := rfl
@[simp] theorem emit_lvlErr (o : Output) : (emit d o).lvlErr = d.lvlErr := rfl
@[simp] theorem emit_lvlPorts (o : Output) : (emit d o).lvlPorts = d.lvlPorts := rfl

/-! ### logErr -/

@[simp] theorem logErr_phase (st : Half) (k u c a e v : Nat) : (logErr d st k u c a e v).phase = d.phase := rfl
@[simp] theorem logErr_regs (st : Half) (k u c a e v : Nat) : (logErr d st k u c a e v).regs = d.regs := rfl
@[simp] theorem logErr_tb (st : Half) (k u c a e v : Nat) : (logErr d st k u c a e v).tb = d.tb := rfl
@[simp] theorem logErr_cues (st : Half) (k u c a e v : Nat) : (logErr d st k u c a e v).cues = d.cues := rfl
@[simp] theorem logErr_cuePtr (st : Half) (k u c a e v : Nat) : (logErr d st k u c a e v).cuePtr = d.cuePtr := rfl
@[simp] theorem logErr_cueFired (st : Half) (k u c a e v : Nat) : (logErr d st k u c a e v).cueFired = d.cueFired := rfl
@[simp] theorem logErr_ejectPtr (st : Half) (k u c a e v : Nat) : (logErr d st k u c a e v).ejectPtr = d.ejectPtr := rfl
@[simp] theorem logErr_managedAt (st : Half) (k u c a e v : Nat) : (logErr d st k u c a e v).managedAt = d.managedAt := rfl
@[simp] theorem logErr_windowNo (st : Half) (k u c a e v : Nat) : (logErr d st k u c a e v).windowNo = d.windowNo := rfl
@[simp] theorem logErr_waits (st : Half) (k u c a e v : Nat) : (logErr d st k u c a e v).waits = d.waits := rfl
@[simp] theorem logErr_piprNext (st : Half) (k u c a e v : Nat) : (logErr d st k u c a e v).piprNext = d.piprNext := rfl
@[simp] theorem logErr_prefetches (st : Half) (k u c a e v : Nat) : (logErr d st k u c a e v).prefetches = d.prefetches := rfl
@[simp] theorem logErr_tiles (st : Half) (k u c a e v : Nat) : (logErr d st k u c a e v).tiles = d.tiles := rfl
@[simp] theorem logErr_canvases (st : Half) (k u c a e v : Nat) : (logErr d st k u c a e v).canvases = d.canvases := rfl
@[simp] theorem logErr_streams (st : Half) (k u c a e v : Nat) : (logErr d st k u c a e v).streams = d.streams := rfl
@[simp] theorem logErr_hbm (st : Half) (k u c a e v : Nat) : (logErr d st k u c a e v).hbm = d.hbm := rfl
@[simp] theorem logErr_undef (st : Half) (k u c a e v : Nat) : (logErr d st k u c a e v).undef = d.undef := rfl
@[simp] theorem logErr_undefCnt (st : Half) (k u c a e v : Nat) : (logErr d st k u c a e v).undefCnt = d.undefCnt := rfl
@[simp] theorem logErr_slices (st : Half) (k u c a e v : Nat) : (logErr d st k u c a e v).slices = d.slices := rfl
@[simp] theorem logErr_accesses (st : Half) (k u c a e v : Nat) : (logErr d st k u c a e v).accesses = d.accesses := rfl
@[simp] theorem logErr_preserves (st : Half) (k u c a e v : Nat) : (logErr d st k u c a e v).preserves = d.preserves := rfl
@[simp] theorem logErr_stks (st : Half) (k u c a e v : Nat) : (logErr d st k u c a e v).stks = d.stks := rfl
@[simp] theorem logErr_refresh (st : Half) (k u c a e v : Nat) : (logErr d st k u c a e v).refresh = d.refresh := rfl
@[simp] theorem logErr_sessions (st : Half) (k u c a e v : Nat) : (logErr d st k u c a e v).sessions = d.sessions := rfl
@[simp] theorem logErr_sessSeq (st : Half) (k u c a e v : Nat) : (logErr d st k u c a e v).sessSeq = d.sessSeq := rfl
@[simp] theorem logErr_sweeps (st : Half) (k u c a e v : Nat) : (logErr d st k u c a e v).sweeps = d.sweeps := rfl
@[simp] theorem logErr_xfers (st : Half) (k u c a e v : Nat) : (logErr d st k u c a e v).xfers = d.xfers := rfl
@[simp] theorem logErr_nextXfer (st : Half) (k u c a e v : Nat) : (logErr d st k u c a e v).nextXfer = d.nextXfer := rfl
@[simp] theorem logErr_merges (st : Half) (k u c a e v : Nat) : (logErr d st k u c a e v).merges = d.merges := rfl
@[simp] theorem logErr_links (st : Half) (k u c a e v : Nat) : (logErr d st k u c a e v).links = d.links := rfl
@[simp] theorem logErr_ports (st : Half) (k u c a e v : Nat) : (logErr d st k u c a e v).ports = d.ports := rfl
@[simp] theorem logErr_switches (st : Half) (k u c a e v : Nat) : (logErr d st k u c a e v).switches = d.switches := rfl
@[simp] theorem logErr_requests (st : Half) (k u c a e v : Nat) : (logErr d st k u c a e v).requests = d.requests := rfl
@[simp] theorem logErr_nextTag (st : Half) (k u c a e v : Nat) : (logErr d st k u c a e v).nextTag = d.nextTag := rfl
@[simp] theorem logErr_colls (st : Half) (k u c a e v : Nat) : (logErr d st k u c a e v).colls = d.colls := rfl
@[simp] theorem logErr_routes (st : Half) (k u c a e v : Nat) : (logErr d st k u c a e v).routes = d.routes := rfl
@[simp] theorem logErr_wins (st : Half) (k u c a e v : Nat) : (logErr d st k u c a e v).wins = d.wins := rfl
@[simp] theorem logErr_coreWins (st : Half) (k u c a e v : Nat) : (logErr d st k u c a e v).coreWins = d.coreWins := rfl
@[simp] theorem logErr_ops (st : Half) (k u c a e v : Nat) : (logErr d st k u c a e v).ops = d.ops := rfl
@[simp] theorem logErr_nextOp (st : Half) (k u c a e v : Nat) : (logErr d st k u c a e v).nextOp = d.nextOp := rfl
@[simp] theorem logErr_held (st : Half) (k u c a e v : Nat) : (logErr d st k u c a e v).held = d.held := rfl
@[simp] theorem logErr_rasInternal (st : Half) (k u c a e v : Nat) : (logErr d st k u c a e v).rasInternal = d.rasInternal := rfl
@[simp] theorem logErr_link (st : Half) (k u c a e v : Nat) : (logErr d st k u c a e v).link = d.link := rfl
@[simp] theorem logErr_msixPend (st : Half) (k u c a e v : Nat) : (logErr d st k u c a e v).msixPend = d.msixPend := rfl
@[simp] theorem logErr_svcs (st : Half) (k u c a e v : Nat) : (logErr d st k u c a e v).svcs = d.svcs := rfl
@[simp] theorem logErr_blocks (st : Half) (k u c a e v : Nat) : (logErr d st k u c a e v).blocks = d.blocks := rfl
@[simp] theorem logErr_seqs (st : Half) (k u c a e v : Nat) : (logErr d st k u c a e v).seqs = d.seqs := rfl
@[simp] theorem logErr_railReads (st : Half) (k u c a e v : Nat) : (logErr d st k u c a e v).railReads = d.railReads := rfl
@[simp] theorem logErr_senseRun (st : Half) (k u c a e v : Nat) : (logErr d st k u c a e v).senseRun = d.senseRun := rfl
@[simp] theorem logErr_senseLogged (st : Half) (k u c a e v : Nat) : (logErr d st k u c a e v).senseLogged = d.senseLogged := rfl
@[simp] theorem logErr_overCurrent (st : Half) (k u c a e v : Nat) : (logErr d st k u c a e v).overCurrent = d.overCurrent := rfl
@[simp] theorem logErr_deep (st : Half) (k u c a e v : Nat) : (logErr d st k u c a e v).deep = d.deep := rfl
@[simp] theorem logErr_thermTrip (st : Half) (k u c a e v : Nat) : (logErr d st k u c a e v).thermTrip = d.thermTrip := rfl
@[simp] theorem logErr_sensors (st : Half) (k u c a e v : Nat) : (logErr d st k u c a e v).sensors = d.sensors := rfl
@[simp] theorem logErr_levers (st : Half) (k u c a e v : Nat) : (logErr d st k u c a e v).levers = d.levers := rfl
@[simp] theorem logErr_hbmLevel (st : Half) (k u c a e v : Nat) : (logErr d st k u c a e v).hbmLevel = d.hbmLevel := rfl
@[simp] theorem logErr_cals (st : Half) (k u c a e v : Nat) : (logErr d st k u c a e v).cals = d.cals := rfl
@[simp] theorem logErr_creset (st : Half) (k u c a e v : Nat) : (logErr d st k u c a e v).creset = d.creset := rfl
@[simp] theorem logErr_noServices (st : Half) (k u c a e v : Nat) : (logErr d st k u c a e v).noServices = d.noServices := rfl
@[simp] theorem logErr_noTiles (st : Half) (k u c a e v : Nat) : (logErr d st k u c a e v).noTiles = d.noTiles := rfl
@[simp] theorem logErr_noHdm (st : Half) (k u c a e v : Nat) : (logErr d st k u c a e v).noHdm = d.noHdm := rfl
@[simp] theorem logErr_repairCnt (st : Half) (k u c a e v : Nat) : (logErr d st k u c a e v).repairCnt = d.repairCnt := rfl
@[simp] theorem logErr_defects (st : Half) (k u c a e v : Nat) : (logErr d st k u c a e v).defects = d.defects := rfl
@[simp] theorem logErr_class1 (st : Half) (k u c a e v : Nat) : (logErr d st k u c a e v).class1 = d.class1 := rfl
@[simp] theorem logErr_limits (st : Half) (k u c a e v : Nat) : (logErr d st k u c a e v).limits = d.limits := rfl
@[simp] theorem logErr_board (st : Half) (k u c a e v : Nat) : (logErr d st k u c a e v).board = d.board := rfl
@[simp] theorem logErr_nvm (st : Half) (k u c a e v : Nat) : (logErr d st k u c a e v).nvm = d.nvm := rfl
@[simp] theorem logErr_flashOk (st : Half) (k u c a e v : Nat) : (logErr d st k u c a e v).flashOk = d.flashOk := rfl
@[simp] theorem logErr_fw (st : Half) (k u c a e v : Nat) : (logErr d st k u c a e v).fw = d.fw := rfl
@[simp] theorem logErr_entropy (st : Half) (k u c a e v : Nat) : (logErr d st k u c a e v).entropy = d.entropy := rfl
@[simp] theorem logErr_resv (st : Half) (k u c a e v : Nat) : (logErr d st k u c a e v).resv = d.resv := rfl
@[simp] theorem logErr_pgLow (st : Half) (k u c a e v : Nat) : (logErr d st k u c a e v).pgLow = d.pgLow := rfl
@[simp] theorem logErr_rstHigh (st : Half) (k u c a e v : Nat) : (logErr d st k u c a e v).rstHigh = d.rstHigh := rfl
@[simp] theorem logErr_hueWin (st : Half) (k u c a e v : Nat) : (logErr d st k u c a e v).hueWin = d.hueWin := rfl
@[simp] theorem logErr_hueWinNo (st : Half) (k u c a e v : Nat) : (logErr d st k u c a e v).hueWinNo = d.hueWinNo := rfl
@[simp] theorem logErr_hueForce (st : Half) (k u c a e v : Nat) : (logErr d st k u c a e v).hueForce = d.hueForce := rfl
@[simp] theorem logErr_hue (st : Half) (k u c a e v : Nat) : (logErr d st k u c a e v).hue = d.hue := rfl
@[simp] theorem logErr_freeCnt (st : Half) (k u c a e v : Nat) : (logErr d st k u c a e v).freeCnt = d.freeCnt := rfl
@[simp] theorem logErr_lost (st : Half) (k u c a e v : Nat) : (logErr d st k u c a e v).lost = d.lost := rfl
@[simp] theorem logErr_repairq (st : Half) (k u c a e v : Nat) : (logErr d st k u c a e v).repairq = d.repairq := rfl
@[simp] theorem logErr_lvlErr (st : Half) (k u c a e v : Nat) : (logErr d st k u c a e v).lvlErr = d.lvlErr := rfl
@[simp] theorem logErr_lvlPorts (st : Half) (k u c a e v : Nat) : (logErr d st k u c a e v).lvlPorts = d.lvlPorts := rfl
@[simp] theorem logErr_out (st : Half) (k u c a e v : Nat) : (logErr d st k u c a e v).out = d.out := rfl

/-! ### regPut -/

@[simp] theorem regPut_phase (r : RegId) (ix : List Nat) (v : Nat) : (regPut d r ix v).phase = d.phase := rfl
@[simp] theorem regPut_tb (r : RegId) (ix : List Nat) (v : Nat) : (regPut d r ix v).tb = d.tb := rfl
@[simp] theorem regPut_cues (r : RegId) (ix : List Nat) (v : Nat) : (regPut d r ix v).cues = d.cues := rfl
@[simp] theorem regPut_cuePtr (r : RegId) (ix : List Nat) (v : Nat) : (regPut d r ix v).cuePtr = d.cuePtr := rfl
@[simp] theorem regPut_cueFired (r : RegId) (ix : List Nat) (v : Nat) : (regPut d r ix v).cueFired = d.cueFired := rfl
@[simp] theorem regPut_ejectPtr (r : RegId) (ix : List Nat) (v : Nat) : (regPut d r ix v).ejectPtr = d.ejectPtr := rfl
@[simp] theorem regPut_managedAt (r : RegId) (ix : List Nat) (v : Nat) : (regPut d r ix v).managedAt = d.managedAt := rfl
@[simp] theorem regPut_windowNo (r : RegId) (ix : List Nat) (v : Nat) : (regPut d r ix v).windowNo = d.windowNo := rfl
@[simp] theorem regPut_waits (r : RegId) (ix : List Nat) (v : Nat) : (regPut d r ix v).waits = d.waits := rfl
@[simp] theorem regPut_piprNext (r : RegId) (ix : List Nat) (v : Nat) : (regPut d r ix v).piprNext = d.piprNext := rfl
@[simp] theorem regPut_prefetches (r : RegId) (ix : List Nat) (v : Nat) : (regPut d r ix v).prefetches = d.prefetches := rfl
@[simp] theorem regPut_tiles (r : RegId) (ix : List Nat) (v : Nat) : (regPut d r ix v).tiles = d.tiles := rfl
@[simp] theorem regPut_canvases (r : RegId) (ix : List Nat) (v : Nat) : (regPut d r ix v).canvases = d.canvases := rfl
@[simp] theorem regPut_streams (r : RegId) (ix : List Nat) (v : Nat) : (regPut d r ix v).streams = d.streams := rfl
@[simp] theorem regPut_hbm (r : RegId) (ix : List Nat) (v : Nat) : (regPut d r ix v).hbm = d.hbm := rfl
@[simp] theorem regPut_undef (r : RegId) (ix : List Nat) (v : Nat) : (regPut d r ix v).undef = d.undef := rfl
@[simp] theorem regPut_undefCnt (r : RegId) (ix : List Nat) (v : Nat) : (regPut d r ix v).undefCnt = d.undefCnt := rfl
@[simp] theorem regPut_slices (r : RegId) (ix : List Nat) (v : Nat) : (regPut d r ix v).slices = d.slices := rfl
@[simp] theorem regPut_accesses (r : RegId) (ix : List Nat) (v : Nat) : (regPut d r ix v).accesses = d.accesses := rfl
@[simp] theorem regPut_preserves (r : RegId) (ix : List Nat) (v : Nat) : (regPut d r ix v).preserves = d.preserves := rfl
@[simp] theorem regPut_stks (r : RegId) (ix : List Nat) (v : Nat) : (regPut d r ix v).stks = d.stks := rfl
@[simp] theorem regPut_refresh (r : RegId) (ix : List Nat) (v : Nat) : (regPut d r ix v).refresh = d.refresh := rfl
@[simp] theorem regPut_sessions (r : RegId) (ix : List Nat) (v : Nat) : (regPut d r ix v).sessions = d.sessions := rfl
@[simp] theorem regPut_sessSeq (r : RegId) (ix : List Nat) (v : Nat) : (regPut d r ix v).sessSeq = d.sessSeq := rfl
@[simp] theorem regPut_sweeps (r : RegId) (ix : List Nat) (v : Nat) : (regPut d r ix v).sweeps = d.sweeps := rfl
@[simp] theorem regPut_xfers (r : RegId) (ix : List Nat) (v : Nat) : (regPut d r ix v).xfers = d.xfers := rfl
@[simp] theorem regPut_nextXfer (r : RegId) (ix : List Nat) (v : Nat) : (regPut d r ix v).nextXfer = d.nextXfer := rfl
@[simp] theorem regPut_merges (r : RegId) (ix : List Nat) (v : Nat) : (regPut d r ix v).merges = d.merges := rfl
@[simp] theorem regPut_links (r : RegId) (ix : List Nat) (v : Nat) : (regPut d r ix v).links = d.links := rfl
@[simp] theorem regPut_ports (r : RegId) (ix : List Nat) (v : Nat) : (regPut d r ix v).ports = d.ports := rfl
@[simp] theorem regPut_switches (r : RegId) (ix : List Nat) (v : Nat) : (regPut d r ix v).switches = d.switches := rfl
@[simp] theorem regPut_requests (r : RegId) (ix : List Nat) (v : Nat) : (regPut d r ix v).requests = d.requests := rfl
@[simp] theorem regPut_nextTag (r : RegId) (ix : List Nat) (v : Nat) : (regPut d r ix v).nextTag = d.nextTag := rfl
@[simp] theorem regPut_colls (r : RegId) (ix : List Nat) (v : Nat) : (regPut d r ix v).colls = d.colls := rfl
@[simp] theorem regPut_routes (r : RegId) (ix : List Nat) (v : Nat) : (regPut d r ix v).routes = d.routes := rfl
@[simp] theorem regPut_wins (r : RegId) (ix : List Nat) (v : Nat) : (regPut d r ix v).wins = d.wins := rfl
@[simp] theorem regPut_coreWins (r : RegId) (ix : List Nat) (v : Nat) : (regPut d r ix v).coreWins = d.coreWins := rfl
@[simp] theorem regPut_ops (r : RegId) (ix : List Nat) (v : Nat) : (regPut d r ix v).ops = d.ops := rfl
@[simp] theorem regPut_nextOp (r : RegId) (ix : List Nat) (v : Nat) : (regPut d r ix v).nextOp = d.nextOp := rfl
@[simp] theorem regPut_held (r : RegId) (ix : List Nat) (v : Nat) : (regPut d r ix v).held = d.held := rfl
@[simp] theorem regPut_rasInternal (r : RegId) (ix : List Nat) (v : Nat) : (regPut d r ix v).rasInternal = d.rasInternal := rfl
@[simp] theorem regPut_link (r : RegId) (ix : List Nat) (v : Nat) : (regPut d r ix v).link = d.link := rfl
@[simp] theorem regPut_msixPend (r : RegId) (ix : List Nat) (v : Nat) : (regPut d r ix v).msixPend = d.msixPend := rfl
@[simp] theorem regPut_svcs (r : RegId) (ix : List Nat) (v : Nat) : (regPut d r ix v).svcs = d.svcs := rfl
@[simp] theorem regPut_blocks (r : RegId) (ix : List Nat) (v : Nat) : (regPut d r ix v).blocks = d.blocks := rfl
@[simp] theorem regPut_seqs (r : RegId) (ix : List Nat) (v : Nat) : (regPut d r ix v).seqs = d.seqs := rfl
@[simp] theorem regPut_railReads (r : RegId) (ix : List Nat) (v : Nat) : (regPut d r ix v).railReads = d.railReads := rfl
@[simp] theorem regPut_senseRun (r : RegId) (ix : List Nat) (v : Nat) : (regPut d r ix v).senseRun = d.senseRun := rfl
@[simp] theorem regPut_senseLogged (r : RegId) (ix : List Nat) (v : Nat) : (regPut d r ix v).senseLogged = d.senseLogged := rfl
@[simp] theorem regPut_overCurrent (r : RegId) (ix : List Nat) (v : Nat) : (regPut d r ix v).overCurrent = d.overCurrent := rfl
@[simp] theorem regPut_deep (r : RegId) (ix : List Nat) (v : Nat) : (regPut d r ix v).deep = d.deep := rfl
@[simp] theorem regPut_thermTrip (r : RegId) (ix : List Nat) (v : Nat) : (regPut d r ix v).thermTrip = d.thermTrip := rfl
@[simp] theorem regPut_sensors (r : RegId) (ix : List Nat) (v : Nat) : (regPut d r ix v).sensors = d.sensors := rfl
@[simp] theorem regPut_levers (r : RegId) (ix : List Nat) (v : Nat) : (regPut d r ix v).levers = d.levers := rfl
@[simp] theorem regPut_hbmLevel (r : RegId) (ix : List Nat) (v : Nat) : (regPut d r ix v).hbmLevel = d.hbmLevel := rfl
@[simp] theorem regPut_cals (r : RegId) (ix : List Nat) (v : Nat) : (regPut d r ix v).cals = d.cals := rfl
@[simp] theorem regPut_creset (r : RegId) (ix : List Nat) (v : Nat) : (regPut d r ix v).creset = d.creset := rfl
@[simp] theorem regPut_noServices (r : RegId) (ix : List Nat) (v : Nat) : (regPut d r ix v).noServices = d.noServices := rfl
@[simp] theorem regPut_noTiles (r : RegId) (ix : List Nat) (v : Nat) : (regPut d r ix v).noTiles = d.noTiles := rfl
@[simp] theorem regPut_noHdm (r : RegId) (ix : List Nat) (v : Nat) : (regPut d r ix v).noHdm = d.noHdm := rfl
@[simp] theorem regPut_repairCnt (r : RegId) (ix : List Nat) (v : Nat) : (regPut d r ix v).repairCnt = d.repairCnt := rfl
@[simp] theorem regPut_defects (r : RegId) (ix : List Nat) (v : Nat) : (regPut d r ix v).defects = d.defects := rfl
@[simp] theorem regPut_class1 (r : RegId) (ix : List Nat) (v : Nat) : (regPut d r ix v).class1 = d.class1 := rfl
@[simp] theorem regPut_limits (r : RegId) (ix : List Nat) (v : Nat) : (regPut d r ix v).limits = d.limits := rfl
@[simp] theorem regPut_board (r : RegId) (ix : List Nat) (v : Nat) : (regPut d r ix v).board = d.board := rfl
@[simp] theorem regPut_nvm (r : RegId) (ix : List Nat) (v : Nat) : (regPut d r ix v).nvm = d.nvm := rfl
@[simp] theorem regPut_flashOk (r : RegId) (ix : List Nat) (v : Nat) : (regPut d r ix v).flashOk = d.flashOk := rfl
@[simp] theorem regPut_fw (r : RegId) (ix : List Nat) (v : Nat) : (regPut d r ix v).fw = d.fw := rfl
@[simp] theorem regPut_entropy (r : RegId) (ix : List Nat) (v : Nat) : (regPut d r ix v).entropy = d.entropy := rfl
@[simp] theorem regPut_resv (r : RegId) (ix : List Nat) (v : Nat) : (regPut d r ix v).resv = d.resv := rfl
@[simp] theorem regPut_pgLow (r : RegId) (ix : List Nat) (v : Nat) : (regPut d r ix v).pgLow = d.pgLow := rfl
@[simp] theorem regPut_rstHigh (r : RegId) (ix : List Nat) (v : Nat) : (regPut d r ix v).rstHigh = d.rstHigh := rfl
@[simp] theorem regPut_hueWin (r : RegId) (ix : List Nat) (v : Nat) : (regPut d r ix v).hueWin = d.hueWin := rfl
@[simp] theorem regPut_hueWinNo (r : RegId) (ix : List Nat) (v : Nat) : (regPut d r ix v).hueWinNo = d.hueWinNo := rfl
@[simp] theorem regPut_hueForce (r : RegId) (ix : List Nat) (v : Nat) : (regPut d r ix v).hueForce = d.hueForce := rfl
@[simp] theorem regPut_hue (r : RegId) (ix : List Nat) (v : Nat) : (regPut d r ix v).hue = d.hue := rfl
@[simp] theorem regPut_freeCnt (r : RegId) (ix : List Nat) (v : Nat) : (regPut d r ix v).freeCnt = d.freeCnt := rfl
@[simp] theorem regPut_errq (r : RegId) (ix : List Nat) (v : Nat) : (regPut d r ix v).errq = d.errq := rfl
@[simp] theorem regPut_lost (r : RegId) (ix : List Nat) (v : Nat) : (regPut d r ix v).lost = d.lost := rfl
@[simp] theorem regPut_repairq (r : RegId) (ix : List Nat) (v : Nat) : (regPut d r ix v).repairq = d.repairq := rfl
@[simp] theorem regPut_lvlErr (r : RegId) (ix : List Nat) (v : Nat) : (regPut d r ix v).lvlErr = d.lvlErr := rfl
@[simp] theorem regPut_lvlPorts (r : RegId) (ix : List Nat) (v : Nat) : (regPut d r ix v).lvlPorts = d.lvlPorts := rfl
@[simp] theorem regPut_out (r : RegId) (ix : List Nat) (v : Nat) : (regPut d r ix v).out = d.out := rfl

/-! ### withHue -/

@[simp] theorem withHue_phase (h : Nat) : (withHue d h).phase = d.phase := rfl
@[simp] theorem withHue_regs (h : Nat) : (withHue d h).regs = d.regs := rfl
@[simp] theorem withHue_tb (h : Nat) : (withHue d h).tb = d.tb := rfl
@[simp] theorem withHue_cues (h : Nat) : (withHue d h).cues = d.cues := rfl
@[simp] theorem withHue_cuePtr (h : Nat) : (withHue d h).cuePtr = d.cuePtr := rfl
@[simp] theorem withHue_cueFired (h : Nat) : (withHue d h).cueFired = d.cueFired := rfl
@[simp] theorem withHue_ejectPtr (h : Nat) : (withHue d h).ejectPtr = d.ejectPtr := rfl
@[simp] theorem withHue_managedAt (h : Nat) : (withHue d h).managedAt = d.managedAt := rfl
@[simp] theorem withHue_windowNo (h : Nat) : (withHue d h).windowNo = d.windowNo := rfl
@[simp] theorem withHue_waits (h : Nat) : (withHue d h).waits = d.waits := rfl
@[simp] theorem withHue_piprNext (h : Nat) : (withHue d h).piprNext = d.piprNext := rfl
@[simp] theorem withHue_prefetches (h : Nat) : (withHue d h).prefetches = d.prefetches := rfl
@[simp] theorem withHue_tiles (h : Nat) : (withHue d h).tiles = d.tiles := rfl
@[simp] theorem withHue_canvases (h : Nat) : (withHue d h).canvases = d.canvases := rfl
@[simp] theorem withHue_streams (h : Nat) : (withHue d h).streams = d.streams := rfl
@[simp] theorem withHue_hbm (h : Nat) : (withHue d h).hbm = d.hbm := rfl
@[simp] theorem withHue_undef (h : Nat) : (withHue d h).undef = d.undef := rfl
@[simp] theorem withHue_undefCnt (h : Nat) : (withHue d h).undefCnt = d.undefCnt := rfl
@[simp] theorem withHue_slices (h : Nat) : (withHue d h).slices = d.slices := rfl
@[simp] theorem withHue_accesses (h : Nat) : (withHue d h).accesses = d.accesses := rfl
@[simp] theorem withHue_preserves (h : Nat) : (withHue d h).preserves = d.preserves := rfl
@[simp] theorem withHue_stks (h : Nat) : (withHue d h).stks = d.stks := rfl
@[simp] theorem withHue_refresh (h : Nat) : (withHue d h).refresh = d.refresh := rfl
@[simp] theorem withHue_sessions (h : Nat) : (withHue d h).sessions = d.sessions := rfl
@[simp] theorem withHue_sessSeq (h : Nat) : (withHue d h).sessSeq = d.sessSeq := rfl
@[simp] theorem withHue_sweeps (h : Nat) : (withHue d h).sweeps = d.sweeps := rfl
@[simp] theorem withHue_xfers (h : Nat) : (withHue d h).xfers = d.xfers := rfl
@[simp] theorem withHue_nextXfer (h : Nat) : (withHue d h).nextXfer = d.nextXfer := rfl
@[simp] theorem withHue_merges (h : Nat) : (withHue d h).merges = d.merges := rfl
@[simp] theorem withHue_links (h : Nat) : (withHue d h).links = d.links := rfl
@[simp] theorem withHue_ports (h : Nat) : (withHue d h).ports = d.ports := rfl
@[simp] theorem withHue_switches (h : Nat) : (withHue d h).switches = d.switches := rfl
@[simp] theorem withHue_requests (h : Nat) : (withHue d h).requests = d.requests := rfl
@[simp] theorem withHue_nextTag (h : Nat) : (withHue d h).nextTag = d.nextTag := rfl
@[simp] theorem withHue_colls (h : Nat) : (withHue d h).colls = d.colls := rfl
@[simp] theorem withHue_routes (h : Nat) : (withHue d h).routes = d.routes := rfl
@[simp] theorem withHue_wins (h : Nat) : (withHue d h).wins = d.wins := rfl
@[simp] theorem withHue_coreWins (h : Nat) : (withHue d h).coreWins = d.coreWins := rfl
@[simp] theorem withHue_ops (h : Nat) : (withHue d h).ops = d.ops := rfl
@[simp] theorem withHue_nextOp (h : Nat) : (withHue d h).nextOp = d.nextOp := rfl
@[simp] theorem withHue_held (h : Nat) : (withHue d h).held = d.held := rfl
@[simp] theorem withHue_rasInternal (h : Nat) : (withHue d h).rasInternal = d.rasInternal := rfl
@[simp] theorem withHue_link (h : Nat) : (withHue d h).link = d.link := rfl
@[simp] theorem withHue_msixPend (h : Nat) : (withHue d h).msixPend = d.msixPend := rfl
@[simp] theorem withHue_svcs (h : Nat) : (withHue d h).svcs = d.svcs := rfl
@[simp] theorem withHue_blocks (h : Nat) : (withHue d h).blocks = d.blocks := rfl
@[simp] theorem withHue_seqs (h : Nat) : (withHue d h).seqs = d.seqs := rfl
@[simp] theorem withHue_railReads (h : Nat) : (withHue d h).railReads = d.railReads := rfl
@[simp] theorem withHue_senseRun (h : Nat) : (withHue d h).senseRun = d.senseRun := rfl
@[simp] theorem withHue_senseLogged (h : Nat) : (withHue d h).senseLogged = d.senseLogged := rfl
@[simp] theorem withHue_overCurrent (h : Nat) : (withHue d h).overCurrent = d.overCurrent := rfl
@[simp] theorem withHue_deep (h : Nat) : (withHue d h).deep = d.deep := rfl
@[simp] theorem withHue_thermTrip (h : Nat) : (withHue d h).thermTrip = d.thermTrip := rfl
@[simp] theorem withHue_sensors (h : Nat) : (withHue d h).sensors = d.sensors := rfl
@[simp] theorem withHue_levers (h : Nat) : (withHue d h).levers = d.levers := rfl
@[simp] theorem withHue_hbmLevel (h : Nat) : (withHue d h).hbmLevel = d.hbmLevel := rfl
@[simp] theorem withHue_cals (h : Nat) : (withHue d h).cals = d.cals := rfl
@[simp] theorem withHue_creset (h : Nat) : (withHue d h).creset = d.creset := rfl
@[simp] theorem withHue_noServices (h : Nat) : (withHue d h).noServices = d.noServices := rfl
@[simp] theorem withHue_noTiles (h : Nat) : (withHue d h).noTiles = d.noTiles := rfl
@[simp] theorem withHue_noHdm (h : Nat) : (withHue d h).noHdm = d.noHdm := rfl
@[simp] theorem withHue_repairCnt (h : Nat) : (withHue d h).repairCnt = d.repairCnt := rfl
@[simp] theorem withHue_defects (h : Nat) : (withHue d h).defects = d.defects := rfl
@[simp] theorem withHue_class1 (h : Nat) : (withHue d h).class1 = d.class1 := rfl
@[simp] theorem withHue_limits (h : Nat) : (withHue d h).limits = d.limits := rfl
@[simp] theorem withHue_board (h : Nat) : (withHue d h).board = d.board := rfl
@[simp] theorem withHue_nvm (h : Nat) : (withHue d h).nvm = d.nvm := rfl
@[simp] theorem withHue_flashOk (h : Nat) : (withHue d h).flashOk = d.flashOk := rfl
@[simp] theorem withHue_fw (h : Nat) : (withHue d h).fw = d.fw := rfl
@[simp] theorem withHue_entropy (h : Nat) : (withHue d h).entropy = d.entropy := rfl
@[simp] theorem withHue_resv (h : Nat) : (withHue d h).resv = d.resv := rfl
@[simp] theorem withHue_pgLow (h : Nat) : (withHue d h).pgLow = d.pgLow := rfl
@[simp] theorem withHue_rstHigh (h : Nat) : (withHue d h).rstHigh = d.rstHigh := rfl
@[simp] theorem withHue_hueWin (h : Nat) : (withHue d h).hueWin = d.hueWin := rfl
@[simp] theorem withHue_hueWinNo (h : Nat) : (withHue d h).hueWinNo = d.hueWinNo := rfl
@[simp] theorem withHue_hueForce (h : Nat) : (withHue d h).hueForce = d.hueForce := rfl
@[simp] theorem withHue_freeCnt (h : Nat) : (withHue d h).freeCnt = d.freeCnt := rfl
@[simp] theorem withHue_errq (h : Nat) : (withHue d h).errq = d.errq := rfl
@[simp] theorem withHue_lost (h : Nat) : (withHue d h).lost = d.lost := rfl
@[simp] theorem withHue_repairq (h : Nat) : (withHue d h).repairq = d.repairq := rfl
@[simp] theorem withHue_lvlErr (h : Nat) : (withHue d h).lvlErr = d.lvlErr := rfl
@[simp] theorem withHue_lvlPorts (h : Nat) : (withHue d h).lvlPorts = d.lvlPorts := rfl
@[simp] theorem withHue_out (h : Nat) : (withHue d h).out = d.out := rfl

/-! ### putTile -/

@[simp] theorem putTile_phase (t : Nat) (x : Tile) : (putTile d t x).phase = d.phase := rfl
@[simp] theorem putTile_regs (t : Nat) (x : Tile) : (putTile d t x).regs = d.regs := rfl
@[simp] theorem putTile_tb (t : Nat) (x : Tile) : (putTile d t x).tb = d.tb := rfl
@[simp] theorem putTile_cues (t : Nat) (x : Tile) : (putTile d t x).cues = d.cues := rfl
@[simp] theorem putTile_cuePtr (t : Nat) (x : Tile) : (putTile d t x).cuePtr = d.cuePtr := rfl
@[simp] theorem putTile_cueFired (t : Nat) (x : Tile) : (putTile d t x).cueFired = d.cueFired := rfl
@[simp] theorem putTile_ejectPtr (t : Nat) (x : Tile) : (putTile d t x).ejectPtr = d.ejectPtr := rfl
@[simp] theorem putTile_managedAt (t : Nat) (x : Tile) : (putTile d t x).managedAt = d.managedAt := rfl
@[simp] theorem putTile_windowNo (t : Nat) (x : Tile) : (putTile d t x).windowNo = d.windowNo := rfl
@[simp] theorem putTile_waits (t : Nat) (x : Tile) : (putTile d t x).waits = d.waits := rfl
@[simp] theorem putTile_piprNext (t : Nat) (x : Tile) : (putTile d t x).piprNext = d.piprNext := rfl
@[simp] theorem putTile_prefetches (t : Nat) (x : Tile) : (putTile d t x).prefetches = d.prefetches := rfl
@[simp] theorem putTile_canvases (t : Nat) (x : Tile) : (putTile d t x).canvases = d.canvases := rfl
@[simp] theorem putTile_streams (t : Nat) (x : Tile) : (putTile d t x).streams = d.streams := rfl
@[simp] theorem putTile_hbm (t : Nat) (x : Tile) : (putTile d t x).hbm = d.hbm := rfl
@[simp] theorem putTile_undef (t : Nat) (x : Tile) : (putTile d t x).undef = d.undef := rfl
@[simp] theorem putTile_undefCnt (t : Nat) (x : Tile) : (putTile d t x).undefCnt = d.undefCnt := rfl
@[simp] theorem putTile_slices (t : Nat) (x : Tile) : (putTile d t x).slices = d.slices := rfl
@[simp] theorem putTile_accesses (t : Nat) (x : Tile) : (putTile d t x).accesses = d.accesses := rfl
@[simp] theorem putTile_preserves (t : Nat) (x : Tile) : (putTile d t x).preserves = d.preserves := rfl
@[simp] theorem putTile_stks (t : Nat) (x : Tile) : (putTile d t x).stks = d.stks := rfl
@[simp] theorem putTile_refresh (t : Nat) (x : Tile) : (putTile d t x).refresh = d.refresh := rfl
@[simp] theorem putTile_sessions (t : Nat) (x : Tile) : (putTile d t x).sessions = d.sessions := rfl
@[simp] theorem putTile_sessSeq (t : Nat) (x : Tile) : (putTile d t x).sessSeq = d.sessSeq := rfl
@[simp] theorem putTile_sweeps (t : Nat) (x : Tile) : (putTile d t x).sweeps = d.sweeps := rfl
@[simp] theorem putTile_xfers (t : Nat) (x : Tile) : (putTile d t x).xfers = d.xfers := rfl
@[simp] theorem putTile_nextXfer (t : Nat) (x : Tile) : (putTile d t x).nextXfer = d.nextXfer := rfl
@[simp] theorem putTile_merges (t : Nat) (x : Tile) : (putTile d t x).merges = d.merges := rfl
@[simp] theorem putTile_links (t : Nat) (x : Tile) : (putTile d t x).links = d.links := rfl
@[simp] theorem putTile_ports (t : Nat) (x : Tile) : (putTile d t x).ports = d.ports := rfl
@[simp] theorem putTile_switches (t : Nat) (x : Tile) : (putTile d t x).switches = d.switches := rfl
@[simp] theorem putTile_requests (t : Nat) (x : Tile) : (putTile d t x).requests = d.requests := rfl
@[simp] theorem putTile_nextTag (t : Nat) (x : Tile) : (putTile d t x).nextTag = d.nextTag := rfl
@[simp] theorem putTile_colls (t : Nat) (x : Tile) : (putTile d t x).colls = d.colls := rfl
@[simp] theorem putTile_routes (t : Nat) (x : Tile) : (putTile d t x).routes = d.routes := rfl
@[simp] theorem putTile_wins (t : Nat) (x : Tile) : (putTile d t x).wins = d.wins := rfl
@[simp] theorem putTile_coreWins (t : Nat) (x : Tile) : (putTile d t x).coreWins = d.coreWins := rfl
@[simp] theorem putTile_ops (t : Nat) (x : Tile) : (putTile d t x).ops = d.ops := rfl
@[simp] theorem putTile_nextOp (t : Nat) (x : Tile) : (putTile d t x).nextOp = d.nextOp := rfl
@[simp] theorem putTile_held (t : Nat) (x : Tile) : (putTile d t x).held = d.held := rfl
@[simp] theorem putTile_rasInternal (t : Nat) (x : Tile) : (putTile d t x).rasInternal = d.rasInternal := rfl
@[simp] theorem putTile_link (t : Nat) (x : Tile) : (putTile d t x).link = d.link := rfl
@[simp] theorem putTile_msixPend (t : Nat) (x : Tile) : (putTile d t x).msixPend = d.msixPend := rfl
@[simp] theorem putTile_svcs (t : Nat) (x : Tile) : (putTile d t x).svcs = d.svcs := rfl
@[simp] theorem putTile_blocks (t : Nat) (x : Tile) : (putTile d t x).blocks = d.blocks := rfl
@[simp] theorem putTile_seqs (t : Nat) (x : Tile) : (putTile d t x).seqs = d.seqs := rfl
@[simp] theorem putTile_railReads (t : Nat) (x : Tile) : (putTile d t x).railReads = d.railReads := rfl
@[simp] theorem putTile_senseRun (t : Nat) (x : Tile) : (putTile d t x).senseRun = d.senseRun := rfl
@[simp] theorem putTile_senseLogged (t : Nat) (x : Tile) : (putTile d t x).senseLogged = d.senseLogged := rfl
@[simp] theorem putTile_overCurrent (t : Nat) (x : Tile) : (putTile d t x).overCurrent = d.overCurrent := rfl
@[simp] theorem putTile_deep (t : Nat) (x : Tile) : (putTile d t x).deep = d.deep := rfl
@[simp] theorem putTile_thermTrip (t : Nat) (x : Tile) : (putTile d t x).thermTrip = d.thermTrip := rfl
@[simp] theorem putTile_sensors (t : Nat) (x : Tile) : (putTile d t x).sensors = d.sensors := rfl
@[simp] theorem putTile_levers (t : Nat) (x : Tile) : (putTile d t x).levers = d.levers := rfl
@[simp] theorem putTile_hbmLevel (t : Nat) (x : Tile) : (putTile d t x).hbmLevel = d.hbmLevel := rfl
@[simp] theorem putTile_cals (t : Nat) (x : Tile) : (putTile d t x).cals = d.cals := rfl
@[simp] theorem putTile_creset (t : Nat) (x : Tile) : (putTile d t x).creset = d.creset := rfl
@[simp] theorem putTile_noServices (t : Nat) (x : Tile) : (putTile d t x).noServices = d.noServices := rfl
@[simp] theorem putTile_noTiles (t : Nat) (x : Tile) : (putTile d t x).noTiles = d.noTiles := rfl
@[simp] theorem putTile_noHdm (t : Nat) (x : Tile) : (putTile d t x).noHdm = d.noHdm := rfl
@[simp] theorem putTile_repairCnt (t : Nat) (x : Tile) : (putTile d t x).repairCnt = d.repairCnt := rfl
@[simp] theorem putTile_defects (t : Nat) (x : Tile) : (putTile d t x).defects = d.defects := rfl
@[simp] theorem putTile_class1 (t : Nat) (x : Tile) : (putTile d t x).class1 = d.class1 := rfl
@[simp] theorem putTile_limits (t : Nat) (x : Tile) : (putTile d t x).limits = d.limits := rfl
@[simp] theorem putTile_board (t : Nat) (x : Tile) : (putTile d t x).board = d.board := rfl
@[simp] theorem putTile_nvm (t : Nat) (x : Tile) : (putTile d t x).nvm = d.nvm := rfl
@[simp] theorem putTile_flashOk (t : Nat) (x : Tile) : (putTile d t x).flashOk = d.flashOk := rfl
@[simp] theorem putTile_fw (t : Nat) (x : Tile) : (putTile d t x).fw = d.fw := rfl
@[simp] theorem putTile_entropy (t : Nat) (x : Tile) : (putTile d t x).entropy = d.entropy := rfl
@[simp] theorem putTile_resv (t : Nat) (x : Tile) : (putTile d t x).resv = d.resv := rfl
@[simp] theorem putTile_pgLow (t : Nat) (x : Tile) : (putTile d t x).pgLow = d.pgLow := rfl
@[simp] theorem putTile_rstHigh (t : Nat) (x : Tile) : (putTile d t x).rstHigh = d.rstHigh := rfl
@[simp] theorem putTile_hueWin (t : Nat) (x : Tile) : (putTile d t x).hueWin = d.hueWin := rfl
@[simp] theorem putTile_hueWinNo (t : Nat) (x : Tile) : (putTile d t x).hueWinNo = d.hueWinNo := rfl
@[simp] theorem putTile_hueForce (t : Nat) (x : Tile) : (putTile d t x).hueForce = d.hueForce := rfl
@[simp] theorem putTile_hue (t : Nat) (x : Tile) : (putTile d t x).hue = d.hue := rfl
@[simp] theorem putTile_freeCnt (t : Nat) (x : Tile) : (putTile d t x).freeCnt = d.freeCnt := rfl
@[simp] theorem putTile_errq (t : Nat) (x : Tile) : (putTile d t x).errq = d.errq := rfl
@[simp] theorem putTile_lost (t : Nat) (x : Tile) : (putTile d t x).lost = d.lost := rfl
@[simp] theorem putTile_repairq (t : Nat) (x : Tile) : (putTile d t x).repairq = d.repairq := rfl
@[simp] theorem putTile_lvlErr (t : Nat) (x : Tile) : (putTile d t x).lvlErr = d.lvlErr := rfl
@[simp] theorem putTile_lvlPorts (t : Nat) (x : Tile) : (putTile d t x).lvlPorts = d.lvlPorts := rfl
@[simp] theorem putTile_out (t : Nat) (x : Tile) : (putTile d t x).out = d.out := rfl

/-! ### putSlice -/

@[simp] theorem putSlice_phase (k : Nat) (x : Slice) : (putSlice d k x).phase = d.phase := rfl
@[simp] theorem putSlice_regs (k : Nat) (x : Slice) : (putSlice d k x).regs = d.regs := rfl
@[simp] theorem putSlice_tb (k : Nat) (x : Slice) : (putSlice d k x).tb = d.tb := rfl
@[simp] theorem putSlice_cues (k : Nat) (x : Slice) : (putSlice d k x).cues = d.cues := rfl
@[simp] theorem putSlice_cuePtr (k : Nat) (x : Slice) : (putSlice d k x).cuePtr = d.cuePtr := rfl
@[simp] theorem putSlice_cueFired (k : Nat) (x : Slice) : (putSlice d k x).cueFired = d.cueFired := rfl
@[simp] theorem putSlice_ejectPtr (k : Nat) (x : Slice) : (putSlice d k x).ejectPtr = d.ejectPtr := rfl
@[simp] theorem putSlice_managedAt (k : Nat) (x : Slice) : (putSlice d k x).managedAt = d.managedAt := rfl
@[simp] theorem putSlice_windowNo (k : Nat) (x : Slice) : (putSlice d k x).windowNo = d.windowNo := rfl
@[simp] theorem putSlice_waits (k : Nat) (x : Slice) : (putSlice d k x).waits = d.waits := rfl
@[simp] theorem putSlice_piprNext (k : Nat) (x : Slice) : (putSlice d k x).piprNext = d.piprNext := rfl
@[simp] theorem putSlice_prefetches (k : Nat) (x : Slice) : (putSlice d k x).prefetches = d.prefetches := rfl
@[simp] theorem putSlice_tiles (k : Nat) (x : Slice) : (putSlice d k x).tiles = d.tiles := rfl
@[simp] theorem putSlice_canvases (k : Nat) (x : Slice) : (putSlice d k x).canvases = d.canvases := rfl
@[simp] theorem putSlice_streams (k : Nat) (x : Slice) : (putSlice d k x).streams = d.streams := rfl
@[simp] theorem putSlice_hbm (k : Nat) (x : Slice) : (putSlice d k x).hbm = d.hbm := rfl
@[simp] theorem putSlice_undef (k : Nat) (x : Slice) : (putSlice d k x).undef = d.undef := rfl
@[simp] theorem putSlice_undefCnt (k : Nat) (x : Slice) : (putSlice d k x).undefCnt = d.undefCnt := rfl
@[simp] theorem putSlice_accesses (k : Nat) (x : Slice) : (putSlice d k x).accesses = d.accesses := rfl
@[simp] theorem putSlice_preserves (k : Nat) (x : Slice) : (putSlice d k x).preserves = d.preserves := rfl
@[simp] theorem putSlice_stks (k : Nat) (x : Slice) : (putSlice d k x).stks = d.stks := rfl
@[simp] theorem putSlice_refresh (k : Nat) (x : Slice) : (putSlice d k x).refresh = d.refresh := rfl
@[simp] theorem putSlice_sessions (k : Nat) (x : Slice) : (putSlice d k x).sessions = d.sessions := rfl
@[simp] theorem putSlice_sessSeq (k : Nat) (x : Slice) : (putSlice d k x).sessSeq = d.sessSeq := rfl
@[simp] theorem putSlice_sweeps (k : Nat) (x : Slice) : (putSlice d k x).sweeps = d.sweeps := rfl
@[simp] theorem putSlice_xfers (k : Nat) (x : Slice) : (putSlice d k x).xfers = d.xfers := rfl
@[simp] theorem putSlice_nextXfer (k : Nat) (x : Slice) : (putSlice d k x).nextXfer = d.nextXfer := rfl
@[simp] theorem putSlice_merges (k : Nat) (x : Slice) : (putSlice d k x).merges = d.merges := rfl
@[simp] theorem putSlice_links (k : Nat) (x : Slice) : (putSlice d k x).links = d.links := rfl
@[simp] theorem putSlice_ports (k : Nat) (x : Slice) : (putSlice d k x).ports = d.ports := rfl
@[simp] theorem putSlice_switches (k : Nat) (x : Slice) : (putSlice d k x).switches = d.switches := rfl
@[simp] theorem putSlice_requests (k : Nat) (x : Slice) : (putSlice d k x).requests = d.requests := rfl
@[simp] theorem putSlice_nextTag (k : Nat) (x : Slice) : (putSlice d k x).nextTag = d.nextTag := rfl
@[simp] theorem putSlice_colls (k : Nat) (x : Slice) : (putSlice d k x).colls = d.colls := rfl
@[simp] theorem putSlice_routes (k : Nat) (x : Slice) : (putSlice d k x).routes = d.routes := rfl
@[simp] theorem putSlice_wins (k : Nat) (x : Slice) : (putSlice d k x).wins = d.wins := rfl
@[simp] theorem putSlice_coreWins (k : Nat) (x : Slice) : (putSlice d k x).coreWins = d.coreWins := rfl
@[simp] theorem putSlice_ops (k : Nat) (x : Slice) : (putSlice d k x).ops = d.ops := rfl
@[simp] theorem putSlice_nextOp (k : Nat) (x : Slice) : (putSlice d k x).nextOp = d.nextOp := rfl
@[simp] theorem putSlice_held (k : Nat) (x : Slice) : (putSlice d k x).held = d.held := rfl
@[simp] theorem putSlice_rasInternal (k : Nat) (x : Slice) : (putSlice d k x).rasInternal = d.rasInternal := rfl
@[simp] theorem putSlice_link (k : Nat) (x : Slice) : (putSlice d k x).link = d.link := rfl
@[simp] theorem putSlice_msixPend (k : Nat) (x : Slice) : (putSlice d k x).msixPend = d.msixPend := rfl
@[simp] theorem putSlice_svcs (k : Nat) (x : Slice) : (putSlice d k x).svcs = d.svcs := rfl
@[simp] theorem putSlice_blocks (k : Nat) (x : Slice) : (putSlice d k x).blocks = d.blocks := rfl
@[simp] theorem putSlice_seqs (k : Nat) (x : Slice) : (putSlice d k x).seqs = d.seqs := rfl
@[simp] theorem putSlice_railReads (k : Nat) (x : Slice) : (putSlice d k x).railReads = d.railReads := rfl
@[simp] theorem putSlice_senseRun (k : Nat) (x : Slice) : (putSlice d k x).senseRun = d.senseRun := rfl
@[simp] theorem putSlice_senseLogged (k : Nat) (x : Slice) : (putSlice d k x).senseLogged = d.senseLogged := rfl
@[simp] theorem putSlice_overCurrent (k : Nat) (x : Slice) : (putSlice d k x).overCurrent = d.overCurrent := rfl
@[simp] theorem putSlice_deep (k : Nat) (x : Slice) : (putSlice d k x).deep = d.deep := rfl
@[simp] theorem putSlice_thermTrip (k : Nat) (x : Slice) : (putSlice d k x).thermTrip = d.thermTrip := rfl
@[simp] theorem putSlice_sensors (k : Nat) (x : Slice) : (putSlice d k x).sensors = d.sensors := rfl
@[simp] theorem putSlice_levers (k : Nat) (x : Slice) : (putSlice d k x).levers = d.levers := rfl
@[simp] theorem putSlice_hbmLevel (k : Nat) (x : Slice) : (putSlice d k x).hbmLevel = d.hbmLevel := rfl
@[simp] theorem putSlice_cals (k : Nat) (x : Slice) : (putSlice d k x).cals = d.cals := rfl
@[simp] theorem putSlice_creset (k : Nat) (x : Slice) : (putSlice d k x).creset = d.creset := rfl
@[simp] theorem putSlice_noServices (k : Nat) (x : Slice) : (putSlice d k x).noServices = d.noServices := rfl
@[simp] theorem putSlice_noTiles (k : Nat) (x : Slice) : (putSlice d k x).noTiles = d.noTiles := rfl
@[simp] theorem putSlice_noHdm (k : Nat) (x : Slice) : (putSlice d k x).noHdm = d.noHdm := rfl
@[simp] theorem putSlice_repairCnt (k : Nat) (x : Slice) : (putSlice d k x).repairCnt = d.repairCnt := rfl
@[simp] theorem putSlice_defects (k : Nat) (x : Slice) : (putSlice d k x).defects = d.defects := rfl
@[simp] theorem putSlice_class1 (k : Nat) (x : Slice) : (putSlice d k x).class1 = d.class1 := rfl
@[simp] theorem putSlice_limits (k : Nat) (x : Slice) : (putSlice d k x).limits = d.limits := rfl
@[simp] theorem putSlice_board (k : Nat) (x : Slice) : (putSlice d k x).board = d.board := rfl
@[simp] theorem putSlice_nvm (k : Nat) (x : Slice) : (putSlice d k x).nvm = d.nvm := rfl
@[simp] theorem putSlice_flashOk (k : Nat) (x : Slice) : (putSlice d k x).flashOk = d.flashOk := rfl
@[simp] theorem putSlice_fw (k : Nat) (x : Slice) : (putSlice d k x).fw = d.fw := rfl
@[simp] theorem putSlice_entropy (k : Nat) (x : Slice) : (putSlice d k x).entropy = d.entropy := rfl
@[simp] theorem putSlice_resv (k : Nat) (x : Slice) : (putSlice d k x).resv = d.resv := rfl
@[simp] theorem putSlice_pgLow (k : Nat) (x : Slice) : (putSlice d k x).pgLow = d.pgLow := rfl
@[simp] theorem putSlice_rstHigh (k : Nat) (x : Slice) : (putSlice d k x).rstHigh = d.rstHigh := rfl
@[simp] theorem putSlice_hueWin (k : Nat) (x : Slice) : (putSlice d k x).hueWin = d.hueWin := rfl
@[simp] theorem putSlice_hueWinNo (k : Nat) (x : Slice) : (putSlice d k x).hueWinNo = d.hueWinNo := rfl
@[simp] theorem putSlice_hueForce (k : Nat) (x : Slice) : (putSlice d k x).hueForce = d.hueForce := rfl
@[simp] theorem putSlice_hue (k : Nat) (x : Slice) : (putSlice d k x).hue = d.hue := rfl
@[simp] theorem putSlice_freeCnt (k : Nat) (x : Slice) : (putSlice d k x).freeCnt = d.freeCnt := rfl
@[simp] theorem putSlice_errq (k : Nat) (x : Slice) : (putSlice d k x).errq = d.errq := rfl
@[simp] theorem putSlice_lost (k : Nat) (x : Slice) : (putSlice d k x).lost = d.lost := rfl
@[simp] theorem putSlice_repairq (k : Nat) (x : Slice) : (putSlice d k x).repairq = d.repairq := rfl
@[simp] theorem putSlice_lvlErr (k : Nat) (x : Slice) : (putSlice d k x).lvlErr = d.lvlErr := rfl
@[simp] theorem putSlice_lvlPorts (k : Nat) (x : Slice) : (putSlice d k x).lvlPorts = d.lvlPorts := rfl
@[simp] theorem putSlice_out (k : Nat) (x : Slice) : (putSlice d k x).out = d.out := rfl

/-! ### putPort -/

@[simp] theorem putPort_phase (p : Nat) (x : Port) : (putPort d p x).phase = d.phase := rfl
@[simp] theorem putPort_regs (p : Nat) (x : Port) : (putPort d p x).regs = d.regs := rfl
@[simp] theorem putPort_tb (p : Nat) (x : Port) : (putPort d p x).tb = d.tb := rfl
@[simp] theorem putPort_cues (p : Nat) (x : Port) : (putPort d p x).cues = d.cues := rfl
@[simp] theorem putPort_cuePtr (p : Nat) (x : Port) : (putPort d p x).cuePtr = d.cuePtr := rfl
@[simp] theorem putPort_cueFired (p : Nat) (x : Port) : (putPort d p x).cueFired = d.cueFired := rfl
@[simp] theorem putPort_ejectPtr (p : Nat) (x : Port) : (putPort d p x).ejectPtr = d.ejectPtr := rfl
@[simp] theorem putPort_managedAt (p : Nat) (x : Port) : (putPort d p x).managedAt = d.managedAt := rfl
@[simp] theorem putPort_windowNo (p : Nat) (x : Port) : (putPort d p x).windowNo = d.windowNo := rfl
@[simp] theorem putPort_waits (p : Nat) (x : Port) : (putPort d p x).waits = d.waits := rfl
@[simp] theorem putPort_piprNext (p : Nat) (x : Port) : (putPort d p x).piprNext = d.piprNext := rfl
@[simp] theorem putPort_prefetches (p : Nat) (x : Port) : (putPort d p x).prefetches = d.prefetches := rfl
@[simp] theorem putPort_tiles (p : Nat) (x : Port) : (putPort d p x).tiles = d.tiles := rfl
@[simp] theorem putPort_canvases (p : Nat) (x : Port) : (putPort d p x).canvases = d.canvases := rfl
@[simp] theorem putPort_streams (p : Nat) (x : Port) : (putPort d p x).streams = d.streams := rfl
@[simp] theorem putPort_hbm (p : Nat) (x : Port) : (putPort d p x).hbm = d.hbm := rfl
@[simp] theorem putPort_undef (p : Nat) (x : Port) : (putPort d p x).undef = d.undef := rfl
@[simp] theorem putPort_undefCnt (p : Nat) (x : Port) : (putPort d p x).undefCnt = d.undefCnt := rfl
@[simp] theorem putPort_slices (p : Nat) (x : Port) : (putPort d p x).slices = d.slices := rfl
@[simp] theorem putPort_accesses (p : Nat) (x : Port) : (putPort d p x).accesses = d.accesses := rfl
@[simp] theorem putPort_preserves (p : Nat) (x : Port) : (putPort d p x).preserves = d.preserves := rfl
@[simp] theorem putPort_stks (p : Nat) (x : Port) : (putPort d p x).stks = d.stks := rfl
@[simp] theorem putPort_refresh (p : Nat) (x : Port) : (putPort d p x).refresh = d.refresh := rfl
@[simp] theorem putPort_sessions (p : Nat) (x : Port) : (putPort d p x).sessions = d.sessions := rfl
@[simp] theorem putPort_sessSeq (p : Nat) (x : Port) : (putPort d p x).sessSeq = d.sessSeq := rfl
@[simp] theorem putPort_sweeps (p : Nat) (x : Port) : (putPort d p x).sweeps = d.sweeps := rfl
@[simp] theorem putPort_xfers (p : Nat) (x : Port) : (putPort d p x).xfers = d.xfers := rfl
@[simp] theorem putPort_nextXfer (p : Nat) (x : Port) : (putPort d p x).nextXfer = d.nextXfer := rfl
@[simp] theorem putPort_merges (p : Nat) (x : Port) : (putPort d p x).merges = d.merges := rfl
@[simp] theorem putPort_links (p : Nat) (x : Port) : (putPort d p x).links = d.links := rfl
@[simp] theorem putPort_switches (p : Nat) (x : Port) : (putPort d p x).switches = d.switches := rfl
@[simp] theorem putPort_requests (p : Nat) (x : Port) : (putPort d p x).requests = d.requests := rfl
@[simp] theorem putPort_nextTag (p : Nat) (x : Port) : (putPort d p x).nextTag = d.nextTag := rfl
@[simp] theorem putPort_colls (p : Nat) (x : Port) : (putPort d p x).colls = d.colls := rfl
@[simp] theorem putPort_routes (p : Nat) (x : Port) : (putPort d p x).routes = d.routes := rfl
@[simp] theorem putPort_wins (p : Nat) (x : Port) : (putPort d p x).wins = d.wins := rfl
@[simp] theorem putPort_coreWins (p : Nat) (x : Port) : (putPort d p x).coreWins = d.coreWins := rfl
@[simp] theorem putPort_ops (p : Nat) (x : Port) : (putPort d p x).ops = d.ops := rfl
@[simp] theorem putPort_nextOp (p : Nat) (x : Port) : (putPort d p x).nextOp = d.nextOp := rfl
@[simp] theorem putPort_held (p : Nat) (x : Port) : (putPort d p x).held = d.held := rfl
@[simp] theorem putPort_rasInternal (p : Nat) (x : Port) : (putPort d p x).rasInternal = d.rasInternal := rfl
@[simp] theorem putPort_link (p : Nat) (x : Port) : (putPort d p x).link = d.link := rfl
@[simp] theorem putPort_msixPend (p : Nat) (x : Port) : (putPort d p x).msixPend = d.msixPend := rfl
@[simp] theorem putPort_svcs (p : Nat) (x : Port) : (putPort d p x).svcs = d.svcs := rfl
@[simp] theorem putPort_blocks (p : Nat) (x : Port) : (putPort d p x).blocks = d.blocks := rfl
@[simp] theorem putPort_seqs (p : Nat) (x : Port) : (putPort d p x).seqs = d.seqs := rfl
@[simp] theorem putPort_railReads (p : Nat) (x : Port) : (putPort d p x).railReads = d.railReads := rfl
@[simp] theorem putPort_senseRun (p : Nat) (x : Port) : (putPort d p x).senseRun = d.senseRun := rfl
@[simp] theorem putPort_senseLogged (p : Nat) (x : Port) : (putPort d p x).senseLogged = d.senseLogged := rfl
@[simp] theorem putPort_overCurrent (p : Nat) (x : Port) : (putPort d p x).overCurrent = d.overCurrent := rfl
@[simp] theorem putPort_deep (p : Nat) (x : Port) : (putPort d p x).deep = d.deep := rfl
@[simp] theorem putPort_thermTrip (p : Nat) (x : Port) : (putPort d p x).thermTrip = d.thermTrip := rfl
@[simp] theorem putPort_sensors (p : Nat) (x : Port) : (putPort d p x).sensors = d.sensors := rfl
@[simp] theorem putPort_levers (p : Nat) (x : Port) : (putPort d p x).levers = d.levers := rfl
@[simp] theorem putPort_hbmLevel (p : Nat) (x : Port) : (putPort d p x).hbmLevel = d.hbmLevel := rfl
@[simp] theorem putPort_cals (p : Nat) (x : Port) : (putPort d p x).cals = d.cals := rfl
@[simp] theorem putPort_creset (p : Nat) (x : Port) : (putPort d p x).creset = d.creset := rfl
@[simp] theorem putPort_noServices (p : Nat) (x : Port) : (putPort d p x).noServices = d.noServices := rfl
@[simp] theorem putPort_noTiles (p : Nat) (x : Port) : (putPort d p x).noTiles = d.noTiles := rfl
@[simp] theorem putPort_noHdm (p : Nat) (x : Port) : (putPort d p x).noHdm = d.noHdm := rfl
@[simp] theorem putPort_repairCnt (p : Nat) (x : Port) : (putPort d p x).repairCnt = d.repairCnt := rfl
@[simp] theorem putPort_defects (p : Nat) (x : Port) : (putPort d p x).defects = d.defects := rfl
@[simp] theorem putPort_class1 (p : Nat) (x : Port) : (putPort d p x).class1 = d.class1 := rfl
@[simp] theorem putPort_limits (p : Nat) (x : Port) : (putPort d p x).limits = d.limits := rfl
@[simp] theorem putPort_board (p : Nat) (x : Port) : (putPort d p x).board = d.board := rfl
@[simp] theorem putPort_nvm (p : Nat) (x : Port) : (putPort d p x).nvm = d.nvm := rfl
@[simp] theorem putPort_flashOk (p : Nat) (x : Port) : (putPort d p x).flashOk = d.flashOk := rfl
@[simp] theorem putPort_fw (p : Nat) (x : Port) : (putPort d p x).fw = d.fw := rfl
@[simp] theorem putPort_entropy (p : Nat) (x : Port) : (putPort d p x).entropy = d.entropy := rfl
@[simp] theorem putPort_resv (p : Nat) (x : Port) : (putPort d p x).resv = d.resv := rfl
@[simp] theorem putPort_pgLow (p : Nat) (x : Port) : (putPort d p x).pgLow = d.pgLow := rfl
@[simp] theorem putPort_rstHigh (p : Nat) (x : Port) : (putPort d p x).rstHigh = d.rstHigh := rfl
@[simp] theorem putPort_hueWin (p : Nat) (x : Port) : (putPort d p x).hueWin = d.hueWin := rfl
@[simp] theorem putPort_hueWinNo (p : Nat) (x : Port) : (putPort d p x).hueWinNo = d.hueWinNo := rfl
@[simp] theorem putPort_hueForce (p : Nat) (x : Port) : (putPort d p x).hueForce = d.hueForce := rfl
@[simp] theorem putPort_hue (p : Nat) (x : Port) : (putPort d p x).hue = d.hue := rfl
@[simp] theorem putPort_freeCnt (p : Nat) (x : Port) : (putPort d p x).freeCnt = d.freeCnt := rfl
@[simp] theorem putPort_errq (p : Nat) (x : Port) : (putPort d p x).errq = d.errq := rfl
@[simp] theorem putPort_lost (p : Nat) (x : Port) : (putPort d p x).lost = d.lost := rfl
@[simp] theorem putPort_repairq (p : Nat) (x : Port) : (putPort d p x).repairq = d.repairq := rfl
@[simp] theorem putPort_lvlErr (p : Nat) (x : Port) : (putPort d p x).lvlErr = d.lvlErr := rfl
@[simp] theorem putPort_lvlPorts (p : Nat) (x : Port) : (putPort d p x).lvlPorts = d.lvlPorts := rfl
@[simp] theorem putPort_out (p : Nat) (x : Port) : (putPort d p x).out = d.out := rfl

/-! ### What is put is what is read -/

@[simp] theorem withHue_hue (h : Nat) : (withHue d h).hue = h := rfl
@[simp] theorem emit_out (o : Output) : (emit d o).out = d.out ++ [o] := rfl
@[simp] theorem tileOf_putTile (t : Nat) (x : Tile) : tileOf (putTile d t x) t = x := by simp [tileOf, putTile]
theorem tileOf_putTile_other {t u : Nat} (h : t ≠ u) (x : Tile) : tileOf (putTile d t x) u = tileOf d u := by
  simp [tileOf, putTile, tget_tput_other _ _ h]
@[simp] theorem tileOf_modTile (t : Nat) (f : Tile → Tile) : tileOf (modTile d t f) t = f (tileOf d t) := by
  simp [modTile]
@[simp] theorem sliceOf_putSlice (k : Nat) (x : Slice) : sliceOf (putSlice d k x) k = x := by simp [sliceOf, putSlice]
@[simp] theorem sliceOf_modSlice (k : Nat) (f : Slice → Slice) : sliceOf (modSlice d k f) k = f (sliceOf d k) := by
  simp [modSlice]
@[simp] theorem portOf_putPort (p : Nat) (x : Port) : portOf (putPort d p x) p = x := by simp [portOf, putPort]
@[simp] theorem portOf_modPort (p : Nat) (f : Port → Port) : portOf (modPort d p f) p = f (portOf d p) := by
  simp [modPort]

end Sys2Proof.Laws
end

