-- ==== Sys2Proof/WellFormed.lean ====
section
/-! DEFINITION. Commands whose operands name units, registers and places that the device has. The meanings do not assume it:
a command that names a unit the device has not changes nothing. -/
namespace Sys2Proof

/-- Control cores 0 to 7 (R475). -/
def Req.wf : Req → Bool
  | .host => true
  | .core c => decide (c < 8)

/-- Command slots 0 to 63 (R439), control cores 0 to 7. -/
def Win.wf : Win → Bool
  | .slot n => decide (n < 64)
  | .core c => decide (c < 8)

/-- The agents of R147. -/
def Agent.wf : Agent → Bool
  | .tile t => decide (t < 256)
  | .mover r => decide (r < 8)
  | .core c => decide (c < 8)
  | .host => true
  | .peer dev => decide (dev < 65536)
  | .pip => true

/-- Registers 0 to 63, pairs that start at an even one, stage registers 0 to 31 (R114, R115). -/
def Opnd.wf : Opnd → Bool
  | .imm v => decide (v < 2 ^ 64)
  | .reg n => decide (n < 64)
  | .pair n => decide (n < 64) && n % 2 == 0
  | .sreg j => decide (j < 32)
  | .sregHalf j _ => decide (j < 32)
  | .sys _ => true

def Dst.wf : Dst → Bool
  | .reg n => decide (n < 64)
  | .pair n => decide (n < 64) && n % 2 == 0
  | .sreg j => decide (j < 32)
  | .sregHalf j _ => decide (j < 32)

/-- A bit of a register: 0 to 63 are general registers of a lane, 64 to 127 halves of stage registers, 128 to 143
vector-unit registers of one of 128 lanes. -/
def Upset.wf (u : Upset) : Bool := decide (u.lane < (if u.reg < 128 then 32 else 128) ∧ u.reg < 144 ∧ u.bit < 33)

/-- A group of a tile: tiles 0 to 255, groups 0 to 47. -/
def groupWf (t g : Nat) : Bool := decide (t < 256 ∧ g < 48)

def HoldArgs.wf (a : HoldArgs) : Bool :=
  decide (a.mask < 2 ^ 32) && [a.bank, a.fmt, a.rows, a.src, a.srcPitch, a.srcScale].all Opnd.wf

def MmaArgs.wf (a : MmaArgs) : Bool :=
  decide (a.mask < 2 ^ 32) &&
    [a.bank, a.fmt, a.m, a.feedMode, a.feed, a.feedStep, a.streamNo, a.first, a.col, a.feedScale, a.acc, a.accMode, a.outMode,
     a.out, a.outPitch, a.outFmt, a.round].all Opnd.wf

def SensorId.wf : SensorId → Bool
  | .compute p i => decide (p < 272 ∧ i < 7)
  | .kreten s i => decide (s < 256 ∧ i < 2)
  | .rind r i => decide (r < 8 ∧ i < 4)
  | .hbm s d => decide (s < 16 ∧ d < 13)
  | .stem i => decide (i < 16)
  | .via i => decide (i < 144)

/-- A local device address (R21). -/
def addrWf (a : Nat) : Bool := decide (a < 2 ^ 48)

/-- A host physical address. -/
def hostAddrWf (a : Nat) : Bool := decide (a < 2 ^ 64)

/-- A slice and one of its vertical ports (R548). -/
def portWf (slice port : Nat) : Bool := decide (slice < 256 ∧ port < 2)

/-- A stack and one of its pseudo-channels (R321). -/
def pcWf (stack pc : Nat) : Bool := decide (stack < 16 ∧ pc < 32)

/-- An access of 4 or 8 bytes within BAR0 or BAR2 (R439). Other sizes exist and are answered with an error (R30). -/
def accessWf (off bytes : Nat) : Bool := decide (off < 2 ^ 26) && decide (1 ≤ bytes ∧ bytes ≤ 64)

def Instr.wf : Instr → Bool
  | .registerWrite r _ off bytes _ => r.wf && accessWf off bytes
  | .streamWrite t g stream addr rank _ => groupWf t g && decide (stream < 16384) && addr.wf && rank.wf
  | .streamRead t g stream rank dstAddr dstLen =>
    groupWf t g && decide (stream < 16384) && (rank.map Opnd.wf).getD true && decide (dstAddr < 64 ∧ dstLen < 64)
  | .streamRelease t g stream slotAddr => groupWf t g && decide (stream < 16384) && slotAddr.wf
  | .packetArrives tx ty ch heads => decide (tx < 16 ∧ ty < 16 ∧ ch < 4) && heads.all fun x => decide (x.1 < 16384 ∧ x.2 < 256)
  | .creditReturns canvas stream prod cons => decide (canvas < 16 ∧ stream < 16384 ∧ prod < 256 ∧ cons < 256)
  | .canvasLoad w => w.wf
  | .canvasLoadComplete canvas => decide (canvas < 16)
  | .canvasStart w => w.wf
  | .canvasBeginIssue canvas => decide (canvas < 16)
  | .canvasStop w => w.wf
  | .canvasDrained canvas => decide (canvas < 16)
  | .canvasUnload w => w.wf
  | .canvasUnloadComplete canvas => decide (canvas < 16)
  | .sittingSwitch t => decide (t < 256)
  | .minSeatElapsed t => decide (t < 256)
  | .yieldWindowExpires t => decide (t < 256)
  | .switchPoint t => decide (t < 256)
  | .saveDone t => decide (t < 256)
  | .restoreDone t => decide (t < 256)
  | .seatPrefetchStart t order => decide (t < 256 ∧ order < 64)
  | .nextStepStart t => decide (t < 256)
  | .tbFirstLock _ => true
  | .referenceLost => true
  | .referenceReturns _ => true
  | .ppsOutPulse => true
  | .tbNowRead r _ => r.wf
  | .tbConfigWrite r off bytes _ => r.wf && accessWf off bytes
  | .cueArmInstr t g dst addr => groupWf t g && decide (dst < 64) && addr.wf
  | .cueCancelInstr t g dst kind x y tag => groupWf t g && decide (dst < 64) && [kind, x, y, tag].all Opnd.wf
  | .cueWait t g line => groupWf t g && line.wf
  | .timeRead t g dst => groupWf t g && decide (dst < 64) && dst % 2 == 0
  | .cueGoArm r bytes _ => r.wf && decide (1 ≤ bytes ∧ bytes ≤ 64)
  | .cueGoCancel r bytes _ => r.wf && decide (1 ≤ bytes ∧ bytes ≤ 64)
  | .stepStartFires t => decide (t < 256)
  | .moverStartFires r => decide (r < 8)
  | .collectiveOpenFires r => decide (r < 8)
  | .telemetrySampleFires x => decide (x.domains.length = 24 ∧ x.paces.length = 256)
  | .yield t g => groupWf t g
  | .exit t g => groupWf t g
  | .canvasEnd t g => groupWf t g
  | .arithmeticOp t g _ _ dst a b c upsets => groupWf t g && dst.wf && [a, b, c].all Opnd.wf && upsets.all Upset.wf
  | .laneShuffle t g dst src idx upsets => groupWf t g && decide (dst < 64 ∧ src < 64) && idx.wf && upsets.all Upset.wf
  | .branch t g cond target upsets => groupWf t g && (cond.map Opnd.wf).getD true && target.wf && upsets.all Upset.wf
  | .barInit t g b groupMask laneMask => groupWf t g && [b, groupMask, laneMask].all Opnd.wf
  | .barSync t g b => groupWf t g && b.wf
  | .barArrive t g b => groupWf t g && b.wf
  | .barrierTimeout t => decide (t < 256)
  | .contextExport w => w.wf
  | .contextImport w => w.wf
  | .load t g _ addr _ size _ dst order scope _ upsets =>
    groupWf t g && addr.wf && nmemSize size && decide (dst < 64 ∧ order < 4 ∧ scope < 4) && upsets.all Upset.wf
  | .store t g _ addr _ size src order scope upsets =>
    groupWf t g && addr.wf && nmemSize size && decide (src < 64 ∧ order < 4 ∧ scope < 4) && upsets.all Upset.wf
  | .atomic t g _ _ _ addr _ dst val cmp order scope _ upsets =>
    groupWf t g && [addr, val, cmp].all Opnd.wf && decide (dst < 64 ∧ order < 4 ∧ scope < 4) && upsets.all Upset.wf
  | .fence t g scope => groupWf t g && decide (scope < 4)
  | .coreLoad c addr size _ => decide (c < 8) && addrWf addr && nmemSize size
  | .coreStore c addr size _ => decide (c < 8) && addrWf addr && nmemSize size
  | .coreAmo c addr size _ _ _ => decide (c < 8) && addrWf addr && (size == 4 || size == 8)
  | .coreSc c addr size _ => decide (c < 8) && addrWf addr && (size == 4 || size == 8)
  | .hostMemRead addr _ => hostAddrWf addr
  | .hostMemWrite addr data _ _ _ => hostAddrWf addr && data.all fun e => decide (e.1 < 1024)
  | .hostWriteback addr data _ => hostAddrWf addr && (data.map fun l => l.all fun e => decide (e.1 < 1024)).getD true
  | .hostSnoop addr => hostAddrWf addr
  | .easelHold t g a => groupWf t g && a.wf
  | .easelMma t g a => groupWf t g && a.wf
  | .easelWait t g => groupWf t g
  | .easelEnterQueue t => decide (t < 256)
  | .easelBegin t => decide (t < 256)
  | .holdLoaded t => decide (t < 256)
  | .mmaFed t => decide (t < 256)
  | .chainWrite t => decide (t < 256)
  | .holdReloadDone t bank => decide (t < 256 ∧ bank < 2)
  | .keeperGapBegin t => decide (t < 256)
  | .keepGapExpires t => decide (t < 256)
  | .rampStepElapses t => decide (t < 256)
  | .gateRead t g stream addr dst => groupWf t g && decide (stream < 16384 ∧ dst < 64) && addr.wf
  | .fillHoldExpires canvas stream cons => decide (canvas < 16 ∧ stream < 16384 ∧ cons < 256)
  | .cvt t g dst src _ _ _ _ => groupWf t g && decide (dst < 64 ∧ src < 64)
  | .vcvt t g vdst vsrc _ _ _ _ => groupWf t g && decide (vdst < 16 ∧ vsrc < 16)
  | .vcvtPack t g addr vsrc _ _ _ => groupWf t g && addr.wf && decide (vsrc < 16)
  | .vcvtUnpack t g vdst addr _ => groupWf t g && addr.wf && decide (vdst < 16)
  | .vcvtMx t g elemAddr scaleAddr vsrc _ _ => groupWf t g && elemAddr.wf && scaleAddr.wf && decide (vsrc < 16)
  | .vcvtUnmx t g vdst elemAddr scaleAddr _ => groupWf t g && elemAddr.wf && scaleAddr.wf && decide (vdst < 16)
  | .entropyCondition raw => decide (raw.length = 128)
  | .entropyHealthFail _ => true
  | .entropyRestart r off bytes _ => r.wf && accessWf off bytes
  | .entropyStartupDone => true
  | .entropyDataRead r off bytes => r.wf && accessWf off bytes
  | .entropyDataDelivered => true
  | .rand t g dst seed tkey index c _ => groupWf t g && decide (dst < 64 ∧ seed < 32) && [tkey, index, c].all Opnd.wf
  | .randJump t g gen => groupWf t g && gen.wf
  | .randPseed t g seed => groupWf t g && decide (seed < 32)
  | .vrandBits t g vdst seed tkey base c _ => groupWf t g && decide (vdst < 16 ∧ seed < 32) && [tkey, base, c].all Opnd.wf
  | .vrandUnif t g vdst seed tkey base _ => groupWf t g && decide (vdst < 16 ∧ seed < 32) && [tkey, base].all Opnd.wf
  | .vrandBern t g addr p seed tkey base _ => groupWf t g && decide (seed < 32) && [addr, p, tkey, base].all Opnd.wf
  | .vrandCat t g dst addr n seed tkey base _ => groupWf t g && decide (dst < 64 ∧ seed < 32) && [addr, n, tkey, base].all Opnd.wf
  | .vsample t g dst addr n invT topk topp _ seed tkey base _ =>
    groupWf t g && decide (dst < 64 ∧ seed < 32) && [addr, n, invT, topk, topp, tkey, base].all Opnd.wf
  | .moveStart t g dst addr space mv => groupWf t g && decide (dst < 64) && [addr, space, mv].all Opnd.wf
  | .mover w => w.wf
  | .moverSubmit r rind bytes _ => r.wf && decide (rind < 8) && decide (1 ≤ bytes ∧ bytes ≤ 64)
  | .transferActivate rind => decide (rind < 8)
  | .transferDone rind place => decide (rind < 8 ∧ place < 16)
  | .transferError rind place _ _ => decide (rind < 8 ∧ place < 16)
  | .transferFailed rind place => decide (rind < 8 ∧ place < 16)
  | .sliceRead a addr bytes _ => a.wf && addrWf addr && decide (1 ≤ bytes ∧ bytes ≤ 1024)
  | .sliceWrite a addr data _ => a.wf && addrWf addr && decide (1 ≤ data.length ∧ data.length ≤ 1024)
  | .fillLands slice _ => decide (slice < 256)
  | .writebackDone slice _ => decide (slice < 256)
  | .bisnpResponse slice _ dirty => decide (slice < 256) && (dirty.map fun l => l.all fun e => decide (e.1 < 1024)).getD true
  | .krTlrSet r n bytes _ => r.wf && decide (n < 16) && decide (1 ≤ bytes ∧ bytes ≤ 64)
  | .krTlrClear r n bytes _ => r.wf && decide (n < 16) && decide (1 ≤ bytes ∧ bytes ≤ 64)
  | .krTlrDrained n => decide (n < 16)
  | .preserveCreate w => w.wf
  | .preserveCreateDone id => decide (id < 256)
  | .preserveRelease w => w.wf
  | .preserveReleaseDone id => decide (id < 256)
  | .thrashWindowEnd slice => decide (slice < 256)
  | .refreshDue stack pc => pcWf stack pc
  | .pipPauseEnd stack pc => pcWf stack pc
  | .pipRegionSet r n bytes _ => r.wf && decide (n < 16) && decide (1 ≤ bytes ∧ bytes ≤ 64)
  | .pipRegionClear r n bytes _ => r.wf && decide (n < 16) && decide (1 ≤ bytes ∧ bytes ≤ 64)
  | .pipRegionDrained n => decide (n < 16)
  | .pipSession w => w.wf
  | .pipSubmit r bytes _ => r.wf && decide (1 ≤ bytes ∧ bytes ≤ 64)
  | .pipAbort w => w.wf
  | .pipAbortWrite r bytes _ => r.wf && decide (1 ≤ bytes ∧ bytes ≤ 64)
  | .sessionOpen n => decide (n < 16)
  | .sessionRun n => decide (n < 16)
  | .waveEnd n => decide (n < 16)
  | .sessionCloseDone n => decide (n < 16)
  | .ld n stack pc => decide (n < 16) && pcWf stack pc
  | .st n stack pc => decide (n < 16) && pcWf stack pc
  | .ldx n stack pc => decide (n < 16) && pcWf stack pc
  | .add n stack pc => decide (n < 16) && pcWf stack pc
  | .mul n stack pc => decide (n < 16) && pcWf stack pc
  | .fma n stack pc => decide (n < 16) && pcWf stack pc
  | .adds n stack pc => decide (n < 16) && pcWf stack pc
  | .muls n stack pc => decide (n < 16) && pcWf stack pc
  | .fmas n stack pc => decide (n < 16) && pcWf stack pc
  | .max n stack pc => decide (n < 16) && pcWf stack pc
  | .min n stack pc => decide (n < 16) && pcWf stack pc
  | .sqrt n stack pc => decide (n < 16) && pcWf stack pc
  | .rcp n stack pc => decide (n < 16) && pcWf stack pc
  | .mov n stack pc => decide (n < 16) && pcWf stack pc
  | .zero n stack pc => decide (n < 16) && pcWf stack pc
  | .sectorReceived _ _ x _ => x.words.length == 16 || x.words.length == 8
  | .linkLaneTestDone _ badBonds _ _ _ => badBonds.all fun b => decide (b < 7920)
  | .writebackRetry slice _ _ => decide (slice < 256)
  | .correctedMergeTimer kind _ => decide (kind < 9)
  | .errlogBaseWrite r off bytes _ => r.wf && accessWf off bytes
  | .errlogConsWrite r off bytes _ => r.wf && accessWf off bytes
  | .gleanSector stack _ _ => decide (stack < 16)
  | .kretenGleanSector slice _ _ => decide (slice < 256)
  | .sweep w => w.wf
  | .sweepDone _ => true
  | .smudgeArmWord r off bytes _ => r.wf && accessWf off bytes
  | .smudgeArmCrc r off bytes _ => r.wf && accessWf off bytes
  | .hueWindowStart => true
  | .bypassSwitchChange pair => decide (pair < 32)
  | .portEnable r p off bytes _ => r.wf && decide (p < 64) && accessWf off bytes
  | .portDisable r p off bytes _ => r.wf && decide (p < 64) && accessWf off bytes
  | .portRetrainWrite r p off bytes _ => r.wf && decide (p < 64) && accessWf off bytes
  | .trainFrame p f => decide (p < 64 ∧ f.bytes.length = 544)
  | .equalizeDone p => decide (p < 64)
  | .equalizeTimeout p => decide (p < 64)
  | .retrainDone p => decide (p < 64)
  | .retrainTimeout p => decide (p < 64)
  | .failedRetryTimer p => decide (p < 64)
  | .signalLoss p => decide (p < 64)
  | .frameReceived p f => decide (p < 64 ∧ f.bytes.length = 544)
  | .resendTimeout p => decide (p < 64)
  | .stampSend p frac => decide (p < 64 ∧ frac < 16)
  | .stampTimeout => true
  | .messageForward p _ => decide (p < 64)
  | .write p _ => decide (p < 64)
  | .combine p _ => decide (p < 64)
  | .read p _ => decide (p < 64)
  | .writeAck p _ => decide (p < 64)
  | .readData p _ => decide (p < 64)
  | .relay p _ => decide (p < 64)
  | .requestTimeout tag => decide (tag < 2 ^ 32)
  | .xcCtlArm r rind entry bytes _ => r.wf && decide (rind < 8 ∧ entry < 16) && decide (1 ≤ bytes ∧ bytes ≤ 64)
  | .xcCtlOpen r rind entry bytes _ => r.wf && decide (rind < 8 ∧ entry < 16) && decide (1 ≤ bytes ∧ bytes ≤ 64)
  | .xcCtlDisarm r rind entry bytes _ => r.wf && decide (rind < 8 ∧ entry < 16) && decide (1 ≤ bytes ∧ bytes ≤ 64)
  | .routeInval r off bytes _ => r.wf && accessWf off bytes
  | .recordWrite w off data => w.wf && decide (off < 64 ∧ data.length ≤ 64)
  | .cueArm w => w.wf
  | .cueCancel w => w.wf
  | .fwStage w => w.wf
  | .fwActivate w => w.wf
  | .reset w => w.wf
  | .complogRetry log _ => decide (log < 16)
  | .complogEnable r log off bytes _ => r.wf && decide (log < 16) && accessWf off bytes
  | .hdmCommit _ => true
  | .perst => true
  | .functionLevelReset => true
  | .cxlReset => true
  | .svcStart r n off bytes _ => r.wf && decide (n < 16) && accessWf off bytes
  | .svcStop r n off bytes _ => r.wf && decide (n < 16) && accessWf off bytes
  | .serviceLoadDone n _ => decide (n < 16)
  | .waitPoll n => decide (n < 16)
  | .serviceCanvasFaulted n => decide (n < 16)
  | .stepRelease n => decide (n < 16)
  | .servePoll n => decide (n < 16)
  | .loopStepDone n => decide (n < 16)
  | .loopCheckpointDone n => decide (n < 16)
  | .pmbusPoll rails => decide (rails.length = 7)
  | .telemetryWindowEnd domains models paces =>
    decide (domains.length = 24 ∧ paces.length = 256) && models.all fun e => e.1.wf
  | .powerManagerTick _ => true
  | .sequencerTarget _ point => decide (point < 3)
  | .voltageSettled _ => true
  | .clockSwitchDone _ => true
  | .sequencerTimeout _ => true
  | .tileNapEnter t => decide (t < 256)
  | .tileNapWake t => decide (t < 256)
  | .tileDozeEnter t => decide (t < 256)
  | .tileDozeWake t => decide (t < 256)
  | .stackRestEnter n => decide (n < 16)
  | .stackRestWake n => decide (n < 16)
  | .deepEnter => true
  | .deepExit => true
  | .blockEnable r off bytes _ => r.wf && accessWf off bytes
  | .blockDisable r off bytes _ => r.wf && accessWf off bytes
  | .blockPoweredUp k => decide (k < 31)
  | .blockDrainComplete k => decide (k < 31)
  | .sensorReading x _ _ => x.wf
  | .graceExpires lever => decide (lever < 4)
  | .coldReset => true
  | .powerGoodLoss rail => decide (rail < 8)
  | .coldResetRelease env => decide (env.startup.length = 2040)
  | .xeostStepEnd _ => true
  | .computeReset => true
  | .computeResetComplete f => f.badTiles.all fun t => decide (t < 272)
  | .laneTest slice port failed => portWf slice port && failed.all fun b => decide (b < 7920)
  | .bondSwap slice port => portWf slice port
  | .quiescenceTimeout slice port => portWf slice port
  | .getVersion => true
  | .getCapabilities => true
  | .negotiateAlgorithms => true
  | .getDigests => true
  | .getCertificate off len => decide (off < 65536 ∧ len < 65536)
  | .challenge nonce => decide (nonce.length = 32)
  | .getMeasurements index nonce _ => decide (index < 256 ∧ nonce.length ≤ 32)
  | .spdmUnsupportedRequest code => decide (code < 256)
  | .fwStageAddrWrite r bytes _ => r.wf && decide (1 ≤ bytes ∧ bytes ≤ 64)
  | .fwActWrite r bytes _ => r.wf && decide (1 ≤ bytes ∧ bytes ≤ 64)
  | .fwConfirm r off bytes _ => r.wf && accessWf off bytes
  | .fwCancel r off bytes _ => r.wf && accessWf off bytes
  | .keyReload r off bytes _ => r.wf && accessWf off bytes
  | .stagingComplete => true
  | .coreRestart => true
  | .healthTimeout => true
  | .grapevineOffer => true
  | .receptionTimeout => true
  | .receiptRead w bytes => w.wf && decide (1 ≤ bytes ∧ bytes ≤ 64)
  | .registerRead r _ off bytes => r.wf && accessWf off bytes
  | .hostLinkUp rate width _ bar0 bar2 =>
    decide (rate < 4 ∧ width < 4 ∧ bar0.toNat % 0x4000000 = 0 ∧ bar2.toNat % 0x40000 = 0)
  | .managementRequest _ _ => true
  | .powerGoodRise env => decide (env.startup.length = 2040)
  | .sequencerRetry _ => true
  | .ppsInEdge => true
  | .slewEnd => true
where
  /-- Access sizes of 1, 2, 4 and 8 bytes (R152). -/
  nmemSize (n : Nat) : Bool := n == 1 || n == 2 || n == 4 || n == 8

end Sys2Proof
end

