-- ==== Sys2Proof/Tests/Slice0.lean ====
section
/-! SUPPORT. Tests: what `WellFormed` refuses, and for every statement of the certificates a small device and operands that
meet its hypotheses together, each clause at a value of its own. The devices are built by hand from the helpers below. -/
namespace Sys2Proof.Tests

set_option Elab.async false
open Sys2Proof Sys2Proof.Machine Sys2Proof.Safety

/-! ### A running device with one canvas -/

/-- A stage of `groups` groups with `progSize` bytes of program, gated at `fill` rows. -/
def stg (fill : Nat) : StageEnt :=
  { groups := 2, tiles := 1, hue := 1, progSize := 64, progAt := 0, segCount := 0, segFirst := 0, barTimeout := 8,
    intAcc := 0, fillRows := fill, fillHold := 16 }

/-- Stage `k` sits on tile `k`, with 4 KiB kept and 64 KiB swapped. -/
def seatEnt (k : Nat) : SeatEnt :=
  { order := 0, stage := k, y := 0, x := k, minSeat := 4, offset := 0, swapSize := 64, swapBase := 4, keptSize := 4,
    keptBase := 0, yieldWin := 8, lead := 8 }

/-- Stage 0 writes stream 0 to stage 1 and stream 1, multicast; stage 2 is gated on stream 2. -/
def cvT : Canvas :=
  { st := .running, id := 7, period := 0, seatHue := 0, seatWays := 0, spillBase := 0x100000, spillSize := 0x10000,
    stages := [stg 0, stg 0, stg 1], seats := [seatEnt 0, seatEnt 1, seatEnt 2],
    streams := [
      { multicast := false, flits := 1, fmt := 1, hue := 1, producer := 0, landingAt := 0, slots := 2, consumer := 1, cols := 4,
        rows := 1 },
      { multicast := true, flits := 2, fmt := 1, hue := 1, producer := 0, landingAt := 1, slots := 2, consumer := 1, cols := 4,
        rows := 1 },
      { multicast := false, flits := 1, fmt := 1, hue := 1, producer := 0, landingAt := 0, slots := 2, consumer := 2, cols := 4,
        rows := 1 }],
    segments := [], programs := [List.replicate 64 0, List.replicate 64 0, List.replicate 64 0] }

def grpT : Group := { lanes := List.replicate 32 {} }

def seatT (k : Nat) (ctx : Ctx) : Seat :=
  { canvas := 0, order := 0, stage := k, rank := 0, minSeat := 4, offset := 0, swapSize := 64, swapBase := 4, keptSize := 4,
    keptBase := 0, yieldWin := 8, lead := 8, spillAt := none, st := .seated, ctx := ctx }

def tileT (k : Nat) (ctx : Ctx) : Tile :=
  { cur := some 0, seats := [(0, seatT k ctx)], canvas := some 0, physCol := k, present := true }

/-- Group 0 has all its lanes at word 0. -/
def ctxT : Ctx := { groups := [(0, grpT)] }

/-- An operating device: bring-up done, every block ON, three tiles seated. -/
def devT : Dev :=
  { phase := .running, regs := [(regOff .bootStatus [], 16)],
    tiles := [(0, tileT 0 ctxT), (1, tileT 1 ctxT), (2, tileT 2 ctxT)], canvases := [(0, cvT)],
    blocks := (List.range 31).map fun k => (k, .on),
    limits := { ordering := 0, powerW := 900, vcoreMv := 850, hbmRate := 104, maxRate := 0, rindMhz := 2000, stemMhz := 1600,
                hbmBytes := 2 ^ 40, stackMask := 0xFFFF },
    stks := (List.range 16).map fun k => (k, { populated := true, inService := true, capGib := 64 }) }

def on (d : Dev) : State := { dev := d, pending := [] }

def sT : State := on devT

/-- What group 0 of a tile sees when it issues. -/
def seen (s : State) (t : Nat) : Dev × Iss × Nat :=
  (issuing s.dev t 0 []).getD
    (s.dev, { t := t, g := 0, cv := 0, key := 0, seat := seatT 0 {}, stage := stg 0, gr := grpT, lanes := [], pc := 0 }, 0)

theorem seen_issues {s : State} {t : Nat} (h : runs s) (hs : (issuing s.dev t 0 []).isSome = true) :
    issues s t 0 [] (seen s t).1 (seen s t).2.1 (seen s t).2.2 := by
  refine ⟨h, ?_⟩
  unfold seen
  cases hx : issuing s.dev t 0 [] with
  | none => rw [hx] at hs; cases hs
  | some x => rfl

/-- The same where the device is large: everything by evaluation. -/
theorem seen_on {d : Dev} {t : Nat} (h : halted d = false ∧ (issuing d t 0 []).isSome = true) :
    issues (on d) t 0 [] (seen (on d) t).1 (seen (on d) t).2.1 (seen (on d) t).2.2 := seen_issues h.1 h.2

/-- The device, the instruction's view and the run of tile 0 of `sT`. -/
abbrev dT : Dev := (seen sT 0).1
abbrev iT : Iss := (seen sT 0).2.1
abbrev rT : Nat := (seen sT 0).2.2

theorem issues_T : issues sT 0 0 [] dT iT rT := seen_issues rfl (by decide +kernel)

/-- What tile `t` sees of a device. -/
abbrev at_ (d : Dev) (t : Nat) : Dev × Iss × Nat := seen (on d) t

/-- A device with tile 0 changed. -/
def tileDev (f : Tile → Tile) : Dev := { devT with tiles := tput devT.tiles 0 (f (tileT 0 ctxT)) }

/-! ### Command records -/

/-- The record of opcode `op` with its argument words. -/
def recW (op : Nat) (args : List Nat) : BitVec 512 :=
  BitVec.ofNat 512 (0x10101 + op * 2 ^ 32 + ((args.mapIdx fun i a => a * 2 ^ (128 + 64 * i)).foldl (· + ·) 0))

/-- A device whose slot 63 holds that record. -/
def withRec (d : Dev) (op : Nat) (args : List Nat) : Dev := { d with wins := [(63, { record := recW op args })] }

/-- The device, the operation and the handle of an accepted record. -/
def taken (d : Dev) (w : Win) (op : Nat) : Dev × Nat × Nat :=
  acceptOp d w op (windowRecord d w).user (windowRecord d w).quiet

/-- A record that passes the checks is accepted. -/
theorem accepted_of {d : Dev} {w : Win} {op : Nat}
    (h : (winExists w = true ∧ (windowRecord d w).opcode = op ∧ recordCheck d w = none) ∧ longCheck d w op = none) :
    accepted d w op (taken d w op).1 (taken d w op).2.1 (taken d w op).2.2 := ⟨h.1, h.2, rfl⟩

/-- The register at an offset, with its indices. -/
def regD (off : Nat) : RegDef × List Nat := (regAt off).getD (regDef .bootStatus, [])

/-- Bytes placed in device-local memory. -/
def withMem (d : Dev) (a : Nat) (l : List Byte) : Dev := (devWrite d (.core 0) a l).1

/-- An access that is performed at once is served. -/
theorem served_of {d : Dev} {x : Access} (h : (backed d x.addr (accessBytes x.kind) = true ∧ (∀ y ∈ d.accesses, waitsBehind y x = false)) ∧
    (perform d x).2 = true) : served d x (perform d x).1 := by
  refine ⟨h.1.1, h.1.2, ?_⟩
  cases hp : perform d x with
  | mk a b => rw [hp] at h; rw [show b = true from h.2]

/-- Bytes at an offset of an otherwise zero layout. -/
def fieldB (n off : Nat) (v : Nat) : Nat := v % 2 ^ (8 * n) * 2 ^ (8 * off)

def opOf (n : Nat) : Op := { id := n, win := .slot 63, handle := 0x3F000001, opcode := 0x11, user := 0, quiet := false, tAccept := 0 }

/-- A FILL of 64 FP32 elements at `base` with a transfer scope of 3, from or to a peer where `side` says so. -/
def fillCmd (side base : Nat) : List Byte :=
  leBytes 512 (0x10302 + fieldB 1 4 2 + fieldB 1 6 side + fieldB 2 8 (if side = 0 then 0 else 7) + fieldB 1 0xB 3 +
    fieldB 4 0x40 64 + (0x10301 + fieldB 1 4 1 + fieldB 1 5 1 + fieldB 8 0x10 base + fieldB 4 0x20 64 + fieldB 8 0x28 1) * 2 ^ (8 * 0x160))

/-- The command that those bytes spell. -/
def cmdT (side : Nat) : MoverCmd := moverCmd (fillCmd side 0x2000) none (checkDesc (dstBytes (fillCmd side 0x2000)) true).toOption

/-- A full HOLD of bank 1: 128 rows of 256 bytes from the start of the swapped region. -/
def holdArgs : HoldArgs :=
  { mask := 0xFFFFFFFF, bank := .imm 1, fmt := .imm 1, rows := .imm 128, src := .imm 4096, srcPitch := .imm 256, srcScale := .imm 0 }

/-- The CRC of a slot of zeros. -/
def zeroCrc : Nat := 3319782869

/-- The bytes of a frame of a kind, with its ACK at 1023, a code for slot 0 and the bytes and CRC of that slot; the others
are empty. -/
def frameB (code kind seq : Nat) (slot : List Byte) (crc : Nat) : List Byte :=
  leBytes 8 (code * 2 ^ 56 + kind * 2 ^ 53 + 1023 * 2 ^ 42 + seq * 2 ^ 32 + 0x10601) ++ List.replicate 8 0 ++ slot ++
    List.replicate 384 0 ++ (leBytes 4 crc ++ leBytes 4 zeroCrc ++ leBytes 4 zeroCrc ++ leBytes 4 zeroCrc)

/-- A frame that decodes. -/
def frameT (bytes : List Byte) : Frame := { decodeOk := true, bytes := bytes, corrected := 0, frac := 0, skew := [], loss := 0 }

def zeroSlot : List Byte := List.replicate 128 0

/-- A training record of device 1 in a step, which proposes rate 2. -/
def trainB (step : Nat) : List Byte := [1, 0, 0, 1, 1, 0, 0, 2, BitVec.ofNat 8 step] ++ List.replicate 119 0

/-! ### Ill-formed commands -/

def mmaArgs : MmaArgs :=
  { mask := 0, bank := .imm 0, fmt := .imm 0, m := .imm 0, feedMode := .imm 0, feed := .imm 0, feedStep := .imm 0, streamNo := .imm 0,
    first := .imm 0, col := .imm 0, feedScale := .imm 0, acc := .imm 0, accMode := .imm 0, outMode := .imm 0, out := .imm 0,
    outPitch := .imm 0, outFmt := .imm 0, round := .imm 0 }
def railT : RailReport := { mv := 0, deciA := 0, bad := false, overCurrent := false }
def domT : DomainSample := { deciA := 0, mv := 0, mw := 0 }
def telemT : TelemSample := { domains := List.replicate 24 domT, paces := List.replicate 256 0 }
def envT (n : Nat) : BootEnv :=
  { flashOk := false, flashPatch := [], startup := List.replicate n 0, stacksFound := 0, stacksBad := 0, hbmBadBanks := [], krBadBanks := [],
    krBadSlices := [], badBonds := [], underMeshBad := false, overMeshBad := false, badTiles := [], seeds := [], entropyOk := true,
    counters := (0, 0) }
def endT : BootEnd :=
  { hostUp := false, hostRate := 0, hostWidth := 0, memEn := false, cacheEn := false, biEn := false, doneMs := 0, selfTestOk := true }

def ill1 : List Instr := [
  .registerWrite (.core 8) false 0 8 0, .registerWrite .host false 4294967296 8 0, .registerWrite .host false 0 0 0,
  .streamWrite 256 0 0 (.imm 0) (.imm 0) false, .streamWrite 0 64 0 (.imm 0) (.imm 0) false,
  .streamWrite 0 0 16384 (.imm 0) (.imm 0) false, .streamWrite 0 0 0 (.pair 1) (.imm 0) false,
  .streamWrite 0 0 0 (.imm 0) (.pair 1) false, .streamRead 256 0 0 none 0 0, .streamRead 0 64 0 none 0 0,
  .streamRead 0 0 16384 none 0 0, .streamRead 0 0 0 (some (.reg 64)) 0 0, .streamRead 0 0 0 none 64 0,
  .streamRead 0 0 0 none 0 64, .streamRelease 256 0 0 (.imm 0), .streamRelease 0 64 0 (.imm 0),
  .streamRelease 0 0 16384 (.imm 0), .streamRelease 0 0 0 (.pair 1), .packetArrives 16 0 0 [], .packetArrives 0 16 0 [], .packetArrives 0 0 4 [],
  .packetArrives 0 0 0 [(0, 256)], .creditReturns 64 0 0 0, .creditReturns 0 16384 0 0, .creditReturns 0 0 256 0,
  .creditReturns 0 0 0 256, .canvasLoad (.slot 64), .canvasLoadComplete 64, .canvasStart (.slot 64), .canvasBeginIssue 64,
  .canvasStop (.slot 64), .canvasDrained 64, .canvasUnload (.slot 64), .canvasUnloadComplete 64, .sittingSwitch 256,
  .minSeatElapsed 256, .yieldWindowExpires 256, .switchPoint 256, .saveDone 256, .restoreDone 256, .seatPrefetchStart 256 0,
  .seatPrefetchStart 0 64, .nextStepStart 256, .tbNowRead (.core 8) .full, .tbConfigWrite (.core 8) 0 8 0,
  .tbConfigWrite .host 4294967296 8 0, .tbConfigWrite .host 0 0 0, .cueArmInstr 256 0 0 (.imm 0), .cueArmInstr 0 64 0 (.imm 0),
  .cueArmInstr 0 0 64 (.imm 0), .cueArmInstr 0 0 0 (.pair 1), .cueCancelInstr 256 0 0 (.imm 0) (.imm 0) (.imm 0) (.imm 0),
  .cueCancelInstr 0 64 0 (.imm 0) (.imm 0) (.imm 0) (.imm 0), .cueCancelInstr 0 0 64 (.imm 0) (.imm 0) (.imm 0) (.imm 0),
  .cueCancelInstr 0 0 0 (.pair 1) (.imm 0) (.imm 0) (.imm 0), .cueCancelInstr 0 0 0 (.imm 0) (.pair 1) (.imm 0) (.imm 0),
  .cueCancelInstr 0 0 0 (.imm 0) (.imm 0) (.pair 1) (.imm 0), .cueCancelInstr 0 0 0 (.imm 0) (.imm 0) (.imm 0) (.pair 1),
  .cueWait 256 0 (.imm 0), .cueWait 0 64 (.imm 0), .cueWait 0 0 (.pair 1)]

theorem test_illFormed1 : (ill1.all fun c => !c.wf) = true := by decide +kernel

def ill2 : List Instr := [
  .timeRead 256 0 0, .timeRead 0 64 0, .timeRead 0 0 1, .cueGoArm (.core 8) 8 0, .cueGoArm .host 0 0, .cueGoCancel (.core 8) 8 0,
  .cueGoCancel .host 0 0, .stepStartFires 256, .moverStartFires 64, .collectiveOpenFires 64,
  .telemetrySampleFires { telemT with paces := [] }, .yield 256 0, .yield 0 64, .exit 256 0, .exit 0 64, .canvasEnd 256 0,
  .canvasEnd 0 64, .arithmeticOp 256 0 .mov false (.reg 0) (.imm 0) (.imm 0) (.imm 0) [],
  .arithmeticOp 0 64 .mov false (.reg 0) (.imm 0) (.imm 0) (.imm 0) [],
  .arithmeticOp 0 0 .mov false (.sreg 32) (.imm 0) (.imm 0) (.imm 0) [],
  .arithmeticOp 0 0 .mov false (.reg 0) (.pair 1) (.imm 0) (.imm 0) [],
  .arithmeticOp 0 0 .mov false (.reg 0) (.imm 0) (.pair 1) (.imm 0) [],
  .arithmeticOp 0 0 .mov false (.reg 0) (.imm 0) (.imm 0) (.pair 1) [],
  .arithmeticOp 0 0 .mov false (.reg 0) (.imm 0) (.imm 0) (.imm 0) [{ lane := 32, reg := 0, bit := 0 }],
  .laneShuffle 256 0 0 0 (.imm 0) [], .laneShuffle 0 64 0 0 (.imm 0) [], .laneShuffle 0 0 64 0 (.imm 0) [],
  .laneShuffle 0 0 0 64 (.imm 0) [], .laneShuffle 0 0 0 0 (.pair 1) [],
  .laneShuffle 0 0 0 0 (.imm 0) [{ lane := 32, reg := 0, bit := 0 }], .branch 256 0 none (.imm 0) [],
  .branch 0 64 none (.imm 0) [], .branch 0 0 (some (.reg 64)) (.imm 0) [], .branch 0 0 none (.pair 1) [],
  .branch 0 0 none (.imm 0) [{ lane := 32, reg := 0, bit := 0 }], .barInit 256 0 (.imm 0) (.imm 0) (.imm 0),
  .barInit 0 64 (.imm 0) (.imm 0) (.imm 0), .barInit 0 0 (.pair 1) (.imm 0) (.imm 0), .barInit 0 0 (.imm 0) (.pair 1) (.imm 0),
  .barInit 0 0 (.imm 0) (.imm 0) (.pair 1), .barSync 256 0 (.imm 0), .barSync 0 64 (.imm 0), .barSync 0 0 (.pair 1),
  .barArrive 256 0 (.imm 0), .barArrive 0 64 (.imm 0), .barArrive 0 0 (.pair 1), .barrierTimeout 256, .contextExport (.slot 64),
  .contextImport (.slot 64), .load 256 0 .device (.imm 0) 0 8 false 0 0 0 false [],
  .load 0 64 .device (.imm 0) 0 8 false 0 0 0 false [], .load 0 0 .device (.pair 1) 0 8 false 0 0 0 false [],
  .load 0 0 .device (.imm 0) 0 0 false 0 0 0 false [], .load 0 0 .device (.imm 0) 0 8 false 64 0 0 false [],
  .load 0 0 .device (.imm 0) 0 8 false 0 64 0 false [], .load 0 0 .device (.imm 0) 0 8 false 0 0 64 false [],
  .load 0 0 .device (.imm 0) 0 8 false 0 0 0 false [{ lane := 32, reg := 0, bit := 0 }],
  .store 256 0 .device (.imm 0) 0 8 0 0 0 [], .store 0 64 .device (.imm 0) 0 8 0 0 0 [], .store 0 0 .device (.pair 1) 0 8 0 0 0 []]

theorem test_illFormed2 : (ill2.all fun c => !c.wf) = true := by decide +kernel

def ill3 : List Instr := [
  .store 0 0 .device (.imm 0) 0 0 0 0 0 [], .store 0 0 .device (.imm 0) 0 8 64 0 0 [], .store 0 0 .device (.imm 0) 0 8 0 64 0 [],
  .store 0 0 .device (.imm 0) 0 8 0 0 64 [], .store 0 0 .device (.imm 0) 0 8 0 0 0 [{ lane := 32, reg := 0, bit := 0 }],
  .atomic 256 0 .device .add .u32 (.imm 0) 0 0 (.imm 0) (.imm 0) 0 0 false [],
  .atomic 0 64 .device .add .u32 (.imm 0) 0 0 (.imm 0) (.imm 0) 0 0 false [],
  .atomic 0 0 .device .add .u32 (.pair 1) 0 0 (.imm 0) (.imm 0) 0 0 false [],
  .atomic 0 0 .device .add .u32 (.imm 0) 0 64 (.imm 0) (.imm 0) 0 0 false [],
  .atomic 0 0 .device .add .u32 (.imm 0) 0 0 (.pair 1) (.imm 0) 0 0 false [],
  .atomic 0 0 .device .add .u32 (.imm 0) 0 0 (.imm 0) (.pair 1) 0 0 false [],
  .atomic 0 0 .device .add .u32 (.imm 0) 0 0 (.imm 0) (.imm 0) 64 0 false [],
  .atomic 0 0 .device .add .u32 (.imm 0) 0 0 (.imm 0) (.imm 0) 0 64 false [],
  .atomic 0 0 .device .add .u32 (.imm 0) 0 0 (.imm 0) (.imm 0) 0 0 false [{ lane := 32, reg := 0, bit := 0 }], .fence 256 0 0,
  .fence 0 64 0, .fence 0 0 64, .coreLoad 64 0 8 false, .coreLoad 0 281474976710656 8 false, .coreLoad 0 0 0 false,
  .coreStore 64 0 8 0, .coreStore 0 281474976710656 8 0, .coreStore 0 0 0 0, .coreAmo 64 0 8 .add false 0,
  .coreAmo 0 281474976710656 8 .add false 0, .coreAmo 0 0 0 .add false 0, .coreSc 64 0 8 0, .coreSc 0 281474976710656 8 0,
  .coreSc 0 0 0 0, .hostMemWrite 0 [(1024, 0)] false none .none, .hostWriteback 0 (some [(1024, 0)]) .none,
  .easelHold 256 0 holdArgs, .easelHold 0 64 holdArgs, .easelHold 0 0 { holdArgs with src := .reg 64 }, .easelMma 256 0 mmaArgs,
  .easelMma 0 64 mmaArgs, .easelMma 0 0 { mmaArgs with out := .sreg 32 }, .easelWait 256 0, .easelWait 0 64,
  .easelEnterQueue 256, .easelBegin 256, .holdLoaded 256, .mmaFed 256, .chainWrite 256, .holdReloadDone 256 0,
  .holdReloadDone 0 3, .keeperGapBegin 256, .keepGapExpires 256, .rampStepElapses 256, .gateRead 256 0 0 (.imm 0) 0,
  .gateRead 0 64 0 (.imm 0) 0, .gateRead 0 0 16384 (.imm 0) 0, .gateRead 0 0 0 (.pair 1) 0, .gateRead 0 0 0 (.imm 0) 64,
  .fillHoldExpires 64 0 0, .fillHoldExpires 0 16384 0, .fillHoldExpires 0 0 256, .cvt 256 0 0 0 0 0 0 false,
  .cvt 0 64 0 0 0 0 0 false, .cvt 0 0 64 0 0 0 0 false]

theorem test_illFormed3 : (ill3.all fun c => !c.wf) = true := by decide +kernel

def ill4 : List Instr := [
  .cvt 0 0 0 64 0 0 0 false, .vcvt 256 0 0 0 0 0 0 false, .vcvt 0 64 0 0 0 0 0 false, .vcvt 0 0 64 0 0 0 0 false,
  .vcvt 0 0 0 64 0 0 0 false, .vcvtPack 256 0 (.imm 0) 0 0 0 false, .vcvtPack 0 64 (.imm 0) 0 0 0 false,
  .vcvtPack 0 0 (.pair 1) 0 0 0 false, .vcvtPack 0 0 (.imm 0) 64 0 0 false, .vcvtUnpack 256 0 0 (.imm 0) 0,
  .vcvtUnpack 0 64 0 (.imm 0) 0, .vcvtUnpack 0 0 64 (.imm 0) 0, .vcvtUnpack 0 0 0 (.pair 1) 0,
  .vcvtMx 256 0 (.imm 0) (.imm 0) 0 0 0, .vcvtMx 0 64 (.imm 0) (.imm 0) 0 0 0, .vcvtMx 0 0 (.pair 1) (.imm 0) 0 0 0,
  .vcvtMx 0 0 (.imm 0) (.pair 1) 0 0 0, .vcvtMx 0 0 (.imm 0) (.imm 0) 64 0 0, .vcvtUnmx 256 0 0 (.imm 0) (.imm 0) 0,
  .vcvtUnmx 0 64 0 (.imm 0) (.imm 0) 0, .vcvtUnmx 0 0 64 (.imm 0) (.imm 0) 0, .vcvtUnmx 0 0 0 (.pair 1) (.imm 0) 0,
  .vcvtUnmx 0 0 0 (.imm 0) (.pair 1) 0, .entropyCondition [], .entropyRestart (.core 8) 0 8 0,
  .entropyRestart .host 4294967296 8 0, .entropyRestart .host 0 0 0, .entropyDataRead (.core 8) 0 8,
  .entropyDataRead .host 4294967296 8, .entropyDataRead .host 0 0, .rand 256 0 0 0 (.imm 0) (.imm 0) (.imm 0) 0,
  .rand 0 64 0 0 (.imm 0) (.imm 0) (.imm 0) 0, .rand 0 0 64 0 (.imm 0) (.imm 0) (.imm 0) 0,
  .rand 0 0 0 64 (.imm 0) (.imm 0) (.imm 0) 0, .rand 0 0 0 0 (.pair 1) (.imm 0) (.imm 0) 0,
  .rand 0 0 0 0 (.imm 0) (.pair 1) (.imm 0) 0, .rand 0 0 0 0 (.imm 0) (.imm 0) (.pair 1) 0, .randJump 256 0 (.imm 0),
  .randJump 0 64 (.imm 0), .randJump 0 0 (.pair 1), .randPseed 256 0 0, .randPseed 0 64 0, .randPseed 0 0 64,
  .vrandBits 256 0 0 0 (.imm 0) (.imm 0) (.imm 0) 0, .vrandBits 0 64 0 0 (.imm 0) (.imm 0) (.imm 0) 0,
  .vrandBits 0 0 64 0 (.imm 0) (.imm 0) (.imm 0) 0, .vrandBits 0 0 0 64 (.imm 0) (.imm 0) (.imm 0) 0,
  .vrandBits 0 0 0 0 (.pair 1) (.imm 0) (.imm 0) 0, .vrandBits 0 0 0 0 (.imm 0) (.pair 1) (.imm 0) 0,
  .vrandBits 0 0 0 0 (.imm 0) (.imm 0) (.pair 1) 0, .vrandUnif 256 0 0 0 (.imm 0) (.imm 0) 0,
  .vrandUnif 0 64 0 0 (.imm 0) (.imm 0) 0, .vrandUnif 0 0 64 0 (.imm 0) (.imm 0) 0, .vrandUnif 0 0 0 64 (.imm 0) (.imm 0) 0,
  .vrandUnif 0 0 0 0 (.pair 1) (.imm 0) 0, .vrandUnif 0 0 0 0 (.imm 0) (.pair 1) 0,
  .vrandBern 256 0 (.imm 0) (.imm 0) 0 (.imm 0) (.imm 0) 0, .vrandBern 0 64 (.imm 0) (.imm 0) 0 (.imm 0) (.imm 0) 0,
  .vrandBern 0 0 (.pair 1) (.imm 0) 0 (.imm 0) (.imm 0) 0, .vrandBern 0 0 (.imm 0) (.pair 1) 0 (.imm 0) (.imm 0) 0]

theorem test_illFormed4 : (ill4.all fun c => !c.wf) = true := by decide +kernel

def ill5 : List Instr := [
  .vrandBern 0 0 (.imm 0) (.imm 0) 64 (.imm 0) (.imm 0) 0, .vrandBern 0 0 (.imm 0) (.imm 0) 0 (.pair 1) (.imm 0) 0,
  .vrandBern 0 0 (.imm 0) (.imm 0) 0 (.imm 0) (.pair 1) 0, .vrandCat 256 0 0 (.imm 0) (.imm 0) 0 (.imm 0) (.imm 0) 0,
  .vrandCat 0 64 0 (.imm 0) (.imm 0) 0 (.imm 0) (.imm 0) 0, .vrandCat 0 0 64 (.imm 0) (.imm 0) 0 (.imm 0) (.imm 0) 0,
  .vrandCat 0 0 0 (.pair 1) (.imm 0) 0 (.imm 0) (.imm 0) 0, .vrandCat 0 0 0 (.imm 0) (.pair 1) 0 (.imm 0) (.imm 0) 0,
  .vrandCat 0 0 0 (.imm 0) (.imm 0) 64 (.imm 0) (.imm 0) 0, .vrandCat 0 0 0 (.imm 0) (.imm 0) 0 (.pair 1) (.imm 0) 0,
  .vrandCat 0 0 0 (.imm 0) (.imm 0) 0 (.imm 0) (.pair 1) 0,
  .vsample 256 0 0 (.imm 0) (.imm 0) (.imm 0) (.imm 0) (.imm 0) false 0 (.imm 0) (.imm 0) 0,
  .vsample 0 64 0 (.imm 0) (.imm 0) (.imm 0) (.imm 0) (.imm 0) false 0 (.imm 0) (.imm 0) 0,
  .vsample 0 0 64 (.imm 0) (.imm 0) (.imm 0) (.imm 0) (.imm 0) false 0 (.imm 0) (.imm 0) 0,
  .vsample 0 0 0 (.pair 1) (.imm 0) (.imm 0) (.imm 0) (.imm 0) false 0 (.imm 0) (.imm 0) 0,
  .vsample 0 0 0 (.imm 0) (.pair 1) (.imm 0) (.imm 0) (.imm 0) false 0 (.imm 0) (.imm 0) 0,
  .vsample 0 0 0 (.imm 0) (.imm 0) (.pair 1) (.imm 0) (.imm 0) false 0 (.imm 0) (.imm 0) 0,
  .vsample 0 0 0 (.imm 0) (.imm 0) (.imm 0) (.pair 1) (.imm 0) false 0 (.imm 0) (.imm 0) 0,
  .vsample 0 0 0 (.imm 0) (.imm 0) (.imm 0) (.imm 0) (.pair 1) false 0 (.imm 0) (.imm 0) 0,
  .vsample 0 0 0 (.imm 0) (.imm 0) (.imm 0) (.imm 0) (.imm 0) false 64 (.imm 0) (.imm 0) 0,
  .vsample 0 0 0 (.imm 0) (.imm 0) (.imm 0) (.imm 0) (.imm 0) false 0 (.pair 1) (.imm 0) 0,
  .vsample 0 0 0 (.imm 0) (.imm 0) (.imm 0) (.imm 0) (.imm 0) false 0 (.imm 0) (.pair 1) 0,
  .moveStart 256 0 0 (.imm 0) (.imm 0) (.imm 0), .moveStart 0 64 0 (.imm 0) (.imm 0) (.imm 0),
  .moveStart 0 0 64 (.imm 0) (.imm 0) (.imm 0), .moveStart 0 0 0 (.pair 1) (.imm 0) (.imm 0),
  .moveStart 0 0 0 (.imm 0) (.pair 1) (.imm 0), .moveStart 0 0 0 (.imm 0) (.imm 0) (.pair 1), .mover (.slot 64),
  .moverSubmit (.core 8) 0 8 0, .moverSubmit .host 64 8 0, .moverSubmit .host 0 0 0, .transferActivate 64, .transferDone 64 0,
  .transferDone 0 64, .transferError 64 0 0 .crcFinal, .transferError 0 64 0 .crcFinal, .transferFailed 64 0,
  .transferFailed 0 64, .sliceRead (.tile 256) 0 8 false, .sliceRead .host 281474976710656 8 false, .sliceRead .host 0 0 false,
  .sliceWrite (.tile 256) 0 [0] false, .sliceWrite .host 281474976710656 [0] false, .sliceWrite .host 0 [] false,
  .fillLands 256 0, .writebackDone 256 0, .bisnpResponse 256 0 none, .bisnpResponse 0 0 (some [(1024, 0)]),
  .krTlrSet (.core 8) 0 8 0, .krTlrSet .host 64 8 0, .krTlrSet .host 0 0 0, .krTlrClear (.core 8) 0 8 0,
  .krTlrClear .host 64 8 0, .krTlrClear .host 0 0 0, .krTlrDrained 64, .preserveCreate (.slot 64), .preserveCreateDone 256,
  .preserveRelease (.slot 64), .preserveReleaseDone 256]

theorem test_illFormed5 : (ill5.all fun c => !c.wf) = true := by decide +kernel

def ill6 : List Instr := [
  .thrashWindowEnd 256, .refreshDue 64 0, .refreshDue 0 64, .pipPauseEnd 64 0, .pipPauseEnd 0 64, .pipRegionSet (.core 8) 0 8 0,
  .pipRegionSet .host 64 8 0, .pipRegionSet .host 0 0 0, .pipRegionClear (.core 8) 0 8 0, .pipRegionClear .host 64 8 0,
  .pipRegionClear .host 0 0 0, .pipRegionDrained 64, .pipSession (.slot 64), .pipSubmit (.core 8) 8 0, .pipSubmit .host 0 0,
  .pipAbort (.slot 64), .pipAbortWrite (.core 8) 8 0, .pipAbortWrite .host 0 0, .sessionOpen 64, .sessionRun 64, .waveEnd 64,
  .sessionCloseDone 64, .ld 64 0 0, .ld 0 64 0, .ld 0 0 64, .st 64 0 0, .st 0 64 0, .st 0 0 64, .ldx 64 0 0, .ldx 0 64 0,
  .ldx 0 0 64, .add 64 0 0, .add 0 64 0, .add 0 0 64, .mul 64 0 0, .mul 0 64 0, .mul 0 0 64, .fma 64 0 0, .fma 0 64 0,
  .fma 0 0 64, .adds 64 0 0, .adds 0 64 0, .adds 0 0 64, .muls 64 0 0, .muls 0 64 0, .muls 0 0 64, .fmas 64 0 0, .fmas 0 64 0,
  .fmas 0 0 64, .max 64 0 0, .max 0 64 0, .max 0 0 64, .min 64 0 0, .min 0 64 0, .min 0 0 64, .sqrt 64 0 0, .sqrt 0 64 0,
  .sqrt 0 0 64, .rcp 64 0 0, .rcp 0 64 0]

theorem test_illFormed6 : (ill6.all fun c => !c.wf) = true := by decide +kernel

def ill7 : List Instr := [
  .rcp 0 0 64, .mov 64 0 0, .mov 0 64 0, .mov 0 0 64, .zero 64 0 0, .zero 0 64 0, .zero 0 0 64,
  .sectorReceived { kind := 0, no := 0 } .other ⟨[0], 0⟩ (.hostWrite 0),
  .linkLaneTestDone { kind := 0, no := 0 } [7920] false false (.hostWrite 0), .writebackRetry 256 0 none,
  .correctedMergeTimer 64 0, .errlogBaseWrite (.core 8) 0 8 0, .errlogBaseWrite .host 4294967296 8 0,
  .errlogBaseWrite .host 0 0 0, .errlogConsWrite (.core 8) 0 8 0, .errlogConsWrite .host 4294967296 8 0,
  .errlogConsWrite .host 0 0 0, .gleanSector 64 [] false, .kretenGleanSector 256 [] false, .sweep (.slot 64),
  .smudgeArmWord (.core 8) 0 8 0, .smudgeArmWord .host 4294967296 8 0, .smudgeArmWord .host 0 0 0, .smudgeArmCrc (.core 8) 0 8 0,
  .smudgeArmCrc .host 4294967296 8 0, .smudgeArmCrc .host 0 0 0, .bypassSwitchChange 64, .portEnable (.core 8) 0 0 8 0,
  .portEnable .host 64 0 8 0, .portEnable .host 0 4294967296 8 0, .portEnable .host 0 0 0 0, .portDisable (.core 8) 0 0 8 0,
  .portDisable .host 64 0 8 0, .portDisable .host 0 4294967296 8 0, .portDisable .host 0 0 0 0,
  .portRetrainWrite (.core 8) 0 0 8 0, .portRetrainWrite .host 64 0 8 0, .portRetrainWrite .host 0 4294967296 8 0,
  .portRetrainWrite .host 0 0 0 0, .trainFrame 64 (frameT (List.replicate 544 0)), .trainFrame 0 (frameT []), .equalizeDone 64,
  .equalizeTimeout 64, .retrainDone 64, .retrainTimeout 64, .failedRetryTimer 64, .signalLoss 64,
  .frameReceived 64 (frameT (List.replicate 544 0)), .frameReceived 0 (frameT []), .resendTimeout 64, .stampSend 64 0, .stampSend 0 16,
  .messageForward 64 0, .write 64 0, .combine 64 0, .read 64 0, .writeAck 64 0, .readData 64 0, .relay 64 0,
  .requestTimeout 4294967296, .xcCtlArm (.core 8) 0 0 8 0]

theorem test_illFormed7 : (ill7.all fun c => !c.wf) = true := by decide +kernel

def ill8 : List Instr := [
  .xcCtlArm .host 64 0 8 0, .xcCtlArm .host 0 64 8 0, .xcCtlArm .host 0 0 0 0, .xcCtlOpen (.core 8) 0 0 8 0,
  .xcCtlOpen .host 64 0 8 0, .xcCtlOpen .host 0 64 8 0, .xcCtlOpen .host 0 0 0 0, .xcCtlDisarm (.core 8) 0 0 8 0,
  .xcCtlDisarm .host 64 0 8 0, .xcCtlDisarm .host 0 64 8 0, .xcCtlDisarm .host 0 0 0 0, .routeInval (.core 8) 0 8 0,
  .routeInval .host 4294967296 8 0, .routeInval .host 0 0 0, .recordWrite (.slot 64) 0 [], .recordWrite (.slot 0) 64 [],
  .recordWrite (.slot 0) 0 (List.replicate 65 0), .cueArm (.slot 64), .cueCancel (.slot 64), .fwStage (.slot 64),
  .fwActivate (.slot 64), .reset (.slot 64), .complogRetry 64 false, .complogEnable (.core 8) 0 0 8 0,
  .complogEnable .host 64 0 8 0, .complogEnable .host 0 4294967296 8 0, .complogEnable .host 0 0 0 0,
  .svcStart (.core 8) 0 0 8 0, .svcStart .host 64 0 8 0, .svcStart .host 0 4294967296 8 0, .svcStart .host 0 0 0 0,
  .svcStop (.core 8) 0 0 8 0, .svcStop .host 64 0 8 0, .svcStop .host 0 4294967296 8 0, .svcStop .host 0 0 0 0,
  .serviceLoadDone 64 false, .waitPoll 64, .serviceCanvasFaulted 64, .stepRelease 64, .servePoll 64, .loopStepDone 64,
  .loopCheckpointDone 64, .pmbusPoll [], .telemetryWindowEnd [] [] (List.replicate 256 0),
  .telemetryWindowEnd (List.replicate 24 domT) [(.stem 16, 0)] (List.replicate 256 0),
  .telemetryWindowEnd (List.replicate 24 domT) [] [7920], .sequencerTarget .rind 3, .tileNapEnter 256, .tileNapWake 256,
  .tileDozeEnter 256, .tileDozeWake 256, .stackRestEnter 64, .stackRestWake 64, .blockEnable (.core 8) 0 8 0,
  .blockEnable .host 4294967296 8 0, .blockEnable .host 0 0 0, .blockDisable (.core 8) 0 8 0, .blockDisable .host 4294967296 8 0,
  .blockDisable .host 0 0 0, .blockPoweredUp 31]

theorem test_illFormed8 : (ill8.all fun c => !c.wf) = true := by decide +kernel

def ill9 : List Instr := [
  .blockDrainComplete 31, .sensorReading (.via 144) 0 0, .graceExpires 64, .powerGoodLoss 64, .coldResetRelease (envT 0),
  .computeResetComplete { badTiles := [272], seeds := [] }, .laneTest 256 0 [], .laneTest 0 3 [], .laneTest 0 0 [7920],
  .bondSwap 256 0, .bondSwap 0 3, .quiescenceTimeout 256 0, .quiescenceTimeout 0 3, .getCertificate 65536 0,
  .getCertificate 0 65536, .challenge [], .getMeasurements 256 [] false, .getMeasurements 0 (List.replicate 65 0) false,
  .spdmUnsupportedRequest 256, .fwStageAddrWrite (.core 8) 8 0, .fwStageAddrWrite .host 0 0, .fwActWrite (.core 8) 8 0,
  .fwActWrite .host 0 0, .fwConfirm (.core 8) 0 8 0, .fwConfirm .host 4294967296 8 0, .fwConfirm .host 0 0 0,
  .fwCancel (.core 8) 0 8 0, .fwCancel .host 4294967296 8 0, .fwCancel .host 0 0 0, .keyReload (.core 8) 0 8 0,
  .keyReload .host 4294967296 8 0, .keyReload .host 0 0 0, .receiptRead (.slot 64) 8, .receiptRead (.slot 0) 0,
  .registerRead (.core 8) false 0 8, .registerRead .host false 4294967296 8, .registerRead .host false 0 0,
  .hostLinkUp 64 0 ⟨false, false, false⟩ 0 0, .hostLinkUp 0 64 ⟨false, false, false⟩ 0 0, .hostLinkUp 0 0 ⟨false, false, false⟩ 1 0,
  .hostLinkUp 0 0 ⟨false, false, false⟩ 0 1, .powerGoodRise (envT 0)]

theorem test_illFormed9 : (ill9.all fun c => !c.wf) = true := by decide +kernel

/-! ### Streams -/

/-- Stream 0 has a FILLED slot of rank 0 at tile 1, and one READ. -/
def epT : ConsEp := { slots := [(0, { st := .filled }), (1, { st := .readSt })], order := [(0, [0])] }

/-- A device whose tile `t` consumes stream `n` with the endpoint `ep`. -/
def streamDev (n : Nat) (ep : ConsEp) : Dev := { devT with streams := [(n, { cons := [(0, ep)] })] }

theorem witness_streamWrite :
    issues sT 0 0 [] dT iT rT ∧ (ownStream dT iT 0 true).isSome = true ∧ parityFails iT [.imm 4096, .imm 0] [iT.low] = none ∧
      val iT (.imm 0) < (stageSeats cvT 1).length ∧ sbOk iT.seat (val iT (.imm 4032)) 64 = true ∧
      ((targets cvT (cvT.streams.getD 1 (cvT.streams.headD ⟨false, 0, 0, 0, 0, 0, 0, 0, 0, 0⟩)) 0).all fun k =>
        decide (creditsOf (cvT.streams.getD 1 ⟨false, 0, 0, 0, 0, 0, 0, 0, 0, 0⟩) (streamRt dT 0 1) 0 k > 0)) = true := by
  refine ⟨issues_T, ?_⟩; decide +kernel

def sRead : State := on (streamDev 0 epT)

theorem witness_streamRead :
    issues sRead 1 0 [] (seen sRead 1).1 (seen sRead 1).2.1 (seen sRead 1).2.2 ∧
      (ownStream (seen sRead 1).1 (seen sRead 1).2.1 0 false).isSome = true ∧
      sound (seen sRead 1).2.1 [] [(seen sRead 1).2.1.low] ∧ gatedStream cvT 1 = none ∧
      tget [] (consEp (streamRt (seen sRead 1).1 0 0) 0).order 0 = [0] ∧ (seatOfRank cvT 1 0).isSome = true := by
  refine ⟨seen_issues rfl (by decide +kernel), ?_⟩; unfold sound; decide +kernel

theorem witness_streamRelease :
    let i := (seen sRead 1).2.1
    sound i [.imm 64] [i.low] ∧ slotAt (seatEnt 1) (cvT.streams.headD ⟨false, 0, 0, 0, 0, 0, 0, 0, 0, 0⟩) 1 (val i (.imm 64)) = some (0, 1) ∧
      (slotOf (consEp (streamRt (seen sRead 1).1 0 0) 0) 0 1).st = .readSt := by unfold sound; decide +kernel

def sGate : State := on { streamDev 2 { epT with slots := [(0, { st := .filled })] } with tb := { now := 16 } }
def sBatch : State := on (streamDev 2 { epT with batch := [(0, 1)] })

theorem witness_gateRead :
    let i := (seen sGate 2).2.1
    issues sGate 2 0 [] (seen sGate 2).1 i (seen sGate 2).2.2 ∧ (ownStream (seen sGate 2).1 i 2 false).isSome = true ∧
      sound i [.imm 4096] [i.low] ∧ gatedStream cvT 2 = some 2 ∧ val i (.imm 4096) % 64 = 0 ∧
      gateByRows i.stage (cvT.streams.getD 2 ⟨false, 0, 0, 0, 0, 0, 0, 0, 0, 1⟩) (consEp (streamRt (seen sGate 2).1 0 2) 0) = true ∧
      gateByHold 16 i.stage (consEp (streamRt (seen sGate 2).1 0 2) 0) = true ∧
      sbOk i.seat 4096 8 = true := by
  refine ⟨seen_issues rfl (by decide +kernel), ?_⟩; unfold sound; decide +kernel

theorem witness_batchRelease :
    let i := (seen sBatch 2).2.1
    issues sBatch 2 0 [] (seen sBatch 2).1 i (seen sBatch 2).2.2 ∧ gatedStream cvT 2 = some 2 ∧
      (consEp (streamRt (seen sBatch 2).1 0 2) 0).batch ≠ [] := by
  refine ⟨seen_issues rfl (by decide +kernel), ?_⟩; decide +kernel

/-- A packet of stream 0 has crossed to tile 1, whose endpoint is number 0, so channel 0 ejects it. -/
def packetDev : Dev :=
  { devT with streams := [(0, { packets := [{ prod := 0, cons := 0, bytes := [], poison := [] }], credits := [(0, 0)] })] }

theorem witness_packetArrives :
    (tileOf packetDev 1).canvas = some 0 ∧ canvasOf packetDev 0 = some cvT ∧
      servedHead packetDev 0 1 0 cvT [(0, 0)] = some (0, 0) ∧
      (endpointOn packetDev 0 1 cvT 0).map (·.2.1) = some 0 ∧
      (headPacket (streamRt packetDev 0 0) (cvT.streams.getD 0 ⟨false, 0, 0, 0, 0, 0, 0, 0, 0, 0⟩) {} 0 0).map (·.2) = some 0 ∧
      (seatOfRank cvT 1 0).isSome = true ∧ (0, 0) ∈ (streamRt packetDev 0 0).credits := by decide +kernel

/-- Of two requesters of one priority the first from the pointer on is served; a higher priority goes before both. -/
theorem witness_arbitrate :
    arbitrate 5 64 [(4, 2), (6, 2)] = some 6 ∧ arbitrate 7 64 [(4, 2), (6, 2)] = some 4 ∧
      arbitrate 5 64 [(4, 3), (6, 2)] = some 4 := by decide +kernel

theorem witness_fillHoldExpires :
    canvasOf sGate.dev 0 = some cvT ∧ gatedStream cvT 2 = some 2 ∧ (seatOfRank cvT 2 0).isSome = true ∧
      gateByHold 16 (stg 1) (consEp (streamRt sGate.dev 0 2) 0) = true := by decide +kernel

/-! ### Steps and barriers -/

theorem witness_yield_exit_canvasEnd : issues sT 0 0 [] dT iT rT ∧ (canvasOf dT iT.cv).map (·.st) = some .running :=
  ⟨issues_T, by decide +kernel⟩

theorem witness_nextStepStart :
    let d := tileDev fun tl => { tl with atBoundary := true, sw := .waitMinSeat }
    (curSeat d 0).isSome = true ∧ (tileOf d 0).atBoundary = true ∧ (tileOf d 0).easel.queue = [] ∧ (tileOf d 0).easel.chains = [] := by
  decide +kernel

theorem witness_barInit :
    sound iT [.imm 15, .imm 3, .imm 0xFFFFFFFF] [iT.low] ∧ val iT (.imm 15) ≤ 15 ∧ val iT (.imm 3) < 2 ^ iT.stage.groups ∧
      namedSet iT.seat.ctx iT.stage.groups (val iT (.imm 3)) (val iT (.imm 0xFFFFFFFF)) ≠ [] ∧
      (barOf iT.seat.ctx 15).valid = false := by unfold sound; decide +kernel

/-- Barrier 15 of tile 0 names all lanes of group 0 and waits since 8 ticks for them. -/
def barT (arrived : List Nat) : Barrier :=
  { valid := true, groupMask := 1, laneMask := 0xFFFFFFFF, named := List.range 32, arrived := arrived, elapsed := 8 }
def barDev (arrived : List Nat) : Dev := tileDev fun _ => tileT 0 { ctxT with barriers := [(15, barT arrived)] }

theorem witness_barSync_barArrive :
    let i := (seen (on (barDev [])) 0).2.1
    issues (on (barDev [])) 0 0 [] (seen (on (barDev [])) 0).1 i (seen (on (barDev [])) 0).2.2 ∧ sound i [.imm 15] [i.low] ∧
      (barOf i.seat.ctx 15).valid = true ∧ (∀ l ∈ i.lanes, nmem (32 * i.g + l) (barOf i.seat.ctx 15).named = true ∧
        nmem (32 * i.g + l) (barOf i.seat.ctx 15).arrived = false) := by
  refine ⟨seen_issues rfl (by decide +kernel), ?_⟩; unfold sound; decide +kernel

theorem witness_barrierTimeout :
    (curSeat (barDev [0]) 0).isSome = true ∧ (barDev [0]).creset.active = false ∧
      timedOut { ctxT with barriers := [(15, barT [0])] } (stg 0).barTimeout = some 15 ∧
      timeoutLanes { ctxT with barriers := [(15, barT [0])] } 2 15 = (0, [0]) := by decide +kernel

/-! ### Lanes, cues and memory -/

theorem witness_arithmetic :
    issues sT 0 0 [] dT iT rT ∧ arithNarrow .add = false ∧ dstOk (.sreg 31) = true ∧ stageMove .add (.sreg 31) [.reg 63, .imm 1] = false ∧
      readable iT [.reg 63, .imm 1] iT.lanes ∧ iT.lanes.length = 32 := by
  refine ⟨issues_T, ?_⟩; unfold readable; decide +kernel

theorem witness_moveToStage :
    dstOk (.sreg 31) = true ∧ dstOk (.sregHalf 31 true) = true ∧ sound iT [.pair 62] iT.lanes ∧ sound iT [.reg 63] iT.lanes := by
  unfold sound; decide +kernel

theorem witness_timeRead : issues sT 0 0 [] dT iT rT ∧ 62 < 64 ∧ 62 % 2 = 0 := ⟨issues_T, by decide⟩

theorem witness_laneShuffle :
    readable iT [.reg 63, .imm 31] iT.lanes ∧
      (∀ l ∈ iT.lanes, regBad (gReg iT.gr 63 ((opndVal iT l (.imm 31)).val % 32)) = false) := by
  unfold readable; decide +kernel

/-- The last word of the program is 7. -/
theorem witness_branch :
    readable iT [.imm 7, .reg 0] iT.lanes ∧ (∀ l ∈ iT.lanes, (opndVal iT l (.imm 7)).val < iT.stage.progSize / 8) := by
  unfold readable; decide +kernel

/-- A cue record in the stage buffer of tile 0 at 4096: all zero, so arming answers a status at once. -/
theorem witness_cueArmInstr :
    readable iT [.imm 4096] [iT.low] ∧ val iT (.imm 4096) % 32 = 0 ∧ sbOk iT.seat (val iT (.imm 4096)) 32 = true ∧
      (armCue (sbRead dT 0 4096 32).1 { w0 := 0, w1 := 0, w2 := 0, w3 := 0 }).2.isSome = true := by unfold readable; decide +kernel

theorem witness_cueCancel_cueWait :
    readable iT [.imm 0, .imm 0, .imm 0, .imm 65535] [iT.low] ∧ readable iT [.imm 15] [iT.low] ∧ val iT (.imm 15) ≤ 15 := by
  unfold readable; decide +kernel

/-- Doubles in the last 8 bytes of the swapped region. -/
theorem witness_load_store :
    sizeBits 8 = true ∧ dstOk (.pair 62) = true ∧
      (∀ l ∈ iT.lanes, laneFault dT iT .stageBuffer (.imm 69624) 0 8 [] [] l = none) ∧
      (∀ l ∈ iT.lanes, laneFault dT iT .stageBuffer (.imm 69624) 0 8 [] [.pair 62] l = none) := by decide +kernel

/-- The last word of backed memory: the access of every lane is served at once. -/
theorem witness_load_device :
    (∀ l ∈ iT.lanes, laneFault dT iT .device (.imm (2 ^ 40 - 4)) 0 4 [] [] l = none) ∧
      (eachLane (loadLane .device iT (.imm (2 ^ 40 - 4)) 0 4 false) dT [0, 1]).isSome = true ∧
      (eachLane (storeLane .device iT (.imm (2 ^ 40 - 4)) 0 4 (.reg 0)) dT [0, 1]).isSome = true := by decide +kernel

/-- A device with both vertical ports of tile 0's slice out. -/
def cutDev (d : Dev) : Dev := modSlice d 0 fun sl => { sl with vports := [(0, { out := true }), (1, { out := true })] }

theorem witness_cutOff :
    cutOff dT iT.t = false ∧ cutOff (cutDev dT) iT.t = true ∧
      (∀ l ∈ iT.lanes, laneFault (cutDev dT) iT .device (.imm (2 ^ 40 - 4)) 0 4 [] [.reg 0] l = none) := by decide +kernel

theorem witness_atomic :
    atomOk .cas .u64 = true ∧ (∀ l ∈ iT.lanes, laneFault dT iT .stageBuffer (.imm 4096) 0 8 [.pair 2, .pair 4] [] l = none) ∧
      (eachLane (atomicLane .device iT .add .u32 (.imm (2 ^ 40 - 4)) 0 (.imm 1) (.imm 0) false) dT [0, 1]).isSome = true := by
  decide +kernel

/-! ### The easel -/

theorem witness_easelHold :
    readable iT [.imm 1, .imm 1, .imm 128, .imm 4096, .imm 256, .imm 0] [iT.low] ∧ laneMask iT.lanes = 0xFFFFFFFF ∧
      opFault dT iT { blankOp dT iT true with bank := 1, fmt := 1, rows := 128, src := 4096, pitch := 256, scale := 0 } true = none := by
  unfold readable; decide +kernel

/-- Tile 0 holds a HOLD record of bank 1 and has the queue `q` and the chains `c`. -/
def easelDev (q : List EaselOp) (c : List Chain) (k : KeeperSt) : Dev :=
  { devT with tiles := tput devT.tiles 0 { tileT 0 ctxT with
      seats := [(0, { seatT 0 ctxT with hold1 := some { fmt := 1, rows := 128, src := 4096, srcPitch := 256, srcScale := 0 } })],
      easel := { queue := q, chains := c, keeper := k, level := 1 } } }

def opT (hold : Bool) : EaselOp := { blankOp dT iT hold with bank := 1, fmt := 1, rows := 1, src := 4096, pitch := 256, outPitch := 512 }
def chainT : Chain := { id := 0, last := opT false, tail := opT false }

def mmaT (d : Dev) (i : Iss) : EaselOp :=
  { blankOp d i false with bank := 1, fmt := 1, rows := 1, src := 4096, pitch := 256, acc := 4096, outPitch := 512 }

theorem witness_easelMma :
    let x := at_ (easelDev [] [] .run) 0
    issues (on (easelDev [] [] .run)) 0 0 [] x.1 x.2.1 x.2.2 ∧
      opFault x.1 x.2.1 (mmaT x.1 x.2.1) true = none := by
  refine ⟨seen_issues rfl (by decide +kernel), ?_⟩; decide +kernel

theorem witness_easelWait :
    easelBusy (easelOf dT 0) 0 (easelOf dT 0).nextId = false ∧
      easelBusy (easelOf (easelDev [opT true] [] .run) 0) 0 1 = true := by decide +kernel

theorem witness_easelEnterQueue :
    ∀ hold ∈ [true, false], let e := easelOf (easelDev [opT hold] [chainT] .run) 0
      e.queue.find? (fun q => !q.queued) = some (opT hold) ∧ queueLength e < 8 ∧ (pairInfo (opT hold).fmt).isSome = true := by
  decide +kernel

def begun (hold : Bool) : EaselOp := { opT hold with queued := true, begun := true }

theorem witness_easelBegin :
    ∀ hold ∈ [true, false], let q := { opT hold with queued := true }
      let e := easelOf (easelDev [q] [chainT] .idle) 0
      e.queue.find? (fun q => q.queued && !q.begun) = some q ∧ bankBad e q.bank = false ∧
        (pairInfo q.fmt).all (fun p => mayBegin e p q) = true ∧ (tileOf (easelDev [q] [chainT] .idle) 0).sw ≠ .draining := by
  decide +kernel

/-- A switch has stopped issue. -/
theorem witness_easelDraining :
    let d := { easelDev [begun false] [chainT] .run with
      tiles := tmod {} (easelDev [begun false] [chainT] .run).tiles 0 fun tl => { tl with sw := .draining } }
    (tileOf d 0).sw = .draining ∧ ∀ q ∈ (easelOf d 0).queue, (pairInfo q.fmt).isSome = true := by decide +kernel

theorem witness_holdLoaded_mmaFed :
    (easelOf (easelDev [begun true] [] .run) 0).queue.find? (fun q => q.hold && q.begun) = some (begun true) ∧
      (finishHold (easelDev [begun true] [] .run) 0 (begun true)).2 = true ∧
      (let e := easelOf (easelDev [begun false] [chainT] .run) 0
       e.queue.find? (fun q => !q.hold && feeding e q) = some (begun false)) ∧
      (finishMma (easelDev [begun false] [chainT] .run) 0 (begun false)).2 = true ∧
      (tileOf (easelDev [begun false] [chainT] .run) 0).sw ≠ .draining := by decide +kernel

theorem witness_chainWrite :
    let e := easelOf (easelDev [] [{ chainT with started := true }] .run) 0
    (e.chains.head?.map (·.started)) = some true ∧ chainPending e chainT = false := by decide +kernel

/-- Both banks reload after a restore. -/
theorem witness_holdReloadDone :
    let h : HoldRec := { fmt := 1, rows := 1, src := 4096, srcPitch := 256, srcScale := 0 }
    let d (r0 : Option HoldRec) := tileDev fun _ => { tileT 0 ctxT with easel := { reload0 := r0, reload1 := some h } }
    (easelOf (d (some h)) 0).reload0 = some h ∧ (easelOf (d none) 0).reload0 = none ∧ (easelOf (d none) 0).reload1 = some h := by
  decide +kernel

theorem witness_keeper :
    ∀ k ∈ [KeeperSt.run, .keep, .rampDown, .rampUp], let d := easelDev [] [] k
      (easelOf d 0).keeper = k ∧ (∀ q ∈ (easelOf d 0).queue, q.hold = false → q.begun = false) := by decide +kernel

/-! ### Conversions and draws -/

theorem witness_cvt :
    cvtFmt 1 = true ∧ cvtFmt 9 = true ∧ consumed iT [.reg 63] iT.lanes = none ∧ vConsumed iT.seat.ctx 15 = none ∧
      ∀ m ∈ [0, 1, 2], roundFault iT m = none := by decide +kernel

/-- The last packed vector of the swapped region. -/
theorem witness_vcvtPack_vcvtUnpack :
    readable iT [.imm (69632 - 512)] [iT.low] ∧ packedBytes 1 = 512 ∧ sbOk iT.seat (69632 - 512) 512 = true ∧
      (69632 - 512) % 32 = 0 ∧ (sbRead dT iT.t (69632 - 512) 512).2.2 = false ∧
      sbOk iT.seat (69632 - 16) (packedBytes 0x0F) = true := by unfold readable; decide +kernel

theorem witness_vcvtMx_vcvtUnmx :
    readable iT [.imm 4096, .imm 69628] [iT.low] ∧ mxFmt 6 = true ∧ sbOk iT.seat 4096 (packedBytes 6) = true ∧ sbOk iT.seat 69628 4 = true ∧
      (sbRead dT iT.t 4096 (packedBytes 6)).2.2 = false ∧ (sbRead dT iT.t 69628 4).2.2 = false := by
  unfold readable; decide +kernel

def seedT : Nat := 30

theorem witness_rand :
    seedOk seedT = true ∧ readable iT (seedOpnds seedT ++ [.imm 0, .imm (2 ^ 48 - 1), .imm 32]) iT.lanes ∧
      (∀ l ∈ iT.lanes, baseOk (opndVal iT l (.imm (2 ^ 48 - 1))).val = true ∧ 1 ≤ (opndVal iT l (.imm 32)).val ∧
        (opndVal iT l (.imm 32)).val ≤ 32) ∧ baseOk (val iT (.imm (2 ^ 48 - 1))) = true := by unfold readable; decide +kernel

theorem witness_randJump_randPseed :
    readable iT [.imm 127] [iT.low] ∧ readable iT [.imm 255] [iT.low] ∧ val iT (.imm 255) = 255 ∧
      consumed iT (seedOpnds seedT) [iT.low] = none := by unfold readable; decide +kernel

/-- A probability of one half, into the last 16 bytes of the swapped region. -/
theorem witness_vrandBern :
    readable iT (seedOpnds seedT ++ [.imm 69616, .imm 0x3F000000, .imm 0, .imm 0]) [iT.low] ∧
      (bernQ (w32 (val iT (.imm 0x3F000000)))).isSome = true ∧ sbOk iT.seat 69616 16 = true := by unfold readable; decide +kernel

theorem witness_vrandCat_vsample :
    readable iT (seedOpnds seedT ++ [.imm 4096, .imm 1, .imm 0x3F800000, .imm 0, .imm 0x3F800000, .imm 0, .imm 0]) [iT.low] ∧
      sampleOk 0x3F800000 0 (w32 0x3F800000) = true ∧ sbOk iT.seat 4096 (4 * 1) = true ∧
      (sbRead dT iT.t 4096 (4 * 1)).2.2 = false := by unfold readable; decide +kernel

/-! ### The entropy source -/

/-- The device with its entropy source as given. -/
def entropyDev (e : Entropy) : Dev := { devT with entropy := e }

theorem witness_entropy :
    entropyRuns (entropyDev { startup := false }) = true ∧ blkServes devT blkEntropy = true ∧
      (entropyDev { startup := true }).entropy.startup = true ∧
      (let d := entropyDev { startup := false, pool := List.replicate 8 0, waiting := [.host, .host] }
       d.entropy.failed = false ∧ d.entropy.waiting = .host :: [.host] ∧ entropyGives d = true) := by decide +kernel

/-- Raw bits that alternate, raw bits that never change, and 640 ones among 1,024 without a run of 41. -/
def rawAlt : List Byte := List.replicate 128 0x55
def rawMost : List Byte := List.replicate 64 0xFF ++ List.replicate 64 0x55

theorem witness_entropyCondition :
    let d := entropyDev { startup := false }
    entropyRuns d = true ∧ entropyTests d = true ∧ d.entropy.pool.length < 512 ∧ (healthTest d.entropy rawAlt).2 = true ∧
      (healthTest d.entropy (List.replicate 128 0)).2 = false := by decide +kernel

theorem witness_healthTest :
    rawBits (fitBytes 128 (List.replicate 128 0)) = [] ++ List.replicate 41 false ++ List.replicate 983 false ∧
      ((rawBits (fitBytes 128 rawMost)).head? = some true ∧ (rawBits (fitBytes 128 rawMost)).countP (· == true) ≥ 640) := by
  decide +kernel

theorem witness_entropyHealthFail :
    ∀ b ∈ [true, false], let d := entropyDev { startup := b, failed := b }
      d.entropy.startup = b ∧ (b = false → d.entropy.failed = false) ∧ blkServes d blkEntropy = true := by decide +kernel

theorem witness_entropyRegisters :
    writable devT (regOff .entropyStatus []) 8 8 (regD (regOff .entropyStatus [])).1 [] ∧
      bitAt (accessValue (regOff .entropyStatus []) 8 8) 3 = true ∧
      devT.entropy.latched = false ∧ devT.entropy.failed = false ∧
      readableAt devT (regOff .entropyData []) 8 (regD (regOff .entropyData [])).1 [] := by
  unfold writable readableAt; decide +kernel

/-! ### Transfers -/

theorem witness_fillCmd : (checkMover devT 7 (fillCmd 0 0x2000) none).toOption = some (cmdT 0) ∧ elemCount (cmdT 0) = 64 := by
  decide +kernel

/-- The command stands in the stage buffer of tile 0 and in device-local memory at 0x10000. -/
def moverDev : Dev :=
  withMem (tileDev fun tl => { tl with sb := memWrite {} 4096 (fillCmd 0 0x2000) false }) 0x10000 (fillCmd 0 0x2000)

set_option maxRecDepth 20000 in
theorem issues_mover : issues (on moverDev) 0 0 [] (at_ moverDev 0).1 (at_ moverDev 0).2.1 (at_ moverDev 0).2.2 :=
  seen_on (by decide +kernel)

theorem witness_moveStart :
    let x := at_ moverDev 0
    readable x.2.1 [.imm 4096, .imm 0, .imm 7] [x.2.1.low] ∧
      sbOk x.2.1.seat (val x.2.1 (.imm 4096)) 512 = true ∧ blkAccepts x.1 (blkMover 7) = true ∧
      (checkMover (sbRead x.1 0 4096 512).1 7 (sbRead x.1 0 4096 512).2.1 (some (tilesOf x.1 0))).toOption = some (cmdT 0) := by
  unfold readable; decide +kernel

theorem witness_moveStart_device :
    let x := at_ moverDev 0
    ((fetchMover x.1 7 0x10000 (some (tilesOf x.1 0))).2.bind (·.toOption)) = some (cmdT 0) := by decide +kernel

theorem witness_mover :
    let d := withRec moverDev 0x10 [0x10000, 7]
    accepted d (.slot 63) 0x10 (taken d (.slot 63) 0x10).1 (taken d (.slot 63) 0x10).2.1 (taken d (.slot 63) 0x10).2.2 ∧
      argOf d (.slot 63) 0 = 0x10000 ∧ argOf d (.slot 63) 1 = 7 ∧
      ((fetchMover (taken d (.slot 63) 0x10).1 7 0x10000 none).2.bind (·.toOption)) = some (cmdT 0) :=
  ⟨accepted_of (by decide +kernel), by decide +kernel⟩

theorem witness_moverSubmit :
    writable moverDev (regOff .moverSubmit [7]) 8 0x10000 (regD (regOff .moverSubmit [7])).1 [7] ∧
      ((fetchMover moverDev 7 (bits (accessValue (regOff .moverSubmit [7]) 8 0x10000) 47 0) none).2.bind (·.toOption)) = some (cmdT 0) := by
  unfold writable; decide +kernel

/-- The host holds the line of the command, so its read waits. -/
theorem witness_moverSubmit_waits :
    let d := { moverDev with slices := tmod {} moverDev.slices (homeSlice 0x10000) fun sl => { sl with dir := [{ idx := 0x10000 / 1024, any := true }] } }
    writable d (regOff .moverSubmit [7]) 8 0x10000 (regD (regOff .moverSubmit [7])).1 [7] ∧
      (fetchMover d 7 (bits (accessValue (regOff .moverSubmit [7]) 8 0x10000) 47 0) none).2.isNone = true := by
  unfold writable; decide +kernel

/-- A transfer of mover 7 in a state. -/
def xferT (st : XferSt) (side : Nat) : Transfer := { id := 3, rind := 7, st := st, cmd := cmdT side, origin := .cue, place := 15 }
def xferDev (st : XferSt) (side : Nat) : Dev := { devT with xfers := [xferT st side] }

theorem witness_transferActivate :
    ∀ side ∈ [0, 1], let d := xferDev .queued side
      blkOn d (blkMover 7) = true ∧ d.creset.active = false ∧
        d.xfers.find? (fun x => x.rind == 7 && x.st == .queued) = some (xferT .queued side) ∧ freePlace d 7 = some 0 := by
  decide +kernel

theorem witness_transferDone_transferError :
    let d := xferDev .active 0
    activeAt d 7 15 = some (xferT .active 0) ∧ (activeAt (walkXfer d (xferT .active 0) 64) 7 15).isSome = true ∧
      causeStatus (xferT .active 0) .crcFinal = some stCrcFinal := by decide +kernel

theorem witness_transferFailed :
    activeAt (xferDev .failing 0) 7 15 = some (xferT .failing 0) ∧ (xferT .failing 0).waiting = 0 ∧ devT.creset.active = false := by
  decide +kernel

theorem witness_moverStartFires :
    let c : Cue := { unit := .rind 7, hue := 0, action := actMoverStart, due := 0, stage := 0, tag := 0, arg := 0, xfer := some 3 }
    let d := { xferDev .reserved 0 with cues := [c] }
    nextCue d (.rind 7) = some c ∧ blkOn d (blkMover 7) = true := by decide +kernel

/-! ### Canvases -/

/-- An image of one stage on tile 3 with 64 bytes of program, one way of the set and 4 KiB kept. -/
def imgNoCrc : List Byte :=
  leBytes 320 (0x10201 + fieldB 4 4 320 + fieldB 2 0x10 1 + fieldB 2 0x14 1 + fieldB 1 0x1D 1 + fieldB 4 0x20 0x80 + fieldB 4 0x24 0xC0 +
    fieldB 4 0x28 0x100 + fieldB 4 0x2C 0x100 + fieldB 4 0x30 0x100 +
    (fieldB 8 0 (2 ^ 48 + 2 ^ 32) + fieldB 8 8 (64 * 2 ^ 32) + fieldB 8 16 1) * 2 ^ (8 * 0x80) +
    (fieldB 8 0 3 + fieldB 8 16 (4 * 2 ^ 10)) * 2 ^ (8 * 0xC0))
def imgT : List Byte := imgNoCrc.take 0x7C ++ leBytes 4 (crc32 imgNoCrc).toNat ++ imgNoCrc.drop 0x80

/-- Tile 3 is there, too, and free; the image stands at 0x20000. -/
def loadDev (l : List Byte) : Dev :=
  withRec (withMem { devT with tiles := devT.tiles ++ [(3, { physCol := 3, present := true })] } 0x20000 l) 0x01 [0x20000, 320]

/-- The load of the image of a device. -/
def loadOf (d : Dev) : Except Half (Dev × Nat) :=
  let x := taken d (.slot 63) 0x01
  let r := readWhole (withHue x.1 (coreHue x.1)) (.core 0) 0x20000 320
  loadCanvas r.1 (r.2.elim [] (·.1)) 320 (some x.2.1)

set_option maxRecDepth 20000 in
theorem witness_canvasLoad :
    ∀ l ∈ [imgT, imgNoCrc], let d := loadDev l
      accepted d (.slot 63) 0x01 (taken d (.slot 63) 0x01).1 (taken d (.slot 63) 0x01).2.1 (taken d (.slot 63) 0x01).2.2 ∧
      argOf d (.slot 63) 0 = 0x20000 ∧ argOf d (.slot 63) 1 = 320 ∧ backed (taken d (.slot 63) 0x01).1 0x20000 320 = true ∧
      (readWhole (withHue (taken d (.slot 63) 0x01).1 (coreHue (taken d (.slot 63) 0x01).1)) (.core 0) 0x20000 320).2 = some (l, false) := by
  intro l hl; exact ⟨accepted_of (by revert l; decide +kernel), by revert l; decide +kernel⟩

set_option maxRecDepth 20000 in
theorem witness_canvasLoad_ok : (loadOf (loadDev imgT)).toOption.map (·.2) = some 1 := by decide +kernel

set_option maxRecDepth 20000 in
theorem witness_canvasLoad_error : (loadOf (loadDev imgNoCrc)).toOption = none := by decide +kernel

/-- The device with its canvas in a state. -/
def canvasDev (st : CanvasSt) : Dev := { devT with canvases := [(15, { cvT with st := st })] }

theorem witness_canvasCommands :
    ∀ x ∈ [(0x02, CanvasSt.loaded, [15, 4000]), (0x02, .stopped, [15, 0]), (0x03, .running, [15]), (0x04, .loaded, [15]),
      (0x04, .stopped, [15]), (0x04, .faulted, [15])], let d := withRec (canvasDev x.2.1) x.1 x.2.2
      accepted d (.slot 63) x.1 (taken d (.slot 63) x.1).1 (taken d (.slot 63) x.1).2.1 (taken d (.slot 63) x.1).2.2 ∧
      argOf d (.slot 63) 0 = 15 ∧ canvasOf (taken d (.slot 63) x.1).1 15 = some { cvT with st := x.2.1 } ∧
      svcOwned (.slot 63) { cvT with st := x.2.1 } = false ∧ cvT.unloading = false ∧
      (argOf d (.slot 63) 1 = 0 ∨ (taken d (.slot 63) x.1).1.tb.now + 4000 ≤ argOf d (.slot 63) 1) := by
  intro x hx; exact ⟨accepted_of (by revert x; decide +kernel), by revert x; decide +kernel⟩

theorem witness_canvasEvents :
    (∀ st ∈ [CanvasSt.loading, .armed], (canvasOf (canvasDev st) 15).map (·.st) = some st ∧
      ∀ t ∈ tilesOf (canvasDev st) 15, blkOn (canvasDev st) (quadOf t) = true) ∧
      (canvasDev .armed).creset.active = false ∧ cvT.t0 ≤ (canvasDev .armed).tb.now ∧
      (let d : Dev := { devT with canvases := [(0, { cvT with st := .draining })], tiles := tput devT.tiles 0 { tileT 0 ctxT with cur := none } }
       ∀ t ∈ [0], hasLeft d t = true) ∧
      (let d : Dev := { devT with canvases := [(0, { cvT with st := .stopped, unloading := true })] }
       (canvasOf d 0).map (·.unloading) = some true ∧ ∀ x ∈ d.xfers, x.origin ≠ .stage 0) := by decide +kernel

theorem witness_canvasDrained :
    let d : Dev := { devT with canvases := [(0, { cvT with st := .draining })],
                               tiles := devT.tiles.map fun e => (e.1, { e.2 with seats := tmap (fun _ s => { s with st := .parked }) e.2.seats }) }
    tilesOf d 0 = [0, 1, 2] ∧ ∀ t ∈ tilesOf d 0, hasLeft d t = true := by decide +kernel

/-! ### Sitting switches -/

/-- A seat area without a flipped bit gives an image back as it is. -/
theorem storedImage_seat {d : Dev} {cv : Canvas} {t : Nat} {s : Seat} (hs : s.spillAt = none) (hd : (sliceOf d t).seat = []) :
    (storedImage d cv t s).2 = some (ctxImage cv s t) := by
  unfold storedImage; rw [hs]; simp [seatImage, hd]

/-- Tile 0 with two seats of its canvas, the second parked and due in its turn, in a phase of a switch. -/
def rotDev (sw : SwitchSt) (st : SeatSt) : Dev :=
  tileDev fun tl => { tl with
    seats := [(0, { seatT 0 ctxT with st := st }), (1, { seatT 0 ctxT with order := 1, st := .parked })], sw := sw, nextOrder := 1,
    rotArmed := true }

theorem witness_sittingSwitch :
    let d := rotDev .none .seated
    (tileOf d 0).canvas = some 0 ∧ canvasOf d 0 = some cvT ∧ cvT.st = .running ∧ (tileOf d 0).rotArmed = true ∧
      (tileOf d 0).nextDue ≤ unitNow d (.tile 0) ∧ stageCueFirst d 0 (tileOf d 0).nextDue = false :=
  ⟨rfl, rfl, rfl, rfl, Nat.zero_le _, by decide +kernel⟩

theorem witness_minSeatElapsed :
    ∀ sw ∈ [SwitchSt.none, .waitMinSeat], let d := rotDev sw .seated
      (curSeat d 0).map (fun k => k.2.st) = some .seated ∧ canvasIssues d 0 = true ∧ (tileOf d 0).minDone = false := by decide +kernel

theorem witness_yieldWindowExpires : (tileOf (rotDev .waitYield .seated) 0).sw = .waitYield := by decide +kernel

theorem witness_seatPrefetchStart :
    let d := rotDev .none .seated
    (tfind (tileOf d 0).seats 1).map (fun s => (s.st, s.prefetched)) = some (.parked, false) ∧ (tileOf d 0).canvas = some 0 ∧
      canvasOf d 0 = some cvT ∧ cvT.st = .running ∧ comingDue (tileOf d 0) cvT.period 1 = some 0 ∧ 0 ≤ unitNow d (.tile 0) + 8 :=
  ⟨by decide +kernel, rfl, rfl, rfl, by decide +kernel, Nat.zero_le _⟩

theorem witness_switchPoint : (curSeat (rotDev .draining .seated) 0).map (·.2.st) = some .seated ∧ (tileOf (rotDev .draining .seated) 0).sw = .draining := by
  decide +kernel

theorem witness_saveDone :
    ∀ p ∈ [[(1, 0)], []], let d := { rotDev .saving .saving with tiles := tmod {} (rotDev .saving .saving).tiles 0 fun tl => { tl with pendingSw := p } }
      (curSeat d 0).map (·.2.st) = some .saving ∧ (tileOf d 0).sw = .saving ∧ canvasOf d 0 = some cvT ∧
        (storeImage d cvT 0 (seatT 0 ctxT)).2 = true ∧ (tileOf d 0).leaving = false ∧ (tileOf d 0).pendingSw = p := by
  decide +kernel

theorem witness_saveLost :
    let d := rotDev .saving .saving
    cutOff d 0 = false ∧ cutOff (cutDev d) 0 = true ∧ (curSeat (cutDev d) 0).map (·.2.st) = some .saving ∧
      (tileOf (cutDev d) 0).sw = .saving := by decide +kernel

/-- The seat that is restored, without a swapped region. -/
def restT : Seat := { seatT 0 {} with st := .restoring, swapSize := 0 }
def restDev : Dev := tileDev fun tl => { tl with seats := [(0, restT)], sw := .restoring }

/-- A sector of the image has been lost on its way to tile 0. -/
def lostDev : Dev := { restDev with lost := [{ who := .restore 0, at_ := 0, mask := 1 }] }

/-- The words of its image with a word changed. -/
def badWords : List (DWord × Bool) := (ctxImage cvT restT 0).set 0 (5, false)

theorem witness_restoreDone :
    (∀ d ∈ [restDev, lostDev], (curSeat d 0).map (·.2) = some restT ∧ (tileOf d 0).sw = .restoring ∧
      canvasOf d 0 = some cvT) ∧ restT.st = .restoring ∧
      seatIntact restDev 0 restT = true ∧ seatIntact lostDev 0 restT = false := by decide +kernel

set_option maxRecDepth 20000 in
/-- An image that arrives as it was saved, and one that does not. -/
theorem witness_restoredImage :
    (storedImage lostDev cvT 0 restT).2 = some (ctxImage cvT restT 0) ∧
      (contextOf lostDev cvT 0 restT (ctxImage cvT restT 0)).2.toOption = some {} ∧
      (contextOf lostDev cvT 0 restT badWords).2.toOption = none := by
  refine ⟨storedImage_seat rfl rfl, ?_, by decide +kernel⟩
  unfold contextOf; rw [if_pos rfl]; rfl

/-! ### Context images -/

/-- The canvas of tile 0 in a state, its seat parked, without a swapped region. -/
def parkedIn (st : CanvasSt) : Dev :=
  { tileDev fun tl => { tl with seats := [(0, { seatT 0 {} with st := .parked, swapSize := 0 })] } with
    canvases := [(0, { cvT with st := st })] }
abbrev parkedDev : Dev := parkedIn .stopped

/-- A seat of a running canvas is refused. -/
theorem witness_context_refused :
    (tfind (tileOf (parkedIn .running) 0).seats 0).map (·.st) = some .parked ∧
      (canvasOf (parkedIn .running) 0).map (·.st) = some .running ∧ svcOwned (.slot 63) cvT = false := by decide +kernel

theorem witness_context :
    ∀ op ∈ [0x05, 0x06], let d := withRec parkedDev op (if op = 0x05 then [0, 0x40000, 4096] else [0, 0x40000])
      accepted d (.slot 63) op (taken d (.slot 63) op).1 (taken d (.slot 63) op).2.1 (taken d (.slot 63) op).2.2 ∧
      argOf d (.slot 63) 0 = 0 ∧ argOf d (.slot 63) 1 = 0x40000 ∧
      ((parkedSeat (taken d (.slot 63) op).1 (.slot 63) 0).toOption.map fun x => (x.2.1, x.2.2.1)) = some (0, 0) ∧
      backed (taken d (.slot 63) op).1 0x40000 4096 = true := by
  intro x hx; exact ⟨accepted_of (by revert x; decide +kernel), by revert x; decide +kernel⟩

def cvS : Canvas := { cvT with st := .stopped }
def parkedT : Seat := { seatT 0 {} with st := .parked, swapSize := 0 }

set_option maxRecDepth 20000 in
theorem witness_contextExport :
    (parkedSeat (taken (withRec parkedDev 0x05 [0, 0x40000, 4096]) (.slot 63) 0x05).1 (.slot 63) 0).toOption = some (cvS, 0, 0, parkedT) ∧
      ctxBytes (savedOf parkedT).mid (stageOf cvS 0).groups 0 ≤ 4096 ∧
      (storedImage parkedDev cvS 0 parkedT).2 = some (ctxImage cvS parkedT 0) :=
  ⟨by decide +kernel, by decide +kernel, storedImage_seat rfl rfl⟩

set_option maxRecDepth 20000 in
theorem witness_contextExport_write : (putWords parkedDev (.core 0) 0x40000 (ctxImage cvS parkedT 0)).isSome = true := by
  decide +kernel

/-- The words of a boundary image of the parked seat, and of one with a reserved field; the first eight stand in device
memory, which is zero behind them. -/
def imgHead (rsv : Nat) : List (DWord × Bool) :=
  [(153123486842290690, false), (7, false), (0, false), (0, false), (0, false), (4096, false),
   (BitVec.ofNat 64 rsv, false), (8337385571487842304, false)]
def imgWords (rsv : Nat) : List (DWord × Bool) := imgHead rsv ++ List.replicate 504 (0, false)
def importDev (rsv : Nat) : Dev := (putWords (withRec parkedDev 0x06 [0, 0x40000]) (.core 0) 0x40000 (imgHead rsv)).getD devT

theorem witness_contextImport :
    accepted (importDev 0) (.slot 63) 0x06 (taken (importDev 0) (.slot 63) 0x06).1 (taken (importDev 0) (.slot 63) 0x06).2.1
      (taken (importDev 0) (.slot 63) 0x06).2.2 := accepted_of (by decide +kernel)

/-- What the import reads. -/
def importRead (n : Nat) : Option (List (DWord × Bool)) :=
  let d := (taken (importDev 0) (.slot 63) 0x06).1
  (devReadWords (withHue d (coreHue d)) (.core 0) 0x40000 n false).2

theorem witness_importHead :
    importRead 64 = some (imgHead 0) ∧ checkPrefix 0x0202 (leAt (imgBytes (imgHead 0)) 0 4) = none ∧
      leAt (imgBytes (imgHead 0)) 0x28 4 = 4096 := by decide +kernel

set_option maxRecDepth 20000 in
theorem witness_importRead : importRead 4096 = some (imgWords 0) := by decide +kernel

set_option maxRecDepth 20000 in
theorem witness_importChecks :
    controlPoison (imgWords 0) = false ∧ ctxCheck cvS parkedT 2 (imgBytes (imgWords 0)) = none ∧
      ctxCheck cvS parkedT 2 (imgBytes (imgWords 1)) = some stReserved ∧
      (storeImage (importDev 0) cvS 0 { parkedT with hold0 := none, hold1 := none }).2 = true := by decide +kernel

/-! ### The time base -/

/-- The device with its time base and the two words of TB_CONFIG and TB_STATUS. -/
def tbDev (tb : TimeBase) (config status : Nat) : Dev :=
  regPut (regPut { devT with tb := tb } .tbConfig [] config) .tbStatus [] status

theorem witness_tbRole :
    (tbRole (tbDev {} 1 0) = 1 ∧ (tbDev {} 1 0).tb.locked1 = false ∧ regBit (tbDev {} 2 0) .tbStatus [] 6 = false ∧ tbRole (tbDev {} 2 0) ≠ 0) ∧
      regBit (tbDev {} 2 64) .tbStatus [] 6 = true ∧
      (let d := tbDev { locked1 := true } 1 0
       tbRole d = 1 ∧ d.tb.locked1 = true ∧ regBit d .tbStatus [] 6 = false) := by decide +kernel

theorem witness_slewEnd_ppsOut :
    (tbDev {} 1 128).tb.slew = 0 ∧ regBit (tbDev {} 1 128) .tbStatus [] 7 = true ∧
      regBit (tbDev { now := secTicks } 9 0) .tbConfig [] 3 = true ∧ (tbDev { now := secTicks } 9 0).tb.now % secTicks = 0 ∧
      (tbDev { now := secTicks } 9 0).tb.ppsHigh = false := by decide +kernel

theorem witness_tbConfigWrite :
    ∀ x ∈ [(4, 0x3F02), (8, 0)], let o := regOff .tbConfig []
      writable devT o x.1 (BitVec.ofNat 64 x.2) (regD o).1 [] ∧ bits (written devT (regD o).1 [] o x.1 (BitVec.ofNat 64 x.2)) 2 0 < 3 ∧
        bits (written devT (regD o).1 [] o x.1 (BitVec.ofNat 64 x.2)) 15 8 < 64 := by
  unfold writable; decide +kernel

/-! ### Cues -/

theorem witness_cueGo :
    let o := regOff .cueGo []
    writable devT o 8 1 (regD o).1 [] ∧ writable devT o 8 2 (regD o).1 [] ∧ writable devT o 8 3 (regD o).1 [] ∧
      bits (accessValue o 8 1) 1 0 = 1 ∧ bits (accessValue o 8 2) 1 0 = 2 ∧ bits (accessValue o 8 3) 1 0 = 3 ∧
      (armCue devT (portWords devT)).2.isSome = true := by
  unfold writable; decide +kernel

theorem witness_cueArm :
    let d := withRec devT 0x07 [0x100010203, 0, 0x20000000002, 15]
    let a := argOf d (.slot 63)
    recordOk d (.slot 63) 0x07 ∧ (armCue d { w0 := a 0, w1 := a 1, w2 := a 2, w3 := a 3 }).2 = some stOk := by unfold recordOk; decide +kernel

theorem witness_armCue :
    let c : CueWords := { w0 := 0x100010203, w1 := 0, w2 := 0x20000000002, w3 := 15 }
    (cueChecks devT c).toOption = some (.tile 2) ∧ c.action ≠ actMoverStart := by decide +kernel

/-- A cue of stage `k` of its unit that is due. -/
def cueT (u : CueUnit) (action k due : Nat) : Cue := { unit := u, hue := 0, action := action, due := due, stage := k, tag := 9, arg := 15 }

theorem witness_cueCancel :
    let q (entry due : Nat) : Cue := { cueT (.tile 0) 1 0 due with tag := 8 + entry, entry := entry }
    let d := withRec { devT with cues := [q 0 0, q 1 1] } 0x08 [9 * 2 ^ 32]
    recordOk d (.slot 63) 0x08 ∧ cueUnit 0 0 0 = some (.tile 0) ∧ (d.creset.active && tileUnit (.tile 0)) = false ∧
      unitAbsent d (.tile 0) = false ∧ ((cuesOf d (.tile 0)).find? fun x => x.stage == 0 && x.tag == 9 && !x.pending) = some (q 1 1) := by
  unfold recordOk; decide +kernel

/-- A cue that waits in a later firing than the next one is cancelled. -/
theorem witness_cueCancel_ok :
    let q (entry : Nat) : Cue := { cueT .stem actTelemetry 0 5 with tag := 8 + entry, entry := entry }
    let d := { devT with cues := [q 0, q 1], tb := { now := 9 } }
    nextCue d .stem = some (q 0) ∧ (cancelCue d 2 0 0 0 9).1 = stOk := by decide +kernel

theorem witness_stepStartFires :
    (let d : Dev := { devT with cues := [cueT (.tile 0) 1 0 0] }
     nextCue d (.tile 0) = some (cueT (.tile 0) 1 0 0) ∧ (seatOfStage d 0 0).map (fun x => (x.1, x.2.st)) = some (0, .seated) ∧
       (tileOf d 0).cur = some 0) ∧
    (let d : Dev := { tileDev (fun tl => { tl with cur := none }) with cues := [cueT (.tile 0) 1 0 0] }
     nextCue d (.tile 0) = some (cueT (.tile 0) 1 0 0) ∧ (seatOfStage d 0 0).map (·.1) = some 0 ∧ (tileOf d 0).cur ≠ some 0) := by
  decide +kernel

/-- Entry 15 of rind die 7 is armed. -/
def collCue : Cue := { cueT (.rind 7) actCollOpen 0 0 with past := true }
def collDev (st : CollSt) : Dev := { devT with colls := [(16 * 7 + 15, { st := st })], cues := [collCue] }

theorem witness_collectiveOpenFires_telemetrySampleFires :
    nextCue (collDev .armed) (.rind 7) = some collCue ∧
      (openColl (takeCue (collDev .armed) collCue) 7 15).2 = true ∧
      (let d : Dev := { devT with cues := [cueT .stem actTelemetry 0 0] }
       nextCue d .stem = some (cueT .stem actTelemetry 0 0)) := by decide +kernel

/-! ### Accesses -/

theorem witness_served :
    ∀ k ∈ [AccessKind.read 8 false true, .write (leBytes 8 5) false, .amo 8 .add false 1, .sc 8 5, .read 4 true false],
      let x : Access := { agent := .core 7, addr := 2 ^ 40 - 8, kind := k }
      served devT x (perform devT x).1 := by
  intro k hk; exact served_of (by revert k; decide +kernel)

/-- A device whose host link decodes CXL.mem. -/
def hostDev : Dev := { devT with link := { up := true, memEn := true, committed := true, hdmBase := 0x40000000000 } }

theorem witness_hostAccess :
    hostDecodes hostDev = true ∧
    ∀ k ∈ [AccessKind.hostRead .any, .hostWrite (hostBytes (2 ^ 40 - 64) [(0, 7)]) true none .none,
        .hostWrite (hostBytes (2 ^ 40 - 64) [(0, 7)]) false (some { kind := 0, no := 0 }) .none],
      let x : Access := { agent := .host, addr := (2 ^ 40 - 1) / 64 * 64, kind := k }
      served hostDev x (perform hostDev x).1 := by
  refine ⟨rfl, ?_⟩
  intro k hk; exact served_of (by revert k; decide +kernel)

theorem witness_hostWriteback :
    backed hostDev (2 ^ 40 - 1) 1 = true ∧ (servingSlice hostDev (homeSlice (2 ^ 40 - 1))).isSome = true := by decide +kernel

theorem witness_bisnpResponse :
    let d := { devT with slices := [(255, { snoops := [{ idx := 3, inv := false }], dir := [{ idx := 3, any := true }] })] }
    (sliceOf d 255).snoops.find? (fun x => x.idx == 3) = some { idx := 3, inv := false } ∧
      (dirFind (sliceOf d 255) 3).isSome = true := by decide +kernel

/-! ### The Kreten die -/

def lineT : Line := { idx := 3, kind := .homed, sects := List.replicate 8 .absent, masks := [], data := {}, lru := 0 }

theorem witness_fillLands_writebackDone :
    let d := { devT with slices := [(255, { fills := [{ idx := 3, kind := .homed, key := 0, reqs := 1, writes := [], spent := false }],
                                              wbuf := [{ line := lineT, begun := true }] })] }
    ((sliceOf d 255).fills.find? (fun f => f.idx == 3)).isSome = true ∧ ((sliceOf d 255).wbuf.find? (fun w => w.line.idx == 3)).isSome = true ∧
      (findWb (sliceOf (scrubBuffer d 255 3 false) 255) 3 false).isSome = true := by decide +kernel

/-- KR_TLR entry 15 at 16 MiB, 1 MiB long, with the bits of `f`. -/
def tlrVal (f : Nat) : Nat := f * 2 ^ 62 + 2 ^ 40 + 16 * 2 ^ 20
def tlrDev (f : Nat) : Dev := regPut devT .krTlr [15] (tlrVal f)

theorem witness_krTlrDrained :
    bitAt (regGet (tlrDev 1) .krTlr [15]) 62 = true ∧ bitAt (regGet (tlrDev 3) .krTlr [15]) 62 = true ∧
      bitAt (regGet (tlrDev 3) .krTlr [15]) 63 = true := by decide +kernel

theorem witness_thrashWindowEnd :
    let d := regPut { devT with slices := [(255, { winAcc := 1024, winHits := 127 })] } .krThrashCfg [] (1 + 2 ^ 24 * 32)
    2 ^ (regField d .krThrashCfg [] 19 16 + 10) ≤ (sliceOf d 255).winAcc ∧ regBit d .krThrashCfg [] 0 = true ∧
      (sliceOf d 255).winHits * 256 < (sliceOf d 255).winAcc * regField d .krThrashCfg [] 31 24 := by decide +kernel

theorem witness_krTlrSet :
    let o := regOff .krTlr [15]
    let v : DWord := BitVec.ofNat 64 (tlrVal 2)
    let x := written devT (regD o).1 [15] o 8 v
    bitAt v.toNat 63 = true ∧ writable devT o 8 v (regD o).1 [15] ∧ bitAt (regGet devT .krTlr [15]) 62 = false ∧
      bitAt (regGet devT .krTlr [15]) 63 = false ∧ bitAt x 63 = true ∧ (tlrSpan x).2 ≠ 0 ∧
      backed devT (tlrSpan x).1 (tlrSpan x).2 = true ∧ hitsTlr devT (tlrSpan x).1 (tlrSpan x).2 (some 15) = false ∧
      hitsSpill devT (tlrSpan x).1 (tlrSpan x).2 = false ∧ hitsPreserve devT (tlrSpan x).1 (tlrSpan x).2 = false ∧
      hitsPipr devT (tlrSpan x).1 (tlrSpan x).2 = false ∧ hitsFixed devT (tlrSpan x).1 (tlrSpan x).2 = false := by
  unfold writable; decide +kernel

theorem witness_krTlrClear :
    let o := regOff .krTlr [15]
    writable (tlrDev 2) o 8 0 (regD o).1 [15] ∧ bitAt (regGet (tlrDev 2) .krTlr [15]) 62 = false ∧
      bitAt (regGet (tlrDev 2) .krTlr [15]) 63 = true ∧ bitAt (written (tlrDev 2) (regD o).1 [15] o 8 0) 63 = false := by
  unfold writable; decide +kernel

/-- The set chosen is no worse than any other. -/
theorem best_le (f : Nat → Nat) (l : List Nat) (acc : Nat × Nat) :
    let r := l.foldl (fun (acc : Nat × Nat) a => if f a < acc.1 then (f a, a) else acc) acc
    r.1 ≤ acc.1 ∧ ∀ a ∈ l, r.1 ≤ f a := by
  induction l generalizing acc with
  | nil => exact ⟨Nat.le_refl _, fun a h => by cases h⟩
  | cons x t ih =>
    have h := ih (if f x < acc.1 then (f x, x) else acc)
    simp only [List.foldl_cons]
    refine ⟨Nat.le_trans h.1 (by split <;> omega), fun a ha => ?_⟩
    cases ha with
    | head => exact Nat.le_trans h.1 (by split <;> omega)
    | tail _ ha => exact h.2 a ha

/-- A preserve fits where the pins of one choice of sets do and the table has room. -/
theorem choose_some {d : Dev} {n s0 : Nat} (h : s0 ∈ List.range 640) (hp : peakPins d (pinLoads d) n s0 ≤ 12)
    (ht : d.preserves.length < 256) : (chooseS0 d n).isSome = true := by
  have hb := (best_le (peakPins d (pinLoads d) n) (List.range 640) (2 ^ 32, 0)).2 s0 h
  unfold chooseS0
  dsimp only at hb ⊢
  split
  · rename_i hc
    simp only [Bool.or_eq_true, decide_eq_true_eq] at hc
    omega
  · rfl

def createDev : Dev := withRec devT 0x14 [16 * 2 ^ 20, 1024, 1]
abbrev createT : Dev × Nat × Nat := taken createDev (.slot 63) 0x14

theorem witness_preserveCreate :
    accepted createDev (.slot 63) 0x14 createT.1 createT.2.1 createT.2.2 ∧ argOf createDev (.slot 63) 1 = 1024 ∧
      createCheck createT.1 (16 * 2 ^ 20) 1024 = none ∧ (chooseS0 createT.1 (preserveSlots (16 * 2 ^ 20) 1024)).isSome = true :=
  ⟨accepted_of (by decide +kernel), by decide +kernel, by decide +kernel,
    choose_some (s0 := 0) (by decide +kernel) (by decide +kernel) (by decide +kernel)⟩

/-- Preserve 255, being created or released. -/
def preT (c r : Option Nat) : Preserve :=
  { base := 16 * 2 ^ 20, size := 1024, s0 := 0, canvas := none, load := true, createOp := c, releaseOp := r, mode1 := false }
def preDev (c r : Option Nat) : Dev := { devT with preserves := [(255, preT c r)] }

theorem witness_preserveEvents :
    tfind (preDev (some 5) none).preserves 255 = some (preT (some 5) none) ∧ tfind (preDev none (some 5)).preserves 255 = some (preT none (some 5)) ∧
      devT.creset.active = false := by decide +kernel

theorem witness_preserveRelease :
    let d := withRec (preDev none none) 0x15 [0x1FF]
    accepted d (.slot 63) 0x15 (taken d (.slot 63) 0x15).1 (taken d (.slot 63) 0x15).2.1 (taken d (.slot 63) 0x15).2.2 ∧
      tfind (taken d (.slot 63) 0x15).1.preserves (bits (argOf d (.slot 63) 0) 7 0) = some (preT none none) :=
  ⟨accepted_of (by decide +kernel), by decide +kernel⟩

/-! ### Pip -/

/-- HBM_PIPR entry 15: one band from band 1 on, span 1, with the bits of `f`. -/
def piprVal (f : Nat) : Nat := f * 2 ^ 62 + 2 ^ 32 + 1
def piprDev (f : Nat) : Dev := regPut devT .hbmPipr [15] (piprVal f)

/-- A descriptor of region 15: stack 15, pseudo-channel 31, banks 47 and 46, one chunk, and one LD of row 0. -/
def pipBytes : List Byte :=
  leBytes 384 (0x10401 + fieldB 1 4 15 + fieldB 1 5 1 + fieldB 2 6 0x8000 + fieldB 4 8 0x80000000 + fieldB 8 0x10 0xC00000000000 +
    fieldB 4 0x1C 1 + fieldB 4 0x20 1 + fieldB 8 0x80 0x0100000100000000)

def pipDesc : PipDesc := (parsePip pipBytes).1

/-- A session of that descriptor in a state, whose next instruction has the opcode `op`. -/
def sessT (st : SessSt) (op : Nat) : Session :=
  { st := st, desc := { pipDesc with prog := [{ op := op, vd := 3, va := 3, vb := 3, vc := 3, sc := 7, fmt := 1, row := 0 }] }, seq := 0, op := some 5 }

def sessDev (st : SessSt) (op : Nat) : Dev := { piprDev 2 with sessions := [(15, sessT st op)] }

theorem witness_pipInstructions :
    ∀ op ∈ [0x01, 0x02, 0x03, 0x10, 0x11, 0x12, 0x13, 0x14, 0x15, 0x16, 0x17, 0x18, 0x19, 0x20, 0x21],
      nextPip (sessDev .running op) 15 15 31 (sessT .running op) { op := op, vd := 3, va := 3, vb := 3, vc := 3, sc := 7, fmt := 1, row := 0 } := by
  unfold nextPip; decide +kernel

theorem witness_pipRegionSet :
    let o := regOff .hbmPipr [15]
    let v : DWord := BitVec.ofNat 64 (piprVal 2)
    let x := written devT (regD o).1 [15] o 8 v
    let b := bits x 15 0 * bandBytes devT
    let sz := bits x 47 32 * bandBytes devT
    bitAt v.toNat 63 = true ∧ writable devT o 8 v (regD o).1 [15] ∧ bitAt (regGet devT .hbmPipr [15]) 62 = false ∧
      bitAt (regGet devT .hbmPipr [15]) 63 = false ∧ bitAt x 63 = true ∧ piprOk x = true ∧ meetsPipr devT b sz 15 = false ∧
      hitsTlr devT b sz = false ∧ hitsSpill devT b sz = false ∧ hitsPreserve devT b sz = false ∧ hitsFixed devT b sz = false ∧
      (hostHolds devT fun i => inSpan (1024 * i) b sz) = false := by unfold writable; decide +kernel

theorem witness_pipRegionClear_pipRegionDrained :
    let o := regOff .hbmPipr [15]
    writable (piprDev 2) o 8 0 (regD o).1 [15] ∧ bitAt (regGet (piprDev 2) .hbmPipr [15]) 62 = false ∧
      bitAt (regGet (piprDev 2) .hbmPipr [15]) 63 = true ∧ bitAt (written (piprDev 2) (regD o).1 [15] o 8 0) 63 = false ∧
      piprOk (written (piprDev 2) (regD o).1 [15] o 8 0) = true ∧
      regionInUse (piprDev 2) 15 = false ∧
      (hostHolds (piprDev 2) fun i => inSpan (1024 * i) (piprSpan (piprDev 2) 15).1 (piprSpan (piprDev 2) 15).2) = false ∧
      bitAt (regGet (piprDev 1) .hbmPipr [15]) 62 = true ∧ bitAt (regGet (piprDev 3) .hbmPipr [15]) 62 = true := by
  unfold writable; decide +kernel

/-- The descriptor stands at 0x10000. -/
def submitDev : Dev := withMem (piprDev 2) 0x10000 pipBytes

theorem witness_pipSession :
    let d := withRec submitDev 0x11 [0x10000]
    accepted d (.slot 63) 0x11 (taken d (.slot 63) 0x11).1 (taken d (.slot 63) 0x11).2.1 (taken d (.slot 63) 0x11).2.2 ∧
      argOf d (.slot 63) 0 = 0x10000 ∧ (submitPip (taken d (.slot 63) 0x11).1 0x10000 (some 0)).2 = some (stOk, 0) :=
  ⟨accepted_of (by decide +kernel), by decide +kernel⟩

theorem witness_pipSubmit :
    let o := regOff .pipSubmit []
    writable submitDev o 8 0x10000 (regD o).1 [] ∧ (submitPip submitDev (bits (accessValue o 8 0x10000) 47 0) none).2 = some (stOk, 0) := by
  unfold writable; decide +kernel

theorem witness_pipAbort :
    let d := withRec { sessDev .running 1 with ops := [opOf 5] } 0x12 [0x3F000001]
    recordOk d (.slot 63) 0x12 ∧ (d.sessions.find? fun e => d.ops.any fun o => some o.id == e.2.op &&
      o.handle.toNat == argOf d (.slot 63) 0 && argOf d (.slot 63) 0 != 0) = some (15, sessT .running 1) := by
  unfold recordOk; decide +kernel

theorem witness_pipAbortWrite :
    let o := regOff .pipAbort []
    let d := sessDev .running 1
    writable d o 8 15 (regD o).1 [] ∧ tfind d.sessions (bits (accessValue o 8 15) 7 0) = some (sessT .running 1) := by
  unfold writable; decide +kernel

theorem witness_sessions :
    (mayOpen (sessDev .queued 1) 15 (sessT .queued 1) = true ∧
      (hostHolds (sessDev .queued 1) fun i => sessHas (sessDev .queued 1) (sessT .queued 1) (1024 * i)) = false) ∧
    (let x := { sessT .running 1 with pcs := [(15 * 32 + 31, { done := true })] }
     let d : Dev := { sessDev .running 1 with sessions := [(15, x)] }
     tfind d.sessions 15 = some x ∧ (∀ p ∈ selPcs x, inWave d x p.1 p.2 = false ∧ (pcRun x p.1 p.2).paused = false)) ∧
    tfind (sessDev .opening 1).sessions 15 = some (sessT .opening 1) ∧ tfind (sessDev .closing 1).sessions 15 = some (sessT .closing 1) := by
  decide +kernel

theorem witness_refresh :
    (sessDev .running 1).sessions.find? (fun e => inWave (sessDev .running 1) e.2 15 31) = some (15, sessT .running 1) ∧
      (let x := { sessT .closing 1 with pcs := [(15 * 32 + 31, { paused := true })], aborted := true }
       [(15, x)].find? (fun e => (pcRun e.2 15 31).paused) = some (15, x)) := by decide +kernel

/-! ### Integrity -/

/-- The latest vertical port, its lane test running or not. -/
def linkDev (testing : Bool) (n : Nat) : Dev := { devT with links := [(linkKey { kind := 0, no := 511 }, { attempts := n, testing := testing })] }

/-- A sector of zeros, and one whose first word arrives with three flipped bits; the same port with its CRC smudged. -/
def sectorT (c : Codeword) : List Codeword := c :: List.replicate 15 (encodeWord 0 false)
def smudgedDev : Dev := regPut (linkDev false 3) .smudgeCtlKr [255] (2 ^ 17 + 2 ^ 32)

theorem witness_links :
    (linkOf (linkDev false 3) { kind := 0, no := 511 }).testing = false ∧ (crcSmudge (linkDev false 3) (.slice 255)).2 = 0 ∧
      (crcSmudge smudgedDev (.slice 255)).2 = 1 ∧ (linkOf (linkDev true 4) { kind := 0, no := 511 }).testing = true := by
  decide +kernel

/-- Each passes where its CRC is the one received, and the smudged one fails with that. -/
theorem witness_sectors :
    (∀ ws, crc32c (sectorString ws) = crc32c (sectorString ws) ^^^ 0 ∧ crc32c (sectorString ws) ≠ crc32c (sectorString ws) ^^^ 1) ∧
      badMask (sectorT (encodeWord 0 false)) = 0 ∧ badMask (sectorT (encodeWord 0 false ^^^ 7)) = 1 := by
  refine ⟨fun ws => ⟨by simp, fun h => ?_⟩, by decide +kernel⟩
  have := congrArg (crc32c (sectorString ws) ^^^ ·) h
  simp at this

theorem witness_writebackRetry :
    let w : WbEntry := { line := { idx := 3, kind := .homed, sects := [], masks := [], data := {}, lru := 0 }, begun := true }
    let d := { devT with slices := [(255, { wbuf := [w] })] }
    (sliceOf d 255).wbuf.find? (fun w => w.line.idx == 3) = some w := by decide +kernel

theorem witness_correctedMergeTimer :
    let m : Merge := { count := 1, addr := 0, detail := 0, time := 0, armed := true }
    tfind { devT with merges := [(3 * 65536 + 255, m)] }.merges (3 * 65536 + 255) = some m := by decide +kernel

theorem witness_errlog :
    ∀ n ∈ [0, 16 * 2 ^ 20], let o := regOff .errlogBase []
      let v : DWord := BitVec.ofNat 64 n
      let x := written devT (regD o).1 [] o 8 v
      let a := bits x 47 12 <<< 12
      writable devT o 8 v (regD o).1 [] ∧
        (a = 0 ∨ (backed devT a (4096 * 2 ^ bits x 3 0) = true ∧ hitsPlaced devT a (4096 * 2 ^ bits x 3 0) = false)) := by
  unfold writable; decide +kernel

theorem witness_errlogCons :
    let o := regOff .errlogPtr []
    writable devT o 8 (BitVec.ofNat 64 (64 * 2 ^ 32)) (regD o).1 [] ∧ bits (accessMask o 8) 63 32 ≠ 0 ∧
      writable devT (o + 4) 4 0 (regD o).1 [] ∧ bits (accessMask (o + 4) 4) 63 32 ≠ 0 := by unfold writable; decide +kernel

/-- Gleaning has a period; stack 15 is at its last sector. -/
def gleanDev : Dev :=
  { regPut devT .gleanCfg [] (2 ^ 32 + 1) with stks := tput devT.stks 15 { populated := true, inService := true, capGib := 64, gleanAt := stackSectors - 1 } }

theorem witness_gleaners :
    15 ∈ popStacks gleanDev ∧ (stackOf gleanDev 15).gleanAt < stackSectors ∧ (stackOf gleanDev 15).resting = false ∧
      regField gleanDev .gleanCfg [] 47 32 ≠ 0 ∧ regField gleanDev .gleanCfg [] 15 0 ≠ 0 ∧
      nextHeld gleanDev 255 (sliceOf gleanDev 255).gleanAt = none := by decide +kernel

/-- The last sector of a slice's lines, and a sector of its write-back buffer. -/
theorem witness_gleanHeld :
    let l : Line := { idx := 3, kind := .homed, sects := List.replicate 8 .clean, masks := [], data := {}, lru := 0 }
    nextHeld { devT with slices := [(255, { lines := [(10239, l)] })] } 255 81919 = some 81919 ∧
      nextHeld { devT with slices := [(255, { wbuf := [{ line := { l with sects := List.replicate 8 .dirty }, begun := false }] })] } 255
        bufferSectorsAt = some bufferSectorsAt := by decide +kernel

theorem witness_sweep :
    let d := withRec devT 0x13 [0, 1024, 2 ^ 40 - 64, 0xF01]
    accepted d (.slot 63) 0x13 (taken d (.slot 63) 0x13).1 (taken d (.slot 63) 0x13).2.1 (taken d (.slot 63) 0x13).2.2 ∧
      sweepCheck (taken d (.slot 63) 0x13).1 (argOf d (.slot 63) 0) (argOf d (.slot 63) 1) (argOf d (.slot 63) 2) (argOf d (.slot 63) 3) = none :=
  ⟨accepted_of (by decide +kernel), by decide +kernel⟩

/-- A sweep of one line in place 3. -/
def sweepT : Sweep := { base := 0, size := 1024, mode := 1, summary := 0x10000, hue := 0, started := 0, op := some 5 }

theorem witness_sweepDone :
    let d := { devT with sweeps := [(3, sweepT)] }
    tfind d.sweeps 3 = some sweepT ∧ blkServes d blkSweep = true ∧
      (devWrite (sweepRange d sweepT).d (.core 0) sweepT.summary (sweepSummary sweepT (sweepRange d sweepT) d.tb.now)).2 = true := by decide +kernel

theorem witness_smudge :
    ∀ x ∈ [(RegId.smudgeCtlHbm, [7, 1]), (.smudgeCtlKr, [255])], ∀ n ∈ [0x10000, 0x20000],
      let v : DWord := BitVec.ofNat 64 n
      let d : Dev := { devT with board := { testEn := true } }
      let o := regOff x.1 x.2
      writable d o 8 v (regD o).1 x.2 ∧ (regD o).1.id = x.1 ∧ (bitAt (accessValue o 8 v) 16 = true ∨ bitAt (accessValue o 8 v) 17 = true) := by
  unfold writable; decide +kernel

/-! ### Ports -/

/-- Port 63, in a state. -/
def portDev (x : Port) : Dev := { devT with ports := [(63, x)], switches := [31] }

theorem witness_bypassSwitch :
    (portEnabled devT 62 || portEnabled devT 63) ≠ nmem 31 (portDev {}).switches ∧
      (portEnabled (regPut devT .xpCtl [7, 7] 1) 62 || portEnabled (regPut devT .xpCtl [7, 7] 1) 63) ≠ nmem 31 devT.switches := by decide +kernel

theorem witness_xpCtl :
    ∀ n ∈ [0x201, 0x200, 0x205], let o := regOff .xpCtl (portIx 63)
      let v : DWord := BitVec.ofNat 64 n
      let d := portDev { st := .failed }
      let x := written d (regD o).1 [7, 7] o 8 v
      writable d o 8 v (regD o).1 [7, 7] ∧ bits x 10 8 ≤ 2 ∧ d.limits.maxRate ≤ bits x 10 8 ∧ bitAt x 0 = bitAt v.toNat 0 ∧
        (portOf (wakePort (regPut d .xpCtl [7, 7] (putBit x 2 false)) 63) 63).st = .failed := by unfold writable; decide +kernel

theorem witness_portStates :
    ∀ st ∈ [PortSt.failed, .active, .retrain, .equalize], (portOf (portDev { st := st }) 63).st = st := by decide +kernel

/-- A TRAIN frame of port 63 whose record is in a step, with a CRC of its slot 0. -/
def trainF (step crc : Nat) : Frame := frameT (frameB 2 3 0 (trainB step) crc)
def trainCrc : Nat → Nat
  | 0 => 3478422584
  | 2 => 3484662103
  | 3 => 1295391896
  | _ => 3466264294

theorem witness_training :
    ∀ x ∈ [(PortSt.detect, 0), (.measure, 2), (.negotiate, 3), (.retrain, 4), (.active, 4)], let f := trainF x.2 (trainCrc x.2)
      (portOf (portDev { st := x.1 }) 63).st = x.1 ∧ hears x.1 = true ∧ (headerOf f).kind = 3 ∧
        frameOk f (headerOf f) = true ∧ slotOk f (headerOf f) 0 = true ∧ (trainOf f).rsv = false ∧ (trainOf f).proposed = 2 := by
  decide +kernel

/-- All four slots of a TRAIN frame pass, and one with another CRC fails. -/
theorem witness_training_slots :
    slotsOk (trainF 2 (trainCrc 2)) (headerOf (trainF 2 (trainCrc 2))) = true ∧ (headerOf (trainF 2 0)).kind = 3 ∧
      slotOk (trainF 2 0) (headerOf (trainF 2 0)) 0 = false := by decide +kernel

theorem witness_equalize :
    (portOf (portDev { st := .equalize, rate := 1 }) 63).st = .equalize ∧ (portOf (portDev { st := .equalize, rate := 2 }) 63).rate = 2 := by
  decide +kernel

/-- A frame without a slot, and one with a descriptor sector of zeros, each with a SEQ. -/
def idleF : Frame := frameT (frameB 0 0 0 zeroSlot zeroCrc)
def slotF (code seq crc : Nat) : Frame := frameT (frameB code 0 seq zeroSlot crc)

/-- A frame that the decoder gives up, an idle one, and one out of sequence. -/
theorem witness_frameReceived :
    (portOf (portDev { st := .active }) 63).st = .active ∧
      frameOk { idleF with decodeOk := false } (headerOf idleF) = false ∧
      (headerOf idleF).kind ≠ 3 ∧ frameOk idleF (headerOf idleF) = true ∧ isIdle (headerOf idleF) = true ∧
      (headerOf (slotF 1 7 zeroCrc)).kind ≠ 3 ∧ frameOk (slotF 1 7 zeroCrc) (headerOf (slotF 1 7 zeroCrc)) = true ∧
      isIdle (headerOf (slotF 1 7 zeroCrc)) = false ∧
      (headerOf (slotF 1 7 zeroCrc)).seq ≠ (portOf (portDev { st := .active }) 63).expectSeq := by decide +kernel

/-- The next frame in sequence: with a sound slot, with one of another CRC, and with a slot code of 3. -/
theorem witness_frameInSequence :
    (∀ f ∈ [slotF 1 0 zeroCrc, slotF 1 0 0, slotF 3 0 zeroCrc], (headerOf f).kind ≠ 3 ∧ frameOk f (headerOf f) = true ∧
      isIdle (headerOf f) = false ∧ (headerOf f).seq = (portOf (portDev { st := .active }) 63).expectSeq) ∧
      (slotsOk (slotF 1 0 zeroCrc) (headerOf (slotF 1 0 zeroCrc)) = true ∧ 3 ∉ (headerOf (slotF 1 0 zeroCrc)).codes) ∧
      slotsOk (slotF 1 0 0) (headerOf (slotF 1 0 0)) = false ∧ 3 ∈ (headerOf (slotF 3 0 zeroCrc)).codes := by decide +kernel

theorem witness_stamps :
    (portOf (portDev { st := .active }) 63).st = .active ∧
      regBit (regPut (portDev { st := .active }) .tbStatus [] 0x20) .tbStatus [] 5 = true ∧ tbRole (regPut devT .tbConfig [] 2) = 2 := by decide +kernel

/-! ### Messages -/

/-- A message to `dst` from device 9 of operation `op`, with 8 bytes for 0x20000000. -/
def msgT (dst op : Nat) : XMsg :=
  { dst := dst, src := 9, hue := 0, hops := 0, channel := 0, op := op, rsv := false, release := false,
    fmt := if op = xoCombine then 1 else 0, addr := 0x20000000, combine := if op = xoCombine then 1 else 0, coll := 0xFFFF, tag := 77,
    status := 0, len := 8, data := leBytes 8 0x3F8000003F800000, poison := [false] }

/-- This device is 5; port 63 is ACTIVE with that message; the route to 9 and to 6 leaves by it; window 7 is open. -/
def msgDev (m : XMsg) : Dev :=
  regPut (regPut (regPut { devT with ports := [(63, { st := .active, inbox := [m] })], routes := [(65536 * 7 + 6, 0xFFFFFF3F), (65536 * 7 + 9, 0xFFFFFF3F)] }
    .xrCfg [] 0x10005) .xrRoute [] (2 ^ 63)) .xrWindow [7] (7 * 2 ^ 61 + 2 ^ 40 + 0x200 * 2 ^ 20)

theorem witness_messageForward :
    let d := msgDev (msgT 6 xoWrite)
    inboxAt d 63 0 = some (msgT 6 xoWrite) ∧ 6 ≠ ownNo d ∧ regBit d .xrCfg [] 16 = true ∧
      (routeEntry d (63 / 8) 6).2 = some 0xFFFFFF3F ∧ choosePort (routeEntry d (63 / 8) 6).1 0xFFFFFF3F 0x20000000 9 = some 63 := by
  decide +kernel

/-- A request of this device's own is turned away where no window holds it. -/
theorem witness_requestTurnedAway :
    ∀ op ∈ [xoWrite, xoCombine, xoRead], let m := { msgT 5 op with addr := 0 }
      inboxAt (msgDev m) 63 0 = some m ∧ m.dst = ownNo (msgDev m) ∧ requestCheck (msgDev m) m = some stXoWindow := by decide +kernel

theorem witness_requests :
    (∀ op ∈ [xoWrite, xoCombine, xoRead], let d := msgDev (msgT 5 op)
      inboxAt d 63 0 = some (msgT 5 op) ∧ requestCheck d (msgT 5 op) = none) ∧
    ((performWrite (msgDev (msgT 5 xoWrite)) (msgT 5 xoWrite)).bind fun d => countColl d (msgT 5 xoWrite)).isSome = true ∧
    ((performCombine (msgDev (msgT 5 xoCombine)) (msgT 5 xoCombine)).bind fun d => countColl d.1 (msgT 5 xoCombine)).isSome = true ∧
    (devRead (msgDev (msgT 5 xoRead)) (.peer 9) 0x20000000 8).2.isSome = true := by decide +kernel

/-- A request of this device's mover 7 to device 9. -/
def reqT (isRead : Bool) : XReq :=
  { tag := 77, rind := 7, xfer := 3, port := 63, dst := 9, addr := 0x2000, len := 256, sent := 0, isRead := isRead, first := 0, count := 64 }

/-- A COPY of 64 elements from the peer. -/
def copyT : MoverCmd :=
  let x : Desc := { rank := 1, fmt := 1, panel := false, combine := 0, sb := false, x := 0, y := 0, base := 0x2000, dims := [{ extent := 64, stride := 1 }] }
  { cmdT 0 with op := opCopy, peerSide := 2, src := some x, dst := some { x with base := 0x4000 }, counts := [64], srcOrigin := [0], dstOrigin := [0] }

def respDev (m : XMsg) (isRead : Bool) : Dev :=
  { msgDev m with requests := [reqT isRead],
                  xfers := [{ id := 3, rind := 7, st := .active, cmd := copyT, origin := .cue, place := 15, waiting := 1 }] }

theorem witness_responses :
    (requestOf (respDev (msgT 5 xoWriteAck) false) 77 false = some (reqT false)) ∧
      requestOf (respDev (msgT 5 xoWriteAck) true) 77 false = none ∧ requestOf (respDev (msgT 5 xoReadData) false) 77 true = none ∧
      requestOf (respDev (msgT 5 xoReadData) true) 77 true = some (reqT true) ∧
      (let d := respDev (msgT 5 xoReadData) true
       let m := msgT 5 xoReadData
       let bs := rangeBytes { m with addr := 0x2000, len := 256 }
       (d.xfers.find? fun x => x.id == 3 && x.st == .active).isSome = true ∧
         (landRead d { id := 3, rind := 7, st := .active, cmd := copyT, origin := .cue, place := 15, waiting := 1 } (reqT true)
           (fun i => (bs.getD i 0).toNat) (fun i => wordPoison { m with addr := 0x2000 } i)).isSome = true) := by decide +kernel

theorem witness_relay_requestTimeout :
    inboxAt (msgDev (msgT 9 xoRelay)) 63 0 = some (msgT 9 xoRelay) ∧
      (let d := { respDev (msgT 5 xoWrite) true with tb := { now := 2 ^ 40 } }
       d.requests.find? (fun q => q.tag == 77) = some (reqT true) ∧
         (reqT true).sent + usTicks * regField d .xrTimeout [] 19 0 ≤ d.tb.now) := by decide +kernel

/-! ### Collective entries and routes -/

/-- Entry 15 of rind die 7 in a state, with its fields set. -/
def collDev' (st : CollSt) : Dev :=
  regPut (regPut (regPut { devT with colls := [(16 * 7 + 15, { st := st })] } .xcBase [7, 15] 0x20000000) .xcSize [7, 15] 4096) .xcExpect [7, 15] 4096

theorem witness_xcCtl :
    (∀ n ∈ [1, 2, 4], let o := regOff .xcCtl [7, 15]
      writable (collDev' .armed) o 8 (BitVec.ofNat 64 n) (regD o).1 [7, 15] ∧ accessValue o 8 (BitVec.ofNat 64 n) = n) ∧
      blkAccepts (collDev' .armed) (blkColl 7) = true ∧ (armColl (collDev' .idle) 7 15).2 = some none ∧
      (openColl (collDev' .armed) 7 15).2 = true := by unfold writable; decide +kernel

theorem witness_routeInval :
    let o := regOff .xrRoute []
    let x := written devT (regD o).1 [] o 8 1
    writable devT o 8 1 (regD o).1 [] ∧ bitAt (accessValue o 8 1) 0 = true ∧ backed devT (bits x 47 19 <<< 19) 0x80000 = true ∧
      overlapsRegions devT (bits x 47 19 <<< 19) 0x80000 = false := by unfold writable; decide +kernel

/-! ### Registers and the host port -/

/-- A low half and a whole register; a reserved bit. -/
theorem witness_registers :
    let o := regOff .krThrashCfg []
    writable devT o 4 1 (regD o).1 [] ∧ writable devT o 8 1 (regD o).1 [] ∧ (regD o).1.id ∉ ruledRegs ∧
      readableAt devT (o + 4) 4 (regD o).1 [] ∧ (regD o).1.id ∉ ruledReads ∧ sizeOk o 8 = true ∧ regAt (o / 8 * 8) = some ((regD o).1, []) ∧
      regGated devT o = false ∧ Nat.land (accessValue o 8 (BitVec.ofNat 64 (2 ^ 63))) (regD o).1.rsv ≠ 0 := by
  unfold writable readableAt; decide +kernel

theorem witness_windows :
    winExists (.core 7) = true ∧ (List.replicate 4 (0 : Byte)).length ∈ [4, 8, 16, 32, 64] ∧ 60 % 4 = 0 ∧
      recordCheck devT (.slot 63) = some stFormat ∧ Nat.land (BitVec.ofNat 64 0x3F87 : DWord).toNat 0xFFFFFFFFFFFF0078 = 0 ∧
      bits (BitVec.ofNat 64 0x3F87 : DWord).toNat 15 8 ≤ 63 := by decide +kernel

/-- A record of a long command and one of a short command that their handlers accept. -/
theorem witness_receiptRead :
    let d := withRec { devT with fw := { slots := [(0, { st := .good }), (1, { st := .staged })], running := true } } 0x21 [0]
    accepted d (.slot 63) 0x21 (taken d (.slot 63) 0x21).1 (taken d (.slot 63) 0x21).2.1 (taken d (.slot 63) 0x21).2.2 ∧
      0x21 ∈ longOpcodes ∧ 0x21 ≠ 0x30 ∧
      (handlerOf (.slot 63) 0x21 (taken d (.slot 63) 0x21).1 (windowRecord d (.slot 63)) (some (taken d (.slot 63) 0x21).2.1)).1 = some stOk :=
  ⟨accepted_of (by decide +kernel), by decide +kernel⟩

theorem witness_receiptRead_short :
    let d := withRec devT 0x07 [0x100010203, 0, 0x20000000002, 15]
    recordOk d (.slot 63) 0x07 ∧ 0x07 ∉ longOpcodes ∧
      (handlerOf (.slot 63) 0x07 d (windowRecord d (.slot 63)) none).1 = some stOk := by unfold recordOk; decide +kernel

theorem witness_hostPort :
    devT.link.up = false ∧ devT.phase = .running ∧ ({ devT with link := { up := true } } : Dev).link.up = true ∧
      (∀ log ∈ [7, 15], let d := regPut (regPut devT .complogBase [7] (16 * 2 ^ 20)) .cwLogBase [7] (32 * 2 ^ 20)
        let o := logCtlOff log
        let v : DWord := BitVec.ofNat 64 0xC00A
        let t := (regD o).1
        let ix := (regD o).2
        let x := written d t ix o 8 v
        let n := if t.id = .complogCtl then ix.headD 0 else 8 + ix.headD 0
        writable d o 8 v t ix ∧ bitAt v.toNat 15 = true ∧ bitAt x 15 = true ∧ bits x 3 0 ≤ 10 ∧ bitAt (regGet d t.id ix) 15 = false ∧
          enableBad d (if n < 8 then regGet d .complogBase ix else regGet d .cwLogBase ix) x = false) := by
  unfold writable; decide +kernel

theorem witness_complogRetry :
    let h : Held := { op := opOf 1, status := stOk, poisoned := false, result0 := 0, result1 := 0, tDone := 0, waited := true }
    let d := regPut { devT with held := [h] } .complogCtl [0] 0x8000
    headOf d 0 = some h ∧ logEnabled d 0 = true ∧ h.waited = true := by decide +kernel

/-! ### Resets and bring-up -/

theorem witness_reset :
    ∀ a ∈ [0, 1, 2, 0x101], let d := withRec devT 0x30 [a]
      accepted d (.slot 63) 0x30 (taken d (.slot 63) 0x30).1 (taken d (.slot 63) 0x30).2.1 (taken d (.slot 63) 0x30).2.2 ∧
        argOf d (.slot 63) 0 = a ∧ regBit d .bootStatus [] 4 = true := by
  intro a ha; exact ⟨accepted_of (by revert a; decide +kernel), by revert a; decide +kernel⟩

/-- A compute reset in a phase. -/
def resetDev (p : Nat) (l : List Access) : Dev := { devT with creset := { active := true, phase := p, writeback := true }, accesses := l }

theorem witness_computeReset :
    tileAccessWaits (resetDev 3 [{ agent := .tile 255, addr := 0, kind := .read 8 false false }]) = true ∧
      tileAccessWaits (resetDev 3 []) = false ∧ (resetDev 6 []).creset.phase = 6 ∧ (resetDev 6 []).creset.active = true ∧ seedsWait { resetDev 6 [] with entropy := { startup := false } } = false ∧
      (resetStep4 (setPhase (abortXfers ((resetDev 3 []).canvases.foldl (fun d e => eachTile d e.1 haltEasel) (resetDev 3 []))) 4)).2 = true ∧
      (resetStep5 (setPhase (resetStep4 (setPhase (abortXfers ((resetDev 3 []).canvases.foldl (fun d e => eachTile d e.1 haltEasel)
        (resetDev 3 []))) 4)).1 5)).2 = true := by decide +kernel

theorem witness_bringUp :
    State.reset.dev.phase = .coldHold ∧ State.reset.dev.pgLow = [] ∧ ({ devT with phase := .coldHold, pgLow := [7] } : Dev).pgLow ≠ [] ∧
      halted { devT with phase := .bringUp6 } = false := by decide +kernel

/-! ### Firmware -/

/-- Slot 1 is in a state; slot 0 is active and GOOD or on trial. -/
def fwDev (a b : FwSt) : Dev := { devT with fw := { slots := [(0, { st := a }), (1, { st := b })], running := true } }

/-- An image without a prefix at address 0 is accepted and turned away later. -/
theorem witness_fwStage :
    let d := withRec (fwDev .good .empty) 0x20 [0, 2048]
    accepted d (.slot 63) 0x20 (taken d (.slot 63) 0x20).1 (taken d (.slot 63) 0x20).2.1 (taken d (.slot 63) 0x20).2.2 ∧
      argOf d (.slot 63) 1 = 2048 ∧ (stageFrom (taken d (.slot 63) 0x20).1 0 (some 2048) (some 0)).1 = some stOk :=
  ⟨accepted_of (by decide +kernel), by decide +kernel⟩

theorem witness_fwActivate :
    ∀ t ∈ [0, msTicks], let d := withRec (fwDev .good .staged) 0x21 [t]
      accepted d (.slot 63) 0x21 (taken d (.slot 63) 0x21).1 (taken d (.slot 63) 0x21).2.1 (taken d (.slot 63) 0x21).2.2 ∧
        argOf d (.slot 63) 0 = t ∧ (fwSlot (taken d (.slot 63) 0x21).1 (inactiveSlot (taken d (.slot 63) 0x21).1)).st = .staged ∧
        (t = 0 ∨ (taken d (.slot 63) 0x21).1.tb.now + msTicks ≤ t) := by
  intro t ht; exact ⟨accepted_of (by revert t; decide +kernel), by revert t; decide +kernel⟩

theorem witness_fwRegisters :
    let a := regOff .fwStageAddr []
    let b := regOff .fwAct []
    writable (fwDev .good .staged) a 8 64 (regD a).1 [] ∧ (stageFrom (fwDev .good .staged) (bits (accessValue a 8 64) 47 0) none none).1 = some stOk ∧
      writable (fwDev .good .staged) b 8 0 (regD b).1 [] := by unfold writable; decide +kernel

theorem witness_stagingComplete :
    let x : Staging := { image := List.replicate 16 0, src := none, op := none, port := some 63, tag := 0, size := 16 }
    x.size ≤ x.image.length ∧ (readWhole (withHue devT (coreHue devT)) (.core 0) 64 16).2.isSome = true := by decide +kernel

theorem witness_fwCtl :
    (∀ n ∈ [1, 2, 4], let o := regOff .fwCtl []
      writable (fwDev .trial .pendingSt) o 8 (BitVec.ofNat 64 n) (regD o).1 [] ∧ accessValue o 8 (BitVec.ofNat 64 n) = n) ∧
      inTrial (fwDev .trial .pendingSt) = true ∧ (fwSlot (fwDev .trial .pendingSt) (inactiveSlot (fwDev .trial .pendingSt))).st = .pendingSt := by
  unfold writable; decide +kernel

theorem witness_firmwareLife :
    (let d : Dev := { fwDev .good .pendingSt with fw := { (fwDev .good .pendingSt).fw with actT := 1, offersLeft := 1 }, tb := { now := 1 } }
     (fwSlot d (inactiveSlot d)).st = .pendingSt ∧ d.fw.actT ≠ 0 ∧ d.fw.actT ≤ d.tb.now ∧ d.fw.offersLeft ≠ 0 ∧
       d.fw.offerAt ≤ d.tb.now) ∧
    (let d : Dev := { fwDev .trial .empty with tb := { now := 2 ^ 50 } }
     (fwSlot d d.fw.active).st = .trial ∧ inTrial d = false ∧ (fwSlot d (inactiveSlot d)).st ≠ .staged ∧
       (fwSlot d (inactiveSlot d)).st ≠ .pendingSt) ∧ spdmReady (fwDev .good .empty) = true := by decide +kernel

theorem witness_receptionTimeout :
    let x : Staging := { image := [], src := none, op := none, port := some 63, tag := 0, size := 1 }
    let d : Dev := { fwDev .good .staging with fw := { (fwDev .good .staging).fw with staging := some x }, tb := { now := 2 ^ 50 } }
    d.fw.staging = some x ∧ x.image.length < x.size ∧ x.heard + 10000 * msTicks ≤ d.tb.now := by decide +kernel

/-! ### Services -/

/-- A service of a kind in a state, with a load from the flash, one from a peer and one that waits. -/
def svcT (kind : Nat) (st : SvcSt) (ix : Nat) : Svc :=
  { kind := kind, core := 7, restarts := 1, depends := none, image := 0, imageSize := 0, t0Delay := 0, st := st, loadIx := ix,
    params := [0, 1, 0x10000, 2, 0x20000, 1], loads := [{ src := 0, peer := 0, srcAddr := 0, dstAddr := 0, size := 16 },
      { src := 1, peer := 9, srcAddr := 0, dstAddr := 0, size := 16 }, { src := 2, peer := 0, srcAddr := 0x10000, dstAddr := 0, size := 5 }] }

/-- Service 15 owns canvas 0, which is in a state; the flash is there and the firmware runs. -/
def svcDev (v : Svc) (c : CanvasSt) : Dev :=
  { devT with svcs := [(15, { v with canvas := some 0 })], canvases := [(0, { cvT with st := c, owner := some 15 })], flashOk := true,
              fw := { running := true } }

theorem witness_serviceLoadDone :
    let d : Dev := { svcDev (svcT 1 .loading 0) .loaded with svcs := [(15, svcT 1 .loading 0)] }
    (svcOf d 15).bind loading = some { src := 0, peer := 0, srcAddr := 0, dstAddr := 0, size := 16 } ∧ d.flashOk = true ∧
      backed d 0 16 = true ∧ (devWrite (withHue d (coreHue d)) (.core 7) 0 (nvmBytes d 0 16)).2 = true ∧
      loading { svcT 1 .loading 1 with xfer := 3, xferEnd := some (3, stOk) } = some { src := 1, peer := 9, srcAddr := 0, dstAddr := 0, size := 16 } := by
  decide +kernel

theorem witness_waitPoll :
    let d : Dev := { devT with svcs := [(15, svcT 1 .loading 2)] }
    (svcOf d 15).bind loading = some { src := 2, peer := 0, srcAddr := 0x10000, dstAddr := 0, size := 5 } ∧
      (svcRead d (svcT 1 .loading 2) 0x10000 8).2.isSome = true ∧
      (loading { svcT 1 .stopping 2 with stopWait := true }).map (·.src) = some 2 ∧
      (svcOf d 15).map (fun v => v.xferEnd) = some none := by decide +kernel

/-- START and STOP of a service in a state: the value of CTL, the state. -/
theorem witness_svcCtl :
    ∀ x ∈ [(1, SvcSt.waiting), (1, .loading), (1, .running), (2, .stopped), (6, .stopped), (6, .failed), (6, .disabled), (2, .failed),
      (2, .disabled)], let o := regOff .svcCtl [15]
      let d := svcDev (svcT 1 x.2 0) .stopped
      let v := { svcT 1 x.2 0 with canvas := some 0 }
      writable d o 8 (BitVec.ofNat 64 x.1) (regD o).1 [15] ∧ d.fw.running = true ∧ svcOf d 15 = some v ∧
        accessValue o 8 (BitVec.ofNat 64 x.1) = x.1 := by unfold writable; decide +kernel

theorem witness_svcStart_canvas :
    let d := svcDev (svcT 1 .stopped 0) .stopped
    (svcOf d 15).map (·.canvas) = some (some 0) ∧ (canvasOf d 0).map (fun c => (c.st, c.unloading)) = some (.stopped, false) := by
  decide +kernel

/-- With and without a restart left, and as it stops. -/
theorem witness_serviceCanvasFaulted :
    ∀ x ∈ [(SvcSt.running, 0), (.running, 1), (.stopping, 0)], let d := svcDev { svcT 1 x.1 0 with used := x.2 } .faulted
      (svcOf d 15).map (fun v => (v.st, v.canvas, v.used, v.restarts)) = some (x.1, some 0, x.2, 1) ∧
        (canvasOf d 0).map (fun c => (c.st, c.unloading, c.owner)) = some (.faulted, false, some 15) := by decide +kernel

theorem witness_stepRelease_servePoll :
    (let d := svcDev (svcT 1 .running 0) .running
     ownedBy d 15 = some 0 ∧ (canvasOf d 0).map (·.st) = some .running ∧ d.creset.active = false) ∧
    (let d := svcDev { svcT 2 .stopping 0 with admitted := [(0, 0)] } .running
     ownedBy d 15 = some 0 ∧ (svcOf d 15).map (fun v => (v.kind, v.admitted)) = some (2, [(0, 0)])) ∧
    (svcOf (svcDev (svcT 2 .running 0) .running) 15).map (fun v => (v.kind, v.st)) = some (2, .running) := by decide +kernel

/-- A LOOP whose counter word has reached its step or not; with and without a checkpoint due. -/
theorem witness_loop :
    ∀ step ∈ [0, 1, 2], let v := { svcT 3 .running 0 with step := step, canvas := some 0 }
      let d := svcDev { svcT 3 .running 0 with step := step } .running
      svcOf d 15 = some v ∧ v.ckptOn = false ∧ v.st = .running ∧ (svcRead d v (svcParam v 2) 8).2 = some (leBytes 8 0) ∧ svcParam v 3 = 2 ∧
        checkpointWaits (svcRead d v (svcParam v 2) 8).1 v 1 = false ∧
        (∀ x ∈ d.xfers, x.origin ≠ .service 15) := by decide +kernel

/-- A checkpoint is on its way, and a LOOP that stops ends its step first. -/
theorem witness_loopCheckpointDone :
    (svcOf (svcDev { svcT 3 .running 0 with ckptOn := true } .running) 15).map (·.ckptOn) = some true ∧
      (svcOf (svcDev { svcT 3 .stopping 0 with stopWait := true } .running) 15).map (fun v => (v.st, v.stopWait)) =
        some (.stopping, true) := by decide +kernel

/-- A step that the counter has reached and that is no multiple of the checkpoint interval. -/
theorem witness_loop_goesOn :
    let v := { svcT 3 .running 0 with step := 1, canvas := some 0 }
    let d := (devWrite (svcDev { svcT 3 .running 0 with step := 1 } .running) (.core 7) 0x10000 (leBytes 8 1)).1
    svcOf d 15 = some v ∧ (svcRead d v (svcParam v 2) 8).2 = some (leBytes 8 1) ∧ leNat (leBytes 8 1) = 1 ∧
      v.step % svcParam v 3 = 1 ∧ d.creset.active = false := by decide +kernel

/-! ### Power -/

theorem witness_telemetryWindowEnd :
    runs (on { devT with tb := { now := 2000000 } }) ∧ (2000000 : Nat) / 2000000 ≠ devT.windowNo := ⟨rfl, by decide +kernel⟩

theorem witness_powerManagerTick_sequencerTarget :
    ({ devT with tb := { now := 2000 } } : Dev).tb.now % 2000 = 0 ∧ devT.managedAt ≠ some 2000 ∧ ∀ r ∈ [Rail.rind, .stem, .serdes], wantedPoint devT r < 3 := by decide +kernel

theorem witness_sequencers :
    ∀ st ∈ [SeqSt.raiseV, .lowerV, .raiseF, .lowerF], let x := seqOf (putSeq devT .serdes { st := st, mv := 850, goal := 850 }) .serdes
      x.st = st ∧ x.mv = x.goal := by decide +kernel

theorem witness_sequencerRetry :
    let x := seqOf (putSeq devT .stem { retry := some 2 }) .stem
    x.st = .stable ∧ x.retry = some 2 ∧ x.point ≠ 2 := by decide +kernel

theorem witness_sensorReading :
    ∀ id ∈ [SensorId.compute 271 6, .kreten 255 1, .rind 7 3, .hbm 15 12, .via 143], siteFitted devT id = true := by decide +kernel

theorem witness_graceExpires :
    let d := { devT with levers := [(3, { request := true, grace := some 0 })], tb := { now := 2 ^ 50 } }
    (lever d 3).grace = some 0 ∧ (lever d 3).request = true ∧ (lever d 3).enforce = false ∧
      0 + msTicks * regField d .thermCtl [] 47 32 ≤ d.tb.now := by decide +kernel

/-- An idle tile 0 in a power state, with dozing, resting and deep sleep allowed. -/
def idleDev (p : TilePwr) : Dev := regPut (tileDev fun tl => { tl with cur := none, pwr := p }) .pwrCtl [] 14

theorem witness_tilePower :
    (let d := idleDev .run
     (tileOf d 0).present = true ∧ blkServes d (quadOf 0) = true ∧ tileIdle d 0 = true ∧ quietFor d (tileKnown d 0) 80 = true) ∧
    (let d := idleDev .nap
     (tileOf d 0).pwr = .nap ∧ regBit d .pwrCtl [] 1 = true ∧ tileIdle d 0 = true ∧ quietFor d (tileKnown d 0) 8000 = true ∧
       (tileOf d 0).napAt + usTicks * regField d .pwrCtl [] 23 16 ≤ d.tb.now) ∧
    (tileOf (idleDev .doze) 0).pwr = .doze ∧ (idleDev .doze).deep = false := by decide +kernel

theorem witness_stackRest_deep :
    (let d := idleDev .run
     (stackOf d 15).populated = true ∧ (stackOf d 15).resting = false ∧ regBit d .pwrCtl [] 2 = true ∧ d.link.memEn = false ∧
       (∀ e ∈ d.sessions, bitAt e.2.desc.stackMask 15 = false) ∧ quietFor d (deviceKnown d) 200000 = true ∧
       (stackOf d 15).accessAt + 100 * usTicks * regField d .pwrCtl [] 15 8 ≤ d.tb.now) ∧
    (stackOf { devT with stks := [(15, { resting := true })] } 15).resting = true ∧ devT.deep = false ∧
    mayDeepen { idleDev .run with canvases := [] } = true ∧ ({ devT with deep := true } : Dev).deep = true := by decide +kernel

/-! ### Blocks and bonds -/

/-- Every block enabled but the sampler; then the sampler goes on, or movers 0 and 1 off. -/
theorem witness_blkEnable :
    let o := regOff .blkEnable []
    let d := regPut devT .blkEnable [] (2 ^ 30 - 1)
    (writable d o 8 (BitVec.ofNat 64 (2 ^ 31 - 1)) (regD o).1 [] ∧ enableChanges d o 8 (BitVec.ofNat 64 (2 ^ 31 - 1)) true = true) ∧
    (writable d o 8 (BitVec.ofNat 64 (2 ^ 30 - 1 - 48)) (regD o).1 [] ∧ enableChanges d o 8 (BitVec.ofNat 64 (2 ^ 30 - 1 - 48)) false = true) ∧
    (∀ n ∈ [2 ^ 31 - 1, 2 ^ 30 - 1 - 48], ∀ q < 4, bitAt (regGet d .blkEnable) q = true →
      bitAt (written d (regD o).1 [] o 8 (BitVec.ofNat 64 n)) q = false → quadInUse d q = false) := by unfold writable; decide +kernel

theorem witness_blkEnable_inUse :
    let o := regOff .blkEnable []
    let d := regPut devT .blkEnable [] (2 ^ 31 - 1)
    writable d o 8 0 (regD o).1 [] ∧ enableChanges d o 8 0 false = true ∧ bitAt (regGet d .blkEnable) 0 = true ∧
      bitAt (written d (regD o).1 [] o 8 0) 0 = false ∧ quadInUse d 0 = true := by unfold writable; decide +kernel

theorem witness_blockEvents :
    ∀ st ∈ [BlkSt.waking, .draining, .onPending], ∀ k ∈ [0, 4, 12, 20, 28, 30], let d := { devT with blocks := [(k, st)] }
      blkState d k = st ∧ drained d k = true ∧ seedsWait { d with entropy := { startup := false } } = false := by decide +kernel

theorem witness_bondSwap :
    (vportOf { devT with slices := [(255, { vports := [(1, { waiting := [7919] })] })] } 255 1).waiting ≠ [] := by decide +kernel

/-! ### The whole machine -/

theorem witness_haltedDevice : ¬ runs State.reset := by unfold runs; decide +kernel

theorem witness_levelsKept : levelsCurrent State.reset.dev ∧ step State.reset = .next State.reset := ⟨by unfold levelsCurrent; decide +kernel, rfl⟩

theorem witness_clockTicks :
    runs sT ∧ sT.pending = [] ∧ sT.dev.waits = [] ∧
      (let s := on { devT with waits := [.pipSubmit .host 8 0] }
       runs s ∧ s.pending = [] ∧ s.dev.waits = .pipSubmit .host 8 0 :: []) ∧
      ∀ w ∈ [(-1 : Int), 0, 1], let tb : TimeBase := { now := 7, slew := w }
        0 < tb.now ∧ tb.now < 2 ^ 64 - 1 ∧ tb.spanPos = 0 ∧ tb.now + 4097 < 2 ^ 64 :=
  ⟨rfl, rfl, rfl, ⟨rfl, rfl, rfl⟩, by decide +kernel⟩

/-- The last SEQ of slot 63, while its handle names an operation. -/
theorem witness_handlesAreFresh :
    let d := { devT with wins := [(63, { lastSeq := 0xFFFFFE })], ops := [{ opOf 1 with handle := 0x3FFFFFFF }] }
    (winOf d (.slot 63)).lastSeq = 0xFFFFFE ∧ handleUsed d (63 * 2 ^ 24 + 1) = false ∧
      handleUsed d (63 * 2 ^ 24 + 0xFFFFFF) = true ∧ (acceptOp d (.slot 63) 0x10 0 false).2.2 = 63 * 2 ^ 24 + 1 := by decide +kernel

theorem witness_writesReadBack :
    Memory.wf (memWrite {} 5 [1, 0, 2] false) = true ∧ Memory.wf State.reset.dev.hbm = true := by decide +kernel

/-- A region of two bands with a span of two. -/
theorem witness_regionsHoldSpans : ({ first := 43688, bands := 2, spanLog := 1 } : PipRegion).bands % 2 ^ 1 = 0 := by decide +kernel

theorem test_noWordIsACommand : decodeTableWord 32 0 = none := rfl

/-! ### Small checks of the model against the spec -/

/-- R287: the line at 0 lies in slice 0 and set 0; the next block's first line in slice 1. -/
theorem test_home : (homeSlice 0, homeSet 0) = (0, 0) ∧ homeSlice (2 ^ 18) = 1 ∧ homeSet (2 ^ 18) = 129 := by decide +kernel

/-- R28: a W1C bit that is written 1 clears, and one written 0 stays. -/
theorem test_w1c :
    let t := { regDef .bootStatus with rw := 0, w1c := 3, w1s := 0 }
    storedAfterWrite t 3 0xFF 1 = 2 := by decide +kernel

/-- R440: the decoder's base lies at device-local address 0. -/
theorem test_hostLocal :
    hostLocal hostDev 0x40000000080 = some 0x80 ∧ hostLocal hostDev 0x3FFFFFFFFFF = none ∧ hostLocal devT 0x40000000080 = none := by
  decide +kernel

/-- R33: SEQ wraps past 0. -/
theorem test_seqWraps : seqAfter 0xFFFFFF = 1 ∧ seqAfter 1 = 2 := by decide +kernel

/-- R91: 4,096 ticks make one span. -/
theorem test_tickTime : (tickTime { now := 41 }).now = 42 := by decide +kernel

/-- R450: status, opcode and handle of a receipt. -/
theorem test_receipt : receiptValue stOk 0x10 0x3F000001 = 0x000010003F000001 := by decide +kernel

/-- R324: band 1 of a device of 16 stacks starts at its row 1. -/
theorem test_band : (interleave 16 (1536 * 16 * 1024)).row = 1 := by decide +kernel

end Sys2Proof.Tests
end

section
/-! SUPPORT. Handles of long operations (R33 to R35): the SEQ values of a slot form one cycle, so among the SEQ values
that follow the slot's last one a free one comes before more handles are tried than operations are named. -/
namespace Sys2Proof.Proofs
open Sys2Proof Sys2Proof.Machine Sys2Proof.Safety Sys2Proof.Laws

/-! ### The cycle of SEQ values -/

theorem seqAfter_mem (n : Nat) : 1 ≤ seqAfter n ∧ seqAfter n ≤ 0xFFFFFF := by
  unfold seqAfter; split <;> omega

theorem seqAfter_iterate {n : Nat} (h1 : 1 ≤ n) (h2 : n ≤ 0xFFFFFF) (k : Nat) :
    seqAfter^[k] n = (n - 1 + k) % 0xFFFFFF + 1 := by
  induction k with
  | zero => simp only [Function.iterate_zero, id_eq]; omega
  | succ k ih =>
    rw [Function.iterate_succ_apply', ih]
    unfold seqAfter; split <;> omega

theorem seqAfter_iterate_inj {n i j : Nat} (h1 : 1 ≤ n) (h2 : n ≤ 0xFFFFFF) (hi : i < 0xFFFFFF) (hj : j < 0xFFFFFF)
    (h : seqAfter^[i] n = seqAfter^[j] n) : i = j := by
  rw [seqAfter_iterate h1 h2, seqAfter_iterate h1 h2] at h; omega

theorem seqAfter_reaches {n q : Nat} (h1 : 1 ≤ n) (h2 : n ≤ 0xFFFFFF) (hq1 : 1 ≤ q) (hq2 : q ≤ 0xFFFFFF) :
    ∃ k, k < 0xFFFFFF ∧ seqAfter^[k] n = q :=
  ⟨(q + 0xFFFFFF - n) % 0xFFFFFF, by omega, by rw [seqAfter_iterate h1 h2]; omega⟩

/-! ### Handles in use -/

/-- The handles that name an operation, running or held. -/
def usedHandles (d : Dev) : List Nat := d.ops.map (·.handle.toNat) ++ d.held.map (·.op.handle.toNat)

theorem handleUsed_iff (d : Dev) (h : Nat) : handleUsed d h = true ↔ h ∈ usedHandles d := by
  simp [handleUsed, usedHandles]

/-- The pigeonhole: a run of SEQ values whose handles are all in use is no longer than the list of operations. -/
theorem used_run_le {d : Dev} {slot m n : Nat} (h1 : 1 ≤ n) (h2 : n ≤ 0xFFFFFF) (hm : m ≤ 0xFFFFFF)
    (hused : ∀ k < m, handleUsed d (slot * 2 ^ 24 + seqAfter^[k] n) = true) :
    m ≤ d.ops.length + d.held.length := by
  have hsub : (List.range m).map (fun k => slot * 2 ^ 24 + seqAfter^[k] n) ⊆ usedHandles d := by
    intro h hh
    obtain ⟨k, hk, rfl⟩ := List.mem_map.mp hh
    exact (handleUsed_iff ..).mp (hused k (List.mem_range.mp hk))
  have hnodup : ((List.range m).map fun k => slot * 2 ^ 24 + seqAfter^[k] n).Nodup := by
    refine List.Nodup.map_on (fun i hi j hj h => ?_) List.nodup_range
    rw [List.mem_range] at hi hj
    exact seqAfter_iterate_inj h1 h2 (by omega) (by omega) (Nat.add_left_cancel h)
  simpa [usedHandles] using (List.subperm_of_subset hnodup hsub).length_le

/-! ### The first free SEQ -/

theorem freshSeq_eq_iterate {d : Dev} {slot m n f : Nat} (hm : m ≤ f)
    (hused : ∀ k < m, handleUsed d (slot * 2 ^ 24 + seqAfter^[k] n) = true)
    (hfree : handleUsed d (slot * 2 ^ 24 + seqAfter^[m] n) = false) : freshSeq d slot f n = seqAfter^[m] n := by
  induction m generalizing n f with
  | zero =>
    rw [Function.iterate_zero, id_eq] at hfree ⊢
    cases f with
    | zero => rfl
    | succ f => rw [freshSeq, hfree]; rfl
  | succ m ih =>
    obtain ⟨f, rfl⟩ : ∃ g, f = g + 1 := ⟨f - 1, by omega⟩
    have h0 : handleUsed d (slot * 2 ^ 24 + n) = true := hused 0 (by omega)
    rw [freshSeq, if_pos h0, Function.iterate_succ_apply]
    exact ih (by omega) (fun k hk => hused (k + 1) (by omega)) hfree

theorem freshSeq_self {d : Dev} {slot n : Nat} (h : handleUsed d (slot * 2 ^ 24 + n) = false) (f : Nat) :
    freshSeq d slot f n = n :=
  freshSeq_eq_iterate (m := 0) (Nat.zero_le f) (fun k hk => absurd hk (Nat.not_lt_zero k)) h

/-- While some SEQ is free, the search that tries one SEQ more than there are operations ends at a free one. -/
theorem freshSeq_free {d : Dev} {slot n q : Nat} (h1 : 1 ≤ n) (h2 : n ≤ 0xFFFFFF) (hq1 : 1 ≤ q) (hq2 : q ≤ 0xFFFFFF)
    (hq : handleUsed d (slot * 2 ^ 24 + q) = false) :
    let s := freshSeq d slot (d.ops.length + d.held.length + 1) n
    handleUsed d (slot * 2 ^ 24 + s) = false ∧ 1 ≤ s ∧ s ≤ 0xFFFFFF := by
  obtain ⟨k, hk, hkq⟩ := seqAfter_reaches h1 h2 hq1 hq2
  have hex : ∃ k, handleUsed d (slot * 2 ^ 24 + seqAfter^[k] n) = false := ⟨k, by rw [hkq, hq]⟩
  have hused : ∀ i < Nat.find hex, handleUsed d (slot * 2 ^ 24 + seqAfter^[i] n) = true := fun i hi => by
    simpa using Nat.find_min hex hi
  have hlt : Nat.find hex ≤ k := Nat.find_min' hex (by rw [hkq, hq])
  have hlen := used_run_le h1 h2 (by omega) hused
  dsimp only
  rw [freshSeq_eq_iterate (by omega) hused (Nat.find_spec hex)]
  refine ⟨Nat.find_spec hex, ?_⟩
  rw [seqAfter_iterate h1 h2]; omega

/-! ### Acceptance -/

@[simp] theorem winOf_putWin (d : Dev) (w : Win) (x : CmdWin) : winOf (putWin d w x) w = x := by
  cases w <;> simp [winOf, putWin]

/-- The SEQ that the next operation of a slot takes. -/
def nextSlotSeq (d : Dev) (n : Nat) : Nat :=
  freshSeq d n (d.ops.length + d.held.length + 1) (seqAfter (winOf d (.slot n)).lastSeq)

theorem acceptOp_slot_handle (d : Dev) (n opcode : Nat) (user : DWord) (quiet : Bool) :
    (acceptOp d (.slot n) opcode user quiet).2.2 = n * 2 ^ 24 + nextSlotSeq d n := rfl

theorem acceptOp_slot_lastSeq (d : Dev) (n opcode : Nat) (user : DWord) (quiet : Bool) :
    (winOf (acceptOp d (.slot n) opcode user quiet).1 (.slot n)).lastSeq = nextSlotSeq d n := by
  simp [acceptOp, winOf, putWin, nextSlotSeq]

/-- The accepted operation stands last in the list, under its handle. -/
theorem acceptOp_handleUsed (d : Dev) (w : Win) (opcode : Nat) (user : DWord) (quiet : Bool)
    (h : (acceptOp d w opcode user quiet).2.2 < 2 ^ 32) :
    handleUsed (acceptOp d w opcode user quiet).1 (acceptOp d w opcode user quiet).2.2 = true := by
  have hmem : (BitVec.ofNat 32 (acceptOp d w opcode user quiet).2.2).toNat ∈
      usedHandles (acceptOp d w opcode user quiet).1 := by
    cases w <;> simp [acceptOp, usedHandles]
  rwa [BitVec.toNat_ofNat, Nat.mod_eq_of_lt h, ← handleUsed_iff] at hmem

/-- Settles O9: the first free SEQ after the slot's last one is found by `freshSeq_free`. -/
theorem handlesAreFresh : Obligations.HandlesAreFresh := by
  intro d n opcode user quiet hn hfree next r
  obtain ⟨q, hq1, hq2, hq⟩ := hfree
  obtain ⟨hr1, hr2⟩ := seqAfter_mem (winOf d (.slot n)).lastSeq
  obtain ⟨hs, hs1, hs2⟩ : handleUsed d (n * 2 ^ 24 + nextSlotSeq d n) = false ∧ 1 ≤ nextSlotSeq d n ∧
      nextSlotSeq d n ≤ 0xFFFFFF := freshSeq_free hr1 hr2 hq1 hq2 hq
  have hh : r.2.2 = n * 2 ^ 24 + nextSlotSeq d n := acceptOp_slot_handle ..
  have hlt : r.2.2 < 2 ^ 32 := by omega
  refine ⟨by rw [hh, hs], by omega, by omega, acceptOp_handleUsed _ _ _ _ _ hlt, ?_, fun hnext => ?_⟩
  · rw [acceptOp_slot_lastSeq]; omega
  · rw [hh]
    exact congrArg _ (freshSeq_self hnext _)

end Sys2Proof.Proofs
end

section
/-! SUPPORT. Statements about every command and about the whole machine: that each command answers, and what reset
leaves. -/
namespace Sys2Proof.Proofs
open Sys2Proof Sys2Proof.Machine Sys2Proof.Safety Sys2Proof.Laws

/-- Settles O1: the meaning of every command is an `act` or an `actAlways`, and each of the two answers the state with
another device. -/
theorem everyCommandAnswers : Obligations.EveryCommandAnswers := by
  intro c s
  cases c
  all_goals exact ⟨_, rfl⟩

theorem levelsCurrent_reset : levelsCurrent State.reset.dev := ⟨by decide +kernel, rfl⟩

/-- Settles O6: at reset no register is stored, so each reads the reset value of its table. -/
theorem resetState : Obligations.ResetState :=
  ⟨rfl, rfl, rfl, rfl, rfl, rfl, rfl, levelsCurrent_reset, fun _ _ => rfl⟩

end Sys2Proof.Proofs
end

section
/-! SUPPORT. Register accesses (R24 to R30) and the command window (R444 to R451): what a write stores bit by bit, which
writes and reads go past the rules of single registers, and how a receipt read ends. -/
namespace Sys2Proof.Proofs
open Sys2Proof Sys2Proof.Machine Sys2Proof.Safety Sys2Proof.Laws

/-! ### Stored bits -/

theorem storedAfterWrite_testBit (t : RegDef) (old mask v : Nat) {i : Nat} (hi : i < 64) :
    (storedAfterWrite t old mask v).testBit i =
      (old.testBit i && !(t.rw.testBit i && mask.testBit i || t.w1c.testBit i && (v.testBit i && mask.testBit i)) ||
        (v.testBit i && mask.testBit i && t.rw.testBit i || v.testBit i && mask.testBit i && t.w1s.testBit i)) := by
  have ones : (2 ^ 64 - 1).testBit i = true := by rw [Nat.testBit_two_pow_sub_one, decide_eq_true hi]
  change ((old &&& ((2 ^ 64 - 1) ^^^ ((t.rw &&& mask) ||| (t.w1c &&& (v &&& mask))))) |||
    (((v &&& mask) &&& t.rw) ||| ((v &&& mask) &&& t.w1s))).testBit i = _
  simp only [Nat.testBit_or, Nat.testBit_and, Nat.testBit_xor, ones, Bool.true_bne]

/-- Settles O8, by the value of one stored bit in each of the four kinds of field. -/
theorem storedBits : Obligations.StoredBits := by
  intro t old mask v i hi _ _ _ was hit
  rw [storedAfterWrite_testBit t old mask v hi]
  refine ⟨fun hrw hc hs => ?rw, fun hrw hc hs => ?w1c, fun hrw hc hs => ?w1s, fun hrw hc hs => ?kept⟩ <;>
    simp only [hrw, hc, hs, was, hit]
  case rw => cases mask.testBit i <;> simp
  case w1c => simp [Bool.and_comm]
  case w1s => simp [Bool.and_comm]
  case kept => simp

/-! ### Registers without a rule of their own -/

theorem regIdAt_eq {off : Nat} {t : RegDef} {ix : List Nat} (h : regAt (off / 8 * 8) = some (t, ix)) :
    regIdAt off = some (t.id, ix) := by
  unfold regIdAt; rw [h]; rfl

theorem writeBar0_unruled {off : Nat} {t : RegDef} {ix : List Nat} (h : regAt (off / 8 * 8) = some (t, ix))
    (ht : t.id ∉ ruledRegs) (d : Dev) (r : Req) (bytes : Nat) (v : DWord) :
    writeBar0 d r off bytes v = withWrite d r off bytes v (ruleWrite r) := by
  unfold writeBar0; rw [regIdAt_eq h]
  split
  case h_20 => rfl
  all_goals
    rename_i heq
    obtain ⟨hi, -⟩ := Prod.mk.inj (Option.some.inj heq)
    exact absurd (by rw [hi]; decide) ht

theorem ruleWrite_unruled {t : RegDef} (ht : t.id ∉ ruledRegs) (r : Req) (d : Dev) (ix : List Nat) (mask val : Nat) :
    ruleWrite r d t ix mask val = plainWrite d t ix mask val := by
  unfold ruleWrite
  split
  case h_31 => rfl
  all_goals
    rename_i hi
    exact absurd (by rw [hi]; decide) ht

theorem readBar0_unruled {off : Nat} {t : RegDef} {ix : List Nat} (h : regAt (off / 8 * 8) = some (t, ix))
    (ht : t.id ∉ ruledReads) (d : Dev) (r : Req) (bytes : Nat) :
    readBar0 d r off bytes = withRead d r off bytes fun d t ix => (d, some (regValue d t ix)) := by
  unfold readBar0; rw [regIdAt_eq h]
  split
  case h_4 => rfl
  all_goals
    rename_i heq
    obtain ⟨hi, -⟩ := Prod.mk.inj (Option.some.inj heq)
    exact absurd (by rw [hi]; decide) ht

theorem writeBar0_stores {d : Dev} {off bytes : Nat} {v : DWord} {t : RegDef} {ix : List Nat}
    (h : writable d off bytes v t ix) (ht : t.id ∉ ruledRegs) (r : Req) :
    writeBar0 d r off bytes v = regPut d t.id ix (written d t ix off bytes v) := by
  have ⟨_, hreg, _⟩ := h
  rw [writeBar0_unruled hreg ht, withWrite_eq h, ruleWrite_unruled ht]; rfl

theorem readBar0_answers {d : Dev} {off bytes : Nat} {t : RegDef} {ix : List Nat} (h : readableAt d off bytes t ix)
    (ht : t.id ∉ ruledReads) (r : Req) :
    readBar0 d r off bytes = emit d (.regRead r off (BitVec.ofNat 64 (if bytes = 8 then regValue d t ix
      else if off % 8 = 0 then regValue d t ix % 2 ^ 32 else regValue d t ix >>> 32))) := by
  have ⟨_, hreg, _⟩ := h
  rw [readBar0_unruled hreg ht, withRead_eq h r rfl]

/-- R26: whatever the register's rule is, a reserved bit that is set stops the write. -/
theorem withWrite_reserved {d : Dev} {off bytes : Nat} {v : DWord} {t : RegDef} {ix : List Nat}
    (hs : sizeOk off bytes = true) (ht : regAt (off / 8 * 8) = some (t, ix)) (hg : regGated d off = false)
    (ha : (t.actsW && bytes == 4) = false) (hv : Nat.land (accessValue off bytes v) t.rsv ≠ 0) (r : Req)
    (f : Dev → RegDef → List Nat → Nat → Nat → Dev) :
    withWrite d r off bytes v f = logAccess d r stReserved off false true bytes := by
  have ha' : ¬(t.actsW && decide (bytes = 4)) = true := by simpa using ha
  unfold withWrite
  simp only [hs, ht, hg, Bool.not_true, Bool.false_eq_true, if_false, if_neg ha', if_pos hv]

/-! ### The command window -/

theorem writeRecordAt_eq {data : List Byte} {off : Nat} (hl : data.length ∈ [4, 8, 16, 32, 64])
    (ha : off % data.length = 0) (hi : off + data.length ≤ 64) (d : Dev) (w : Win) :
    writeRecordAt d w off data = putWin d w { winOf d w with
      record := BitVec.ofNat 512 (putBits (winOf d w).record.toNat (8 * (off + data.length) - 1) (8 * off) (leNat data)) } := by
  unfold writeRecordAt
  rw [if_neg (by simp [(nmem_iff ..).mpr hl, ha, hi])]

theorem submit_rejected {d : Dev} {w : Win} {st : Half} (h : recordCheck d w = some st) (f : Handler) :
    submit d w f = rejectRecord d d w (windowRecord d w).opcode st := by
  unfold submit; rw [h]

theorem submitAs_eq_submit {d : Dev} {w : Win} {o : Nat} (hw : winExists w = true) (ho : (windowRecord d w).opcode = o)
    (f : Handler) : submitAs d w o f = submit d w f := by
  unfold submitAs; rw [hw, ho]; simp

@[simp] theorem rejectRecord_nextOp (d x : Dev) (w : Win) (o : Nat) (st : Half) :
    (rejectRecord d x w o st).nextOp = d.nextOp := by cases w <;> rfl

/-- A rejected RESET takes no operation, so nothing follows its receipt. -/
theorem submitReset_rejected {d : Dev} {w : Win} {st : Half} (hw : winExists w = true)
    (ho : (windowRecord d w).opcode = 0x30) (h : recordCheck d w = some st) :
    submitReset d w = rejectRecord d d w (windowRecord d w).opcode st := by
  unfold submitReset
  rw [submitAs_eq_submit hw ho, submit_rejected h]
  simp

theorem readReceipt_eq_submit {d : Dev} {w : Win} {o : Nat} (ho : (windowRecord d w).opcode = o) (hn : o ≠ 0x30) :
    readReceipt d w 8 = submit d w (handlerOf w o) := by
  unfold readReceipt; rw [ho, if_neg (by simp), if_neg hn]

theorem readReceipt_rejected {d : Dev} {w : Win} {st : Half} (hw : winExists w = true) (h : recordCheck d w = some st) :
    readReceipt d w 8 = rejectRecord d d w (windowRecord d w).opcode st := by
  by_cases ho : (windowRecord d w).opcode = 0x30
  · unfold readReceipt; rw [if_neg (by simp), if_pos ho, submitReset_rejected hw ho h]
  · rw [readReceipt_eq_submit rfl ho, submit_rejected h]

theorem readReceipt_long {d d1 d2 : Dev} {w : Win} {o op h : Nat} (ha : accepted d w o d1 op h) (hl : o ∈ longOpcodes)
    (hn : o ≠ 0x30) (hf : handlerOf w o d1 (windowRecord d w) (some op) = (some stOk, d2)) :
    readReceipt d w 8 = receipted d2 w o h := by
  have ⟨⟨hw, ho, _⟩, _⟩ := ha
  rw [readReceipt_eq_submit ho hn, ← submitAs_eq_submit hw ho, submitAs_long ha ((nmem_iff ..).mpr hl) hf]

theorem readReceipt_short {d d2 : Dev} {w : Win} {o : Nat} (ha : recordOk d w o) (hl : o ∉ longOpcodes)
    (hf : handlerOf w o d (windowRecord d w) none = (some stOk, d2)) : readReceipt d w 8 = receipted d2 w o 0 := by
  have ⟨hw, ho, _⟩ := ha
  have hn : o ≠ 0x30 := by rintro rfl; exact hl (by decide)
  have hl' : nmem o longOpcodes = false := by rwa [← Bool.not_eq_true, nmem_iff]
  rw [readReceipt_eq_submit ho hn, ← submitAs_eq_submit hw ho, submitAs_short ha hl' hf]

theorem exec_receiptRead {s : State} {w : Win} (hr : runs s) (hw : winExists w = true) {e : Dev}
    (h : readReceipt s.dev w 8 = e) : exec (.receiptRead w 8) s = after s e :=
  show execReceiptRead w 8 s = _ from act_eq hr (by rw [if_pos hw, h])

/-! ### Command slots in BAR2 -/

theorem slotOffset_parts {n o : Nat} (hn : n < 64) (ho : o < 0x1000) :
    0x1000 * n + o < 0x40000 ∧ (0x1000 * n + o) / 0x1000 = n ∧ (0x1000 * n + o) % 0x1000 = o := by omega

theorem writeSlot_ctl {v : DWord} (hv : Nat.land v.toNat 0xFFFFFFFFFFFF0078 = 0) (hi : bits v.toNat 15 8 ≤ 63) (d : Dev)
    (n : Nat) : writeSlot d n 0x50 8 v = putWin d (.slot n) { winOf d (.slot n) with ctl := v } := by
  have hrsv : ¬Nat.land (accessValue 0x50 8 v) (slotRsv (0x50 / 8 * 8)) ≠ 0 := fun h => h hv
  have hctl : Nat.lor (Nat.land (winOf d (.slot n)).ctl.toNat (Nat.xor (2 ^ 64 - 1) (accessMask 0x50 8)))
      (accessValue 0x50 8 v) = v.toNat := by
    change ((winOf d (.slot n)).ctl.toNat &&& ((2 ^ 64 - 1) ^^^ (2 ^ 64 - 1))) ||| v.toNat = v.toNat
    simp
  unfold writeSlot
  simp only [hrsv, hctl, if_false]
  simp [sizeOk, Nat.not_lt.mpr hi]

theorem readSlot_last (d : Dev) (n : Nat) :
    readSlot d n 0x48 8 = emit d (.slotRead (0x1000 * n + 0x48) (winOf d (.slot n)).last) := by
  unfold readSlot; simp [sizeOk]

/-- Settles O49, one lemma about the register file or the command window for each clause. -/
theorem registerAccess : Obligations.RegisterAccess := by
  refine ⟨?write, ?read, ?reserved, ?record, ?rejected, ?long, ?short, ?slotCtl, ?slotLast⟩
  case write =>
    intro s r off bytes v t ix hr hw ht
    change execRegisterWrite r false off bytes v s = _
    exact act_eq hr (writeBar0_stores hw ht r)
  case read =>
    intro s r off bytes t ix hr hrd ht
    change execRegisterRead r false off bytes s = _
    exact act_eq hr (readBar0_answers hrd ht r)
  case reserved =>
    intro s r off bytes v t ix hr hs hreg hg ha hv ht
    change execRegisterWrite r false off bytes v s = _
    exact act_eq hr ((writeBar0_unruled hreg ht _ _ _ _).trans (withWrite_reserved hs hreg hg ha hv r _))
  case record =>
    intro s w off data hr hw hl ha hi
    change execRecordWrite w off data s = _
    exact act_eq hr (by rw [if_pos hw, writeRecordAt_eq hl ha hi])
  case rejected =>
    intro s w st hr hw hc
    exact exec_receiptRead hr hw (readReceipt_rejected hw hc)
  case long =>
    intro s w o d1 op h d2 hr hacc hl hn hf
    have ⟨⟨hw, _⟩, _⟩ := hacc
    exact exec_receiptRead hr hw (readReceipt_long hacc hl hn hf)
  case short =>
    intro s w o d2 hr hok hl hf
    have ⟨hw, _⟩ := hok
    exact exec_receiptRead hr hw (readReceipt_short hok hl hf)
  case slotCtl =>
    intro s n v hr hn hv hi
    obtain ⟨hlt, hq, hm⟩ := slotOffset_parts hn (o := 0x50) (by omega)
    change execRegisterWrite .host true _ 8 v s = _
    exact act_eq hr (by rw [hq, hm, writeSlot_ctl hv hi]; simp [hlt])
  case slotLast =>
    intro s n hr hn
    obtain ⟨hlt, hq, hm⟩ := slotOffset_parts hn (o := 0x48) (by omega)
    change execRegisterRead .host true _ 8 s = _
    exact act_eq hr (by rw [hq, hm, readSlot_last]; simp [hlt])

end Sys2Proof.Proofs
end

section
/-! SUPPORT. Accesses of device memory that are served at once (R162, R294, R295, R440), and the host's copies (R314). -/
namespace Sys2Proof.Proofs
open Sys2Proof Sys2Proof.Machine Sys2Proof.Safety Sys2Proof.Laws

theorem access_served {d e : Dev} {x : Access} (h : served d x e) : access d x = e := by
  obtain ⟨hbacked, hfirst, hperform⟩ := h
  have hany : d.accesses.any (waitsBehind · x) = false := by simpa using hfirst
  unfold access; rw [hbacked, hany, hperform]; rfl

theorem sizeBits_of_word {n : Nat} (h : n = 4 ∨ n = 8) : sizeBits n = true := by
  rcases h with rfl | rfl <;> rfl

theorem coreAccess_served {d e : Dev} {c addr n : Nat} {k : AccessKind} (hc : c < 8) (hn : sizeBits n = true)
    (ha : addr % n = 0) (h : served d { agent := .core c, addr := addr, kind := k } e) (store : Bool) :
    coreAccess d c addr n store k = e := by
  rw [← access_served h]; unfold coreAccess; simp [hc, hn, ha]

theorem hostLocal_base_add {d : Dev} (h : hostDecodes d = true) (a : Nat) :
    hostLocal d (d.link.hdmBase.toNat + a) = some a := by
  unfold hostLocal; simp [h]

theorem hostAccess_served {d e : Dev} {a : Nat} {k : Nat → AccessKind} (hd : hostDecodes d = true)
    (h : served d { agent := .host, addr := a / 64 * 64, kind := k a } e) :
    hostAccess d (d.link.hdmBase.toNat + a) k = e := by
  rw [← access_served h]; unfold hostAccess; rw [hostLocal_base_add hd]

/-- Settles O33: each request reaches `access` once its own checks pass, and there it is served; the host's answers act on
the line that they name. -/
theorem accesses : Obligations.Accesses := by
  refine ⟨⟨?coreLoad, ?coreStore, ?coreAmo, ?coreSc, ?hostRead, ?hostWrite, ?hostSnoop, ?sliceRead, ?sliceWrite⟩,
    ?hostWriteback, ?bisnpResponse⟩
  case coreLoad =>
    intro s c addr size reserve d hr hc hsz ha hs
    change execCoreLoad c addr size reserve s = _
    exact act_eq hr (coreAccess_served hc hsz ha hs _)
  case coreStore =>
    intro s c addr size v d hr hc hsz ha hs
    change execCoreStore c addr size v s = _
    exact act_eq hr (coreAccess_served hc hsz ha hs _)
  case coreAmo =>
    intro s c addr size op signed v d hr hc hsz hop ha hs
    change execCoreAmo c addr size op signed v s = _
    exact act_eq hr (by
      rw [if_pos (by simpa [hop] using hsz), coreAccess_served hc (sizeBits_of_word hsz) ha hs])
  case coreSc =>
    intro s c addr size v d hr hc hsz ha hs
    change execCoreSc c addr size v s = _
    exact act_eq hr (by rw [if_pos (by simpa using hsz), coreAccess_served hc (sizeBits_of_word hsz) ha hs])
  case hostRead =>
    intro s a hold d hr hd hs
    change execHostMemRead _ hold s = _
    exact act_eq hr (hostAccess_served hd hs)
  case hostWrite =>
    intro s a data poison failed hold d hr hd hs
    change execHostMemWrite _ data poison failed hold s = _
    exact act_eq hr (hostAccess_served hd hs)
  case hostSnoop =>
    intro s addr hr
    change execHostSnoop addr s = _
    exact act_eq hr rfl
  case sliceRead =>
    intro s a addr bytes spent d hr hs
    change execSliceRead a addr bytes spent s = _
    exact act_eq hr (access_served hs)
  case sliceWrite =>
    intro s a addr data poison d hr hs
    change execSliceWrite a addr data poison s = _
    exact act_eq hr (access_served hs)
  case hostWriteback =>
    intro s a data hold sl hr hd hb hsl
    change execHostWriteback _ data hold s = _
    refine act_eq hr ?_
    simp only [hostLocal_base_add hd, hb, hsl]
    cases data <;> rfl
  case bisnpResponse =>
    intro s slice line dirty q hr hq
    change execBisnpResponse slice line dirty s = _
    refine act_eq hr ?_
    rw [hq]
    cases dirty <;> rfl

end Sys2Proof.Proofs
end

section
/-! SUPPORT. Stream instructions (R66 to R68, R129, R130, R194 to R197): what each of them answers at issue where its checks
pass. -/
namespace Sys2Proof.Proofs
open Sys2Proof Sys2Proof.Machine Sys2Proof.Safety Sys2Proof.Laws

/-! ### Checks that pass -/

@[simp] theorem guardOk_true (r : Issued) : guardOk true r = r := rfl
@[simp] theorem orFault_none (r : Issued) : orFault none r = r := rfl

/-- A stage instruction that goes on to the next word. -/
theorem act_issue_done {s : State} {d d2 : Dev} {t g run : Nat} {ups : List Upset} {i : Iss} {f : Dev → Iss → Issued}
    (h : issues s t g ups d i run) (hf : f d i = .done d2) :
    act s (fun x => issue x t g ups f) = after s (advanced d2 i run) := by
  obtain ⟨hr, hi⟩ := h
  exact act_eq hr (issue_done hi hf)

section
variable {d : Dev} {i : Iss} {sn : Nat} {cv : Canvas} {e : StreamEnt}

/-! ### Writing -/

/-- With a credit of every consumer that it goes to, a write sends its packet (R66, R67). -/
theorem doStreamWrite_sends {addr rank : Opnd} (ho : ownStream d i sn true = some (cv, e)) (ha : opndOk addr = true)
    (hk : opndOk rank = true) (hp : parityFails i (if e.multicast then [addr] else [addr, rank]) [i.low] = none)
    (hr : e.multicast = true ∨ val i rank < (stageSeats cv e.consumer).length)
    (hsb : sbOk i.seat (val i addr) (packetBytes e) = true)
    (hc : ((targets cv e (val i rank)).all fun k => decide (creditsOf e (streamRt d i.cv sn) i.seat.rank k > 0)) = true) :
    doStreamWrite sn addr rank d i =
      .done (sendPacket d i.cv sn e i.t i.seat.rank (val i addr) (targets cv e (val i rank))) := by
  have hrank : (!e.multicast && decide (val i rank ≥ (stageSeats cv e.consumer).length)) = false := by
    rcases hr with hm | hlt
    · simp [hm]
    · simp [Nat.not_le.mpr hlt]
  unfold val at hrank hsb hc ⊢
  simp only [doStreamWrite, ha, hk, ho, hp, hrank, hsb, hc, Bool.and_true, guardOk_true, orFault_none, Bool.not_true,
    Bool.false_eq_true, if_false, if_true]

/-! ### Reading -/

/-- A read of a rank with a FILLED slot takes the oldest one (R65, R68). -/
theorem doStreamRead_takes {rank : Option Opnd} {dstAddr dstLen r k t : Nat} {more : List Nat} {se : SeatEnt}
    (ho : ownStream d i sn false = some (cv, e)) (hs : sound i rank.toList [i.low]) (hda : dstAddr < 64) (hdl : dstLen < 64)
    (hr : r = (rank.map (val i)).getD (consEp (streamRt d i.cv sn) i.seat.rank).turn)
    (hrn : r < (stageSeats cv e.producer).length) (hg : gatedStream cv i.seat.stage ≠ some sn)
    (hq : tget [] (consEp (streamRt d i.cv sn) i.seat.rank).order r = k :: more)
    (hse : seatOfRank cv e.consumer i.seat.rank = some (t, se)) :
    doStreamRead sn rank dstAddr dstLen d i =
      let ep := consEp (streamRt d i.cv sn) i.seat.rank
      let ep := { ep with
        order := tput ep.order r more, slots := tput ep.slots (slotKey r k) { slotOf ep r k with st := .readSt },
        turn := if rank.isNone then (r + 1) % (stageSeats cv e.producer).length else ep.turn }
      let d := modStream d i.cv sn fun rt => putCons rt i.seat.rank ep
      .done (writeAll (writeAll d i (.reg dstAddr) (slotAddr se e r k)) i (.reg dstLen) (packetBytes e)) := by
  obtain ⟨hok, hp⟩ := hs
  cases rank <;>
    simp only [Option.map_none, Option.map_some, Option.getD_none, Option.getD_some, val] at hr <;>
    simp only [doStreamRead, hok, hda, hdl, ho, hp, ← hr, hq, hse, decide_true, Bool.and_self, guardOk_true, orFault_none,
      ge_iff_le, Nat.not_le.mpr hrn, hg, if_false, Option.isNone_none, Option.isNone_some, if_true]

/-- A gated read whose gate is open forms a batch (R194 to R197). -/
theorem doGateRead_batch {addr : Opnd} {dst t : Nat} {se : SeatEnt} (ho : ownStream d i sn false = some (cv, e))
    (hs : sound i [addr] [i.low]) (hd : dst < 64) (hg : gatedStream cv i.seat.stage = some sn)
    (hb : (consEp (streamRt d i.cv sn) i.seat.rank).batch = []) (ha : val i addr % 64 = 0)
    (hse : seatOfRank cv e.consumer i.seat.rank = some (t, se))
    (hopen : (gateByRows i.stage e (consEp (streamRt d i.cv sn) i.seat.rank) ||
      gateByHold d.tb.now i.stage (consEp (streamRt d i.cv sn) i.seat.rank)) = true)
    (hsb : sbOk i.seat (val i addr) (8 * (formBatch (consEp (streamRt d i.cv sn) i.seat.rank) i.stage.fillRows e.rows
      (stageSeats cv e.producer).length).1.batch.length) = true) :
    doGateRead sn addr dst d i =
      let b := formBatch (consEp (streamRt d i.cv sn) i.seat.rank) i.stage.fillRows e.rows (stageSeats cv e.producer).length
      let byRows := gateByRows i.stage e (consEp (streamRt d i.cv sn) i.seat.rank)
      let d := modStream d i.cv sn fun rt => putCons rt i.seat.rank b.1
      let d := sbWrite d i.t (val i addr) (b.1.batch.flatMap fun x => leBytes 8 (batchWord se e x)) false
      let d := if byRows then regBump d .gateOpens [i.t] 31 0 1 else regBump d .gateOpens [i.t] 63 32 1
      .done (writeAll d i (.reg dst) (((b.2 % 2 ^ 16) <<< 16) + b.1.batch.length)) := by
  obtain ⟨hok, hp⟩ := hs
  have hok' : opndOk addr = true := by simpa using hok
  unfold val at ha hsb ⊢
  simp only [doGateRead, hok', hd, ho, hp, hg, hb, ha, hse, hopen, hsb, decide_true, Bool.and_self, guardOk_true, orFault_none,
    ne_eq, not_true_eq_false, List.isEmpty_nil, Bool.not_true, Bool.false_eq_true, if_false]

/-! ### Releasing -/

/-- A release on a stream without a gate frees the READ slot at the address (R68). -/
theorem doStreamRelease_slot {sa : Opnd} {t r k : Nat} {se : SeatEnt} (ho : ownStream d i sn false = some (cv, e))
    (hs : sound i [sa] [i.low]) (hse : seatOfRank cv e.consumer i.seat.rank = some (t, se))
    (hg : gatedStream cv i.seat.stage ≠ some sn)
    (hat : slotAt se e (stageSeats cv e.producer).length (val i sa) = some (r, k))
    (hst : (slotOf (consEp (streamRt d i.cv sn) i.seat.rank) r k).st = .readSt) :
    doStreamRelease sn sa d i = .done (modStream d i.cv sn fun rt => releaseSlots rt i.seat.rank [(r, k)]) := by
  obtain ⟨hok, hp⟩ := hs
  have hok' : opndOk sa = true := by simpa using hok
  unfold val at hat
  simp only [doStreamRelease, hok', ho, hp, hg, hse, hat, hst, guardOk_true, orFault_none, ne_eq, not_true_eq_false, if_false]

/-- A release on a gated stream frees the slots of its batch (R197). -/
theorem doStreamRelease_batch {sa : Opnd} (ho : ownStream d i sn false = some (cv, e)) (hok : opndOk sa = true)
    (hg : gatedStream cv i.seat.stage = some sn) (hb : (consEp (streamRt d i.cv sn) i.seat.rank).batch ≠ []) :
    doStreamRelease sn sa d i = .done (modStream d i.cv sn fun rt =>
      releaseSlots rt i.seat.rank (consEp (streamRt d i.cv sn) i.seat.rank).batch) := by
  have hbatch : (consEp (streamRt d i.cv sn) i.seat.rank).batch.isEmpty = false := by simpa using hb
  simp only [doStreamRelease, hok, ho, hg, hbatch, guardOk_true, if_true, Bool.false_eq_true, if_false]

end

/-- Settles O16: each instruction issues and is done, by what it answers where its checks pass. -/
theorem streamInstructions : Obligations.StreamInstructions := by
  refine ⟨?write, ?read, ?releaseSlot, ?releaseBatch, ?gateRead⟩
  case write =>
    intro s t g stream addr rank rel d i run cv e hi ho ha hk hp hr hsb hc
    change execStreamWrite t g stream addr rank rel s = _
    exact act_issue_done hi (doStreamWrite_sends ho ha hk hp hr hsb hc)
  case read =>
    intro s t g stream dstAddr dstLen rank d i run cv e r k t' more se hi ho hs hda hdl hr hrn hg hq hse
    change execStreamRead t g stream rank dstAddr dstLen s = _
    exact act_issue_done hi (doStreamRead_takes ho hs hda hdl hr hrn hg hq hse)
  case releaseSlot =>
    intro s t g stream sa d i run cv e t' r k se hi ho hs hse hg hat hst
    change execStreamRelease t g stream sa s = _
    exact act_issue_done hi (doStreamRelease_slot ho hs hse hg hat hst)
  case releaseBatch =>
    intro s t g stream sa d i run cv e hi ho hok hg hb
    change execStreamRelease t g stream sa s = _
    exact act_issue_done hi (doStreamRelease_batch ho hok hg hb)
  case gateRead =>
    intro s t g stream dst addr d i run cv e t' se hi ho hs hd hg hb ha hse byRows hopen b hsb
    change execGateRead t g stream addr dst s = _
    exact act_issue_done hi (doGateRead_batch ho hs hd hg hb ha hse hopen hsb)

end Sys2Proof.Proofs
end

section
/-! SUPPORT. Stream events (R63, R64, R66 to R68, R110 to R112, R194): which head packet an ejection channel serves, how it
lands, and what a credit and the end of a hold time let go. -/
namespace Sys2Proof.Proofs
open Sys2Proof Sys2Proof.Machine Sys2Proof.Safety Sys2Proof.Laws

/-! ### The tie rule of R110 -/

theorem le_foldl_max {l : List Nat} {a b : Nat} (h : a ∈ l ∨ a ≤ b) : a ≤ l.foldl max b := by
  induction l generalizing b with
  | nil => simpa using h
  | cons x l ih =>
    refine ih ?_
    rcases h with h | h
    · rcases List.mem_cons.mp h with rfl | h
      · exact Or.inr (le_max_right ..)
      · exact Or.inl h
    · exact Or.inr (le_max_of_le_left h)

/-- The served requester has the highest priority, and of those that have it the least distance from the pointer. -/
theorem arbitrate_first {ptr n i : Nat} {l : List (Nat × Nat)} (h : arbitrate ptr n l = some i) :
    ∃ p, (i, p) ∈ l ∧ ∀ x ∈ l, x.2 ≤ p ∧ (x.2 = p → (i + n - ptr) % n ≤ (x.1 + n - ptr) % n) := by
  unfold arbitrate at h
  obtain ⟨⟨j, p⟩, hhead, rfl⟩ := Option.map_eq_some_iff.mp h
  obtain ⟨hmem, hmin⟩ := sortBy_head hhead
  obtain ⟨hl, htop⟩ := List.mem_filter.mp hmem
  have htop : p = (l.map (·.2)).foldl max 0 := by simpa using htop
  refine ⟨p, hl, fun x hx => ⟨?_, fun hp => hmin x (List.mem_filter.mpr ⟨hx, by simp [hp, htop]⟩)⟩⟩
  rw [htop]
  exact le_foldl_max (Or.inl (List.mem_map_of_mem hx))

/-! ### Landing -/

/-- A head packet with a FREE slot lands in it and wakes the consumer (R63, R68). -/
theorem landPacket_lands {d : Dev} {c t sn prod cons k t' : Nat} {cv : Canvas} {e : StreamEnt} {ep : ConsEp} {p : Packet}
    {se : SeatEnt} (hep : endpointOn d c t cv sn = some (e, cons, ep))
    (hp : headPacket (streamRt d c sn) e ep prod cons = some (p, k)) (hse : seatOfRank cv e.consumer cons = some (t', se)) :
    landPacket d c t cv sn prod =
      let n := tget 0 ep.received prod
      let ep' := { ep with
        slots := tput ep.slots (slotKey prod k) { st := .filled, filledAt := d.tb.now, seq := n },
        order := tmod [] ep.order prod (· ++ [k]), received := tput ep.received prod ((n + 1) % 2 ^ 24),
        rankPtr := (prod + 1) % 256 }
      let d' := modStream { d with ejectPtr := tput d.ejectPtr (4 * t + ep.num % 4) ((ep.num + 1) % 64) } c sn
        fun rt => putCons { rt with packets := rt.packets.erase p } cons ep'
      wakeReaders (sbPutWords d' t (slotAddr se e prod k) p.bytes p.poison) t e.consumer sn := by
  simp only [landPacket, hep, hp, hse]

/-- Settles O17: what the channel serves is landed; the tie rule is `arbitrate_first`; a credit in transit and an open gate
are the conditions that their events test. -/
theorem streamEvents : Obligations.StreamEvents := by
  refine ⟨?arrives, fun _ _ _ _ => arbitrate_first, ?credit, ?hold⟩
  case arrives =>
    intro s tx ty ch heads t c cv sn prod e cons ep p k t' se hr ht hc hcv hsv hep hp hse
    subst ht
    change execPacketArrives tx ty ch heads s = _
    unfold execPacketArrives
    dsimp only
    refine Eq.trans (act_eq hr ?_) (congrArg (after s) (landPacket_lands hep hp hse))
    simp only [hc, hcv, hsv, Option.elim_some]
  case credit =>
    intro s canvas stream prod cons hr hmem
    change execCreditReturns canvas stream prod cons s = _
    have hany : (streamRt s.dev canvas stream).credits.any (fun x => x == (prod, cons)) = true :=
      List.any_eq_true.mpr ⟨_, hmem, beq_self_eq_true _⟩
    exact act_eq hr (if_pos hany)
  case hold =>
    intro s canvas stream cons cv e t se hr hcv he hse hg hh
    change execFillHoldExpires canvas stream cons s = _
    refine act_eq hr ?_
    simp only [hcv, he, hse, hg, hh, beq_self_eq_true, Bool.and_self, if_true]

end Sys2Proof.Proofs
end

section
/-! SUPPORT. Canvas commands and canvas events (R64, R74 to R77, R142, R279, R627): what each command's handler answers where
its checks pass, and what each event does where its condition holds. -/
namespace Sys2Proof.Proofs
open Sys2Proof Sys2Proof.Machine Sys2Proof.Safety Sys2Proof.Laws

/-- A long command that its handler accepts. -/
theorem act_submitAs_long {s : State} {w : Win} {o op hd : Nat} {d1 d2 : Dev} {f : Handler} (hr : runs s)
    (ha : accepted s.dev w o d1 op hd) (hl : nmem o longOpcodes = true)
    (hf : f d1 (windowRecord s.dev w) (some op) = (some stOk, d2)) :
    act s (fun d => submitAs d w o f) = after s (receipted d2 w o hd) :=
  act_eq hr (submitAs_long ha hl hf)

/-! ### Commands -/

section
variable {d : Dev} {w : Win} {r : CmdRec} {c : Canvas}

/-- An image that is read whole and passes every check reserves its canvas (R74, R75). -/
theorem handleCanvasLoad_reserves {d2 d3 : Dev} {l : List Byte} {op : Option Nat} {n : Nat}
    (hb : backed d (r.args.getD 0 0) (r.args.getD 1 0) = true)
    (hl : readWhole (withHue d (coreHue d)) (.core 0) (r.args.getD 0 0) (r.args.getD 1 0) = (d2, some (l, false)))
    (hok : loadCanvas d2 l (r.args.getD 1 0) op = .ok (d3, n)) : handleCanvasLoad d r op = (some stOk, d3) := by
  unfold handleCanvasLoad
  simp only [hb, hl, poisonVerdict, hok, Bool.not_true, Bool.false_eq_true, if_false]

/-- An image that fails a check completes the load with the status of the check (R74). -/
theorem handleCanvasLoad_fails {d2 : Dev} {l : List Byte} {op : Option Nat} {st : Half}
    (hb : backed d (r.args.getD 0 0) (r.args.getD 1 0) = true)
    (hl : readWhole (withHue d (coreHue d)) (.core 0) (r.args.getD 0 0) (r.args.getD 1 0) = (d2, some (l, false)))
    (herr : loadCanvas d2 l (r.args.getD 1 0) op = .error st) :
    handleCanvasLoad d r op = (some stOk, completeOpt d2 op st) := by
  unfold handleCanvasLoad
  simp only [hb, hl, poisonVerdict, herr, Bool.not_true, Bool.false_eq_true, if_false]

theorem handleCanvasStart_arms {op : Option Nat} (hc : canvasOf d (r.args.getD 0 0) = some c) (ho : svcOwned w c = false)
    (hst : c.st = .loaded ∨ c.st = .stopped) (hu : c.unloading = false)
    (ht : r.args.getD 1 0 = 0 ∨ d.tb.now + 4000 ≤ r.args.getD 1 0) :
    handleCanvasStart w d r op = (some stOk, armCanvas d (r.args.getD 0 0)
      (if r.args.getD 1 0 = 0 then d.tb.now + 4000 else r.args.getD 1 0) op) := by
  have hstate : (!(c.st == .loaded || c.st == .stopped) || c.unloading) = false := by
    rcases hst with h | h <;> simp [h, hu]
  have htime : ¬(r.args.getD 1 0 ≠ 0 ∧ r.args.getD 1 0 < d.tb.now + 4000) := by omega
  unfold handleCanvasStart
  simp only [hc, ho, hstate, Bool.and_eq_true, decide_eq_true_eq, htime, Bool.false_eq_true, if_false]

theorem handleCanvasStop_drains {op : Option Nat} (hc : canvasOf d (r.args.getD 0 0) = some c) (ho : svcOwned w c = false)
    (hst : c.st = .running) :
    handleCanvasStop w d r op =
      (some stOk, beginDrain (modCanvas d (r.args.getD 0 0) fun c => { c with stopOp := op }) (r.args.getD 0 0)) := by
  unfold handleCanvasStop
  simp only [hc, ho, hst, bne_self_eq_false, Bool.false_eq_true, if_false]

theorem handleCanvasUnload_begins {op : Option Nat} (hc : canvasOf d (r.args.getD 0 0) = some c) (ho : svcOwned w c = false)
    (hst : c.st = .loaded ∨ c.st = .stopped ∨ c.st = .faulted) (hu : c.unloading = false) :
    handleCanvasUnload w d r op = (some stOk, beginUnload d (r.args.getD 0 0) op) := by
  have hstate : (!(c.st == .loaded || c.st == .stopped || c.st == .faulted) || c.unloading) = false := by
    rcases hst with h | h | h <;> simp [h, hu]
  unfold handleCanvasUnload
  simp only [hc, ho, hstate, Bool.false_eq_true, if_false]

end

/-! ### Events -/

section
variable {d : Dev} {n : Nat} {c : Canvas}

theorem completeLoad_eq (hc : canvasOf d n = some c) (hst : c.st = .loading) (hr : d.creset.active = false)
    (hb : ∀ t ∈ tilesOf d n, blkOn d (quadOf t) = true) :
    completeLoad d n =
      completeOpt (modCanvas (layCanvas d n c) n fun c => { c with st := .loaded, loadOp := none }) c.loadOp stOk n := by
  have hany : ((tilesOf d n).any fun t => !blkOn d (quadOf t)) = false := by simpa using hb
  unfold completeLoad
  simp only [hc, hst, hr, hany, bne_self_eq_false, Bool.or_self, Bool.false_eq_true, if_false]

theorem beginIssue_eq (hc : canvasOf d n = some c) (hst : c.st = .armed) (ht : c.t0 ≤ d.tb.now)
    (hr : d.creset.active = false) : beginIssue d n = modCanvas d n fun c => { c with st := .running } := by
  unfold beginIssue
  simp only [hc, hst, ht, hr, beq_self_eq_true, decide_true, Bool.not_false, Bool.and_self, if_true]

theorem completeDrain_eq (hc : canvasOf d n = some c) (hst : c.st = .draining) (hr : d.creset.active = false)
    (hl : ∀ t ∈ tilesOf d n, hasLeft d t = true) :
    completeDrain d n = modCanvas (completeOpt (completeOpt d c.stopOp stOk) c.startOp stOk) n fun c =>
      { c with st := .stopped, startOp := none, stopOp := none } := by
  have hall : (tilesOf d n).all (hasLeft d) = true := List.all_eq_true.mpr hl
  unfold completeDrain
  simp only [hc, hst, hr, hall, beq_self_eq_true, Bool.not_false, Bool.and_self, if_true]

theorem completeUnload_eq (hc : canvasOf d n = some c) (hu : c.unloading = true) (hr : d.creset.active = false)
    (hx : ∀ x ∈ d.xfers, x.origin ≠ .stage n) : completeUnload d n = completeOpt (freeCanvas d n c) c.unloadOp stOk := by
  have hany : (d.xfers.any fun x => x.origin == .stage n) = false := by simpa using hx
  unfold completeUnload
  simp only [hc, hu, hr, hany, Bool.not_false, Bool.and_self, if_true]

end

/-- Settles O28: each command is accepted by its handler, and each event does what its condition lets it. -/
theorem canvasLife : Obligations.CanvasLife := by
  refine ⟨⟨?load, ?start, ?stop, ?unload⟩, ?loadComplete, ?beginIssue, ?drained, ?unloadComplete⟩
  case load =>
    intro s w d1 op h d2 l hr ha hb hl
    change (∀ d3 n, _ → execCanvasLoad w s = _) ∧ ∀ st, _ → execCanvasLoad w s = _
    exact ⟨fun d3 n hok => act_submitAs_long hr ha rfl (handleCanvasLoad_reserves hb hl hok),
      fun st herr => act_submitAs_long hr ha rfl (handleCanvasLoad_fails hb hl herr)⟩
  case start =>
    intro s w d1 op h c hr ha hc ho hst hu ht
    change execCanvasStart w s = _
    exact act_submitAs_long hr ha rfl (handleCanvasStart_arms hc ho hst hu ht)
  case stop =>
    intro s w d1 op h c hr ha hc ho hst
    change execCanvasStop w s = _
    exact act_submitAs_long hr ha rfl (handleCanvasStop_drains hc ho hst)
  case unload =>
    intro s w d1 op h c hr ha hc ho hst hu
    change execCanvasUnload w s = _
    exact act_submitAs_long hr ha rfl (handleCanvasUnload_begins hc ho hst hu)
  case loadComplete =>
    intro s n c hr hc hst hrs hb
    change execCanvasLoadComplete n s = _
    exact act_eq hr (congrArg moveSvcs (completeLoad_eq hc hst hrs hb))
  case beginIssue =>
    intro s n c hr hc hst ht hrs
    change execCanvasBeginIssue n s = _
    exact act_eq hr (congrArg moveSvcs (beginIssue_eq hc hst ht hrs))
  case drained =>
    intro s n c hr hc hst hrs hl
    change execCanvasDrained n s = _
    exact act_eq hr (congrArg moveSvcs (completeDrain_eq hc hst hrs hl))
  case unloadComplete =>
    intro s n c hr hc hu hrs hx
    change execCanvasUnloadComplete n s = _
    exact act_eq hr (congrArg (moveSvcs ∘ forgetCanvas) (completeUnload_eq hc hu hrs hx))

end Sys2Proof.Proofs
end

section
/-! SUPPORT. Sitting switches (R77 to R86, R145, R146, R190, R191): how a switch starts, what follows a save, and how a restore
ends. -/
namespace Sys2Proof.Proofs
open Sys2Proof Sys2Proof.Machine Sys2Proof.Safety Sys2Proof.Laws

/-! ### The rotation cue -/

/-- A rotation cue that is due fires and, at a seated seat that no switch has hold of, asks for the switch (R77, R83). -/
theorem fireRotation_eq {d : Dev} {t n : Nat} {c : Canvas} (hn : (tileOf d t).canvas = some n) (hc : canvasOf d n = some c)
    (hst : c.st = .running) (ha : (tileOf d t).rotArmed = true) (hdue : (tileOf d t).nextDue ≤ unitNow d (.tile t))
    (hfirst : stageCueFirst d t (tileOf d t).nextDue = false) :
    fireRotation d t =
      let d' := modTile (noteFire d (rotationCue t (tileOf d t))) t fun x =>
        { x with rotArmed := false, pendingSw := [((tileOf d t).nextOrder, (tileOf d t).nextDue)] }
      if (curSeat d' t).any (fun k => k.2.st == .seated) && (tileOf d t).sw == .none then askSwitch d' t else d' := by
  have hfires : (c.st == .running && (tileOf d t).rotArmed && decide ((tileOf d t).nextDue ≤ unitNow d (.tile t)) &&
      !stageCueFirst d t (tileOf d t).nextDue) = true := by
    simp [hst, ha, hdue, hfirst]
  unfold fireRotation
  simp only [hn, Option.bind_some, hc, hfires, if_true]
  cases curSeat _ t <;> simp

/-! ### What follows a save -/

section
variable {s : State} {t k : Nat} {st : Seat} {cv : Canvas} {d1 d : Dev}
variable (hr : runs s) (hk : curSeat s.dev t = some (k, st)) (hsw : (tileOf s.dev t).sw = .saving) (hst : st.st = .saving)
  (hcut : cutOff s.dev t = false) (hcv : canvasOf s.dev st.canvas = some cv)
  (hstore : storeImage s.dev cv t { st with saved := none } = (d1, true))
  (hd : modSeat d1 t k (fun x => { x with st := .parked, saved := none }) = d)
include hr hk hsw hst hcut hcv hstore hd

/-- With a switch pending, the saved seat is parked and the next one restored (R81, R82). -/
theorem saveDone_restores {o due : Nat} {more : List (Nat × Nat)} (hl : (tileOf d t).leaving = false)
    (hp : (tileOf d t).pendingSw = (o, due) :: more) : execSaveDone t s = after s (beginRestore d t o) := by
  have hsaving : (!((tileOf s.dev t).sw == .saving && st.st == .saving)) = false := by simp [hsw, hst]
  refine act_eq hr ?_
  simp only [hk, hsaving, hcut, hcv, hstore, hd, hl, hp, Bool.not_true, Bool.false_eq_true, if_false]

/-- Where the canvas leaves or nothing is pending, the saved seat is parked and none follows (R75, R86). -/
theorem saveDone_empties (h : (tileOf d t).leaving = true ∨ (tileOf d t).pendingSw = []) :
    execSaveDone t s = after s (modTile d t fun tl => { tl with sw := .none, leaving := false, pendingSw := [] }) := by
  have hsaving : (!((tileOf s.dev t).sw == .saving && st.st == .saving)) = false := by simp [hsw, hst]
  refine act_eq hr ?_
  simp only [hk, hsaving, hcut, hcv, hstore, hd, Bool.not_true, Bool.false_eq_true, if_false]
  rcases h with h | h
  · rw [h]
  · rw [h]; cases (tileOf d t).leaving <;> rfl

end

/-! ### How a restore ends -/

theorem restoreDone_eq {s : State} {t k : Nat} {st : Seat} {cv : Canvas} (hr : runs s) (hk : curSeat s.dev t = some (k, st))
    (hsw : (tileOf s.dev t).sw = .restoring) (hst : st.st = .restoring) (hcv : canvasOf s.dev st.canvas = some cv) :
    execRestoreDone t s = after s (endRestore s.dev t k st cv) := by
  refine act_eq hr ?_
  simp only [hk, hsw, hst, hcv, beq_self_eq_true, Bool.and_self, Bool.not_true, Bool.false_eq_true, if_false]

section
variable {d d1 d2 d3 : Dev} {t k : Nat} {st : Seat} {cv : Canvas} {ws ws' : List (DWord × Bool)}

theorem endRestore_intact (h : seatIntact d t st = true) :
    endRestore d t k st cv = resumeSeat (restoreSeat d t k st) t k st := if_pos h

variable (hi : seatIntact d t st = false) (hs : storedImage d cv t st = (d1, some ws)) (hl : lostWords d1 t ws = (d2, ws'))
include hi hs hl

/-- An image that passes its checks is what the seat goes on with (R82, R145). -/
theorem endRestore_image {x : Ctx} (hx : contextOf d2 cv t st ws' = (d3, .ok x)) :
    endRestore d t k st cv = resumeSeat (restoreSeat d3 t k { st with ctx := x }) t k st := by
  simp only [endRestore, hi, hs, hl, hx, Bool.false_eq_true, if_false]

/-- An image that fails a check faults the canvas with the status of the check (R146). -/
theorem endRestore_fails {f : Half} (hf : contextOf d2 cv t st ws' = (d3, .error f)) :
    endRestore d t k st cv = stageFault d3 t 0 f 0 0 := by
  simp only [endRestore, hi, hs, hl, hf, Bool.false_eq_true, if_false]

end

/-- Settles O29: each event meets its condition and does its effect; the rotation cue, the save and the restore by their
own lemmas. -/
theorem switches : Obligations.Switches := by
  refine ⟨⟨?rotation, ?minSeat, ?yield, ?prefetch⟩, ?point, ?saved, ?saveLost, ?restored⟩
  case rotation =>
    intro s t n c hr hn hc hst ha hdue hfirst
    change execSittingSwitch t s = _
    exact act_eq hr (fireRotation_eq hn hc hst ha hdue hfirst)
  case minSeat =>
    intro s t k st hr hk hst hi hm
    change execMinSeatElapsed t s = _
    refine act_eq hr ?_
    simp [hk, hst, hi, hm]
  case yield =>
    intro s t hr hsw
    change execYieldWindowExpires t s = _
    exact act_eq hr (if_pos (by rw [hsw]; rfl))
  case prefetch =>
    intro s t order st n c due hr hs hn hc hrun hst hp hcome hdue
    change execSeatPrefetchStart t order s = _
    refine act_eq hr ?_
    have hstarts : ((c.st == .running || c.st == .armed) && st.st == .parked && !st.prefetched &&
        (comingDue (tileOf s.dev t) c.period order).any fun due => decide (due ≤ unitNow s.dev (.tile t) + st.lead)) = true := by
      rcases hrun with h | h <;> simp [h, hst, hp, hcome, hdue]
    simp only [hs, hn, Option.bind_some, hc, hstarts, if_true]
  case point =>
    intro s t k st hr hk hsw hst
    change execSwitchPoint t s = _
    refine act_eq hr ?_
    simp only [hk, hsw, hst, beq_self_eq_true, Bool.and_self, if_true]
  case saved =>
    intro s t k st cv d1 hr hk hsw hst hcut hcv hstore
    exact ⟨fun _ _ _ hl hp => saveDone_restores hr hk hsw hst hcut hcv hstore rfl hl hp,
      saveDone_empties hr hk hsw hst hcut hcv hstore rfl⟩
  case saveLost =>
    intro s t k st hr hk hsw hst hcut
    change execSaveDone t s = _
    refine act_eq hr ?_
    simp only [hk, hsw, hst, hcut, beq_self_eq_true, Bool.and_self, Bool.not_true, Bool.false_eq_true, if_false, if_true]
  case restored =>
    intro s t k st cv hr hk hsw hst hcv
    change (_ → execRestoreDone t s = _) ∧ ∀ d1 ws d2 ws' d3, _ → _ → _ → (∀ x, _ → execRestoreDone t s = _) ∧
      ∀ f, _ → execRestoreDone t s = _
    rw [restoreDone_eq hr hk hsw hst hcv]
    exact ⟨fun hi => congrArg (after s) (endRestore_intact hi), fun d1 ws d2 ws' d3 hi hs hl =>
      ⟨fun x hx => congrArg (after s) (endRestore_image hi hs hl hx),
        fun f hf => congrArg (after s) (endRestore_fails hi hs hl hf)⟩⟩

end Sys2Proof.Proofs
end

section
/-! SUPPORT. The clock (R90, R91): what one tick leaves of the time base and of the commands that wait, the counter's course
over one span of a slew, and how far its copies stand apart. -/
namespace Sys2Proof.Proofs
open Sys2Proof Sys2Proof.Machine Sys2Proof.Safety Sys2Proof.Laws

/-! ### What a tick leaves -/

/-- What running on takes: the phase, the commands that wait, and the counter of the time base. -/
def clockView (d : Dev) : Phase × List Instr × Nat := (d.phase, d.waits, d.tb.now)

/-- What leaves `rest` as it was leaves the clock as it was. -/
theorem clockView_of_rest {d e : Dev} (h : rest e = rest d) : clockView e = clockView d :=
  show clockView (rest e) = clockView (rest d) from congrArg clockView h

@[simp] theorem clockView_settle (d : Dev) : clockView (settle d) = clockView d := clockView_of_rest (rest_settle d)

@[simp] theorem clockView_rollWindow (d : Dev) : clockView (rollWindow d) = clockView d :=
  clockView_of_rest (rest_rollWindow d)

@[simp] theorem clockView_stepRail (d : Dev) (r : Rail) : clockView (stepRail d r) = clockView d := by
  obtain ⟨q, o, h⟩ := stepRail_frame d r
  rw [h]; rfl

@[simp] theorem clockView_stepRails (d : Dev) : clockView (stepRails d) = clockView d := by simp [stepRails]

@[simp] theorem clockView_ppsFall (d : Dev) : clockView (ppsFall d) = clockView d := by unfold ppsFall; split <;> rfl

theorem rest_obsOverrange (d : Dev) (x : Nat) : rest (obsOverrange d x).2 = rest d := by
  unfold obsOverrange
  split
  · rfl
  · dsimp only
    split
    · rfl
    · split <;> rfl

@[simp] theorem clockView_observe (d : Dev) : clockView (observe d) = clockView d := by
  refine clockView_of_rest ?_
  unfold observe
  dsimp only
  split
  · rw [rest_regSetBit, rest_obsOverrange]
  · exact rest_obsOverrange ..

/-- The counter moves by `tickTime`, whether or not its copies turn with it. -/
@[simp] theorem clockView_tickCount (d : Dev) : clockView (tickCount d) = (d.phase, d.waits, (tickTime d.tb).now) := by
  unfold tickCount; dsimp only; split <;> rfl

/-- In a device that runs, a tick moves the counter and leaves the phase and the commands that wait. -/
theorem clockView_tick {d : Dev} (h : halted d = false) : clockView (tick d) = (d.phase, d.waits, (tickTime d.tb).now) := by
  obtain ⟨hcold, hshut⟩ : (d.phase == .coldHold) = false ∧ (d.phase == .shutdown) = false := Bool.or_eq_false_iff.mp h
  have htiles (e : Dev) (l : Tab Tile) : clockView { e with tiles := l } = clockView e := rfl
  unfold tick
  simp only [hcold, hshut, Bool.false_eq_true, if_false, clockView_settle, clockView_observe, clockView_ppsFall,
    clockView_stepRails, clockView_rollWindow, htiles, clockView_tickCount]

/-! ### A step on an empty queue -/

section
variable {s : State} (hp : s.pending = []) (hh : halted (tick s.dev) = false)
  (hw : (tick s.dev).waits = s.dev.waits)
include hp hw

theorem step_idle (hn : s.dev.waits = []) : step s = .next { s with dev := tick s.dev } := by
  unfold step idle retry
  simp only [hp, hw, hn]

include hh

theorem step_idle_waiting {c : Instr} {more : List Instr} (hc : s.dev.waits = c :: more) :
    step s = exec c { s with dev := { tick s.dev with waits := more } } := by
  unfold step idle retry
  simp only [hp, hw, hc, hh, Bool.false_eq_true, if_false]

end

/-! ### The copies -/

/-- A copy shows the master's value, or the one before or after it, by whether the copies run ahead (R90). -/
theorem copyAt_eq {tb : TimeBase} (h0 : 0 < tb.now) (h1 : tb.now < 2 ^ 64 - 1) (k : Nat) :
    copyAt tb k = tb.now - 1 + tb.ahead.toNat + (copyLater tb k).toNat := by
  have ha := Bool.toNat_le tb.ahead
  have hl := Bool.toNat_le (copyLater tb k)
  unfold copyAt
  omega

theorem copyAt_le_succ {tb : TimeBase} (h0 : 0 < tb.now) (h1 : tb.now < 2 ^ 64 - 1) (j k : Nat) :
    copyAt tb j ≤ copyAt tb k + 1 := by
  rw [copyAt_eq h0 h1, copyAt_eq h0 h1]
  have hj := Bool.toNat_le (copyLater tb j)
  omega

/-! ### One span -/

theorem iter_succ_right {α : Type} (f : α → α) (n : Nat) (x : α) : iter f (n + 1) x = f (iter f n x) := by
  induction n generalizing x with
  | zero => rfl
  | succ n ih => exact ih (f x)

/-- A clock without a correction counts one tick at a time. -/
theorem iter_tickTime_steady {tb : TimeBase} (hs : tb.slew = 0) (hp : tb.spanPos = 0) {n : Nat} (hn : tb.now + n < 2 ^ 64) :
    iter tickTime n tb = { tb with now := tb.now + n } := by
  induction n with
  | zero => rfl
  | succ n ih =>
    rw [iter_succ_right, ih (by omega)]
    simp only [tickTime, hs, if_true, hp, Nat.add_assoc, Nat.mod_eq_of_lt hn]

/-- Up to the last tick of a span a clock that is corrected counts one tick at a time too. -/
theorem iter_tickTime_within {tb : TimeBase} (hs : tb.slew ≠ 0) (hp : tb.spanPos = 0) {n : Nat} (hn : n < slewSpan)
    (hnow : tb.now + n < 2 ^ 64) : iter tickTime n tb = { tb with now := tb.now + n, spanPos := n } := by
  induction n with
  | zero =>
    change tb = { tb with spanPos := 0 }
    rw [← hp]
  | succ n ih =>
    rw [iter_succ_right, ih (by omega) (by omega)]
    simp only [tickTime, hs, hn, if_true, if_false, Nat.add_assoc, Nat.mod_eq_of_lt hnow]

/-- The last tick of a span takes the correction's tick (R91). -/
theorem iter_tickTime_span {tb : TimeBase} (hs : tb.slew ≠ 0) (hp : tb.spanPos = 0) (hnow : tb.now + 4097 < 2 ^ 64) :
    iter tickTime 4096 tb =
      if tb.slew > 0 then { tb with now := tb.now + 4097, spanPos := 0, slew := tb.slew - 1 }
      else { tb with now := tb.now + 4095, spanPos := 0, slew := tb.slew + 1 } := by
  have hlt : (tb.now + 4095 + 2) % 2 ^ 64 = tb.now + 4097 := Nat.mod_eq_of_lt (by omega)
  rw [iter_succ_right, iter_tickTime_within hs hp (by decide) (by omega)]
  simp only [tickTime, hs, hlt, Nat.reduceAdd, Nat.lt_irrefl, if_false]

/-- Settles O7: the step by `clockView_tick`, the copies by `copyAt_eq`, a span by its last tick. -/
theorem clockTicks : Obligations.ClockTicks := by
  refine ⟨?step, fun tb j k h0 h1 => copyAt_le_succ h0 h1 j k, ?span⟩
  case step =>
    intro s hr hp
    have hview : clockView (tick s.dev) = (s.dev.phase, s.dev.waits, (tickTime s.dev.tb).now) := clockView_tick hr
    have ⟨hphase, hw, hnow⟩ : (tick s.dev).phase = s.dev.phase ∧ (tick s.dev).waits = s.dev.waits ∧
        (tick s.dev).tb.now = (tickTime s.dev.tb).now := by simpa [clockView] using hview
    have hh : halted (tick s.dev) = false := by rw [halted, hphase]; exact hr
    exact ⟨hnow, hw, step_idle hp hw, fun c more hc => step_idle_waiting hp hh hw hc⟩
  case span =>
    intro tb hp hnow
    refine ⟨fun hs => ?_, fun hs => ?_, fun hs => ?_⟩
    · rw [iter_tickTime_steady hs hp (by omega)]
      exact ⟨rfl, hs⟩
    · rw [iter_tickTime_span (by omega) hp hnow, if_pos hs]
      exact ⟨rfl, rfl, rfl⟩
    · rw [iter_tickTime_span (by omega) hp hnow, if_neg (by omega)]
      exact ⟨rfl, rfl, rfl⟩

end Sys2Proof.Proofs
end

section
/-! SUPPORT. The time base (R91 to R99): its events where their conditions hold, and its registers. -/
namespace Sys2Proof.Proofs
open Sys2Proof Sys2Proof.Machine Sys2Proof.Safety Sys2Proof.Laws

/-! ### Events -/

section
variable {d : Dev}

theorem loseReference_eq (hrole : tbRole d ≠ 0) (hh : regBit d .tbStatus [] 6 = false) :
    loseReference d = logErr (regSetBit d .tbStatus [] 6) stTbHoldover ukStem 0 3 :=
  if_neg (by simp [hrole, hh])

theorem returnReference_eq (hh : regBit d .tbStatus [] 6 = true) (ref : Nat) :
    returnReference d ref = regClearBit (correctTo d ref) .tbStatus [] 6 := if_pos hh

/-! ### Registers -/

/-- A read of the high half answers the requester's latch where there is one (R97). -/
theorem readTbNow_hi (r : Req) :
    readTbNow d r .hi = emit (setLatch d r none) (.regRead r (regOff .tbNow [] + 4)
      (BitVec.ofNat 64 ((latchOf d r).elim (d.tb.now % 2 ^ 64 / 2 ^ 32) fun x => x.toNat))) := by
  unfold readTbNow
  cases latchOf d r <;> rfl

/-- A value with an assigned role and port is stored; a new role begins anew (R92, R99). -/
theorem writeTbConfig_eq {off bytes : Nat} {v : DWord} {t : RegDef} {ix : List Nat} (hw : writable d off bytes v t ix)
    (hrole : bits (written d t ix off bytes v) 2 0 < 3) (hport : bits (written d t ix off bytes v) 15 8 < 64) (r : Req) :
    writeTbConfig d r off bytes v =
      let e := regPut d .tbConfig [] (written d t ix off bytes v)
      if bits (written d t ix off bytes v) 2 0 = tbRole d then e else setRole e (bits (written d t ix off bytes v) 2 0) := by
  have hassigned : ¬(decide (bits (written d t ix off bytes v) 2 0 ≥ 3) ||
      decide (bits (written d t ix off bytes v) 15 8 ≥ 64)) = true := by simp [hrole, hport]
  unfold writeTbConfig
  rw [withWrite_eq hw]
  exact if_neg hassigned

end

/-- Settles O31: each event meets its condition, each register access its rule. -/
theorem timeBase : Obligations.TimeBase := by
  refine ⟨⟨?firstLock, ?lost, ?returned, ?pps, ?slewEnd, ?ppsOut⟩, ?full, ?lo, ?hi, ?config⟩
  case firstLock =>
    intro s ref hr hrole hlock
    change execTbFirstLock ref s = _
    exact act_eq hr (if_neg (by simp [hrole, hlock]))
  case lost =>
    intro s hr hrole hh
    change execReferenceLost s = _
    exact act_eq hr (loseReference_eq hrole hh)
  case returned =>
    intro s ref hr hh
    change execReferenceReturns ref s = _
    exact act_eq hr (returnReference_eq hh ref.toNat)
  case pps =>
    intro s hr hrole hlock hh
    change execPpsInEdge s = _
    exact act_eq hr (if_pos (by simp [hrole, hlock, hh]))
  case slewEnd =>
    intro s hr hslew hb
    change execSlewEnd s = _
    exact act_eq hr (if_pos (by simp [hslew, hb]))
  case ppsOut =>
    intro s hr hen hnow hlow
    change execPpsOutPulse s = _
    exact act_eq hr (if_pos (by simp [hen, hnow, hlow]))
  case full =>
    intro s r hr
    change execTbNowRead r .full s = _
    exact act_eq hr rfl
  case lo =>
    intro s r hr
    change execTbNowRead r .lo s = _
    exact act_eq hr rfl
  case hi =>
    intro s r hr
    change execTbNowRead r .hi s = _
    exact act_eq hr (readTbNow_hi r)
  case config =>
    intro s r off bytes v t ix hr hw hoff hrole hport
    change execTbConfigWrite r off bytes v s = _
    exact act_eq hr ((if_pos hoff).trans (writeTbConfig_eq hw hrole hport r))

end Sys2Proof.Proofs
end

section
/-! SUPPORT. Cues (R102 to R109): arming and cancelling by the port, by records and by instructions, and what a cue does as it
fires. -/
namespace Sys2Proof.Proofs
open Sys2Proof Sys2Proof.Machine Sys2Proof.Safety Sys2Proof.Laws

/-! ### Arming and cancelling -/

/-- A record that passes the checks, of an action other than MOVER_START, is stored under its unit (R103). -/
theorem storeCue_ok {d : Dev} {c : CueWords} {u : CueUnit} (hc : cueChecks d c = .ok u) (ha : c.action ≠ actMoverStart) :
    storeCue d c = (putCue d (cueOf d u c none), some stOk) := by
  have hmove : (c.action == actMoverStart) = false := by simpa using ha
  unfold storeCue
  rw [hc, hmove]
  cases u <;> rfl

/-- The cue that is stored stands last, and fires at once where its DUE is past (R104). -/
theorem armCue_ok {d : Dev} {c : CueWords} {u : CueUnit} (hc : cueChecks d c = .ok u) (ha : c.action ≠ actMoverStart) :
    armCue d c = (if c.w1 < unitNow d u then fireCue (putCue d (cueOf d u c none)) (cueOf d u c none)
      else putCue d (cueOf d u c none), some stOk) := by
  have hlast : (putCue d (cueOf d u c none)).cues.getLast? = some (cueOf d u c none) := List.getLast?_concat
  have hpast : (cueOf d u c none).past = decide (c.w1 < unitNow d u) := rfl
  unfold armCue
  simp only [storeCue_ok hc ha, hlast, hpast, if_true, Option.elim_some, decide_eq_true_eq]

/-- A cue that its unit does not fire next does not fire in this tick (R105). -/
theorem firesNow_other {d : Dev} {c : Cue} (h : nextCue d c.unit ≠ some c) : firesNow d c = (false, d) :=
  if_pos (bne_iff_ne.mpr h)

/-- An armed cue that does not fire next is freed by its cancelling (R106). -/
theorem cancelCue_frees {d : Dev} {kind x y stage tag : Nat} {u : CueUnit} {c : Cue} (hu : cueUnit kind x y = some u)
    (hreset : (d.creset.active && tileUnit u) = false) (hab : unitAbsent d u = false)
    (hf : ((cuesOf d u).find? fun q => q.stage == stage && q.tag == tag && !q.pending) = some c)
    (hn : nextCue d c.unit ≠ some c) : cancelCue d kind x y stage tag = (stOk, removeCue (dropReserved d c) c) := by
  unfold cancelCue
  simp only [hu, hreset, hab, hf, firesNow_other hn, Bool.false_eq_true, if_false]

/-! ### The cue port -/

section
variable {d : Dev} {bytes : Nat} {v : DWord} {t : RegDef} {ix : List Nat}

theorem writeCueGo_eq (hw : writable d (regOff .cueGo []) bytes v t ix) (r : Req) :
    writeCueGo d r bytes v = cueGo d r (accessValue (regOff .cueGo []) bytes v) := withWrite_eq hw r _

theorem cueGo_arms {e : Dev} {val : Nat} {st : Half} (hv : bits val 1 0 = 1) (ha : armCue d (portWords d) = (e, some st))
    (r : Req) : cueGo d r val = putCueResult e st := by
  unfold cueGo
  rw [if_pos hv, ha]

theorem cueGo_cancels {val : Nat} (hv : bits val 1 0 = 2) (r : Req) :
    cueGo d r val =
      let c := portWords d
      let x := cancelCue d c.kind c.x c.y c.stage c.tag
      putCueResult x.2 x.1 := by
  unfold cueGo
  rw [if_neg (by omega), if_pos hv]

theorem cueGo_rejects {val : Nat} (hv : bits val 1 0 = 0 ∨ bits val 1 0 = 3) (r : Req) :
    cueGo d r val = putCueResult d stCueAction := by
  unfold cueGo
  rw [if_neg (by omega), if_neg (by omega)]

/-- A write that is not of ARM alone is CUE_GO_CANCEL's. -/
theorem exec_cueGoCancel {s : State} (hr : runs s) (hw : writable s.dev (regOff .cueGo []) bytes v t ix)
    (hv : (bitAt v.toNat 0 && !bitAt v.toNat 1) = false) (r : Req) :
    exec (.cueGoCancel r bytes v) s = after s (cueGo s.dev r (accessValue (regOff .cueGo []) bytes v)) := by
  change execCueGoCancel r bytes v s = _
  exact act_eq hr ((if_neg (by simp [hv])).trans (writeCueGo_eq hw r))

end

/-! ### Command records -/

/-- A short command that its handler accepts. -/
theorem act_submitAs_short {s : State} {w : Win} {o : Nat} {e : Dev} {f : Handler} (hr : runs s) (hok : recordOk s.dev w o)
    (hl : nmem o longOpcodes = false) (hf : f s.dev (windowRecord s.dev w) none = (some stOk, e)) :
    act s (fun d => submitAs d w o f) = after s (receipted e w o 0) :=
  act_eq hr (submitAs_short hok hl hf)

/-- The record's words are the cue's (R447). -/
theorem handleCueArm_eq {d e : Dev} {w : Win} {st : Half} {op : Option Nat}
    (ha : armCue d { w0 := argOf d w 0, w1 := argOf d w 1, w2 := argOf d w 2, w3 := argOf d w 3 } = (e, some st)) :
    handleCueArm d (windowRecord d w) op = (some st, e) := by
  unfold argOf at ha
  unfold handleCueArm
  simp only [ha]

theorem handleCueCancel_eq {d e : Dev} {w : Win} {st : Half} {op : Option Nat}
    (hc : cancelCue d (bits (argOf d w 0) 7 0) (bits (argOf d w 0) 15 8) (bits (argOf d w 0) 23 16)
      (bits (argOf d w 0) 63 48) (bits (argOf d w 0) 47 32) = (st, e)) :
    handleCueCancel d (windowRecord d w) op = (some st, e) := by
  have harg : (windowRecord d w).args.headD 0 = argOf d w 0 := by
    rw [argOf, List.headD_eq_getD]
  unfold handleCueCancel
  simp only [harg, hc]

/-! ### Firing -/

section
variable {d : Dev} {t k : Nat} {c : Cue} {st : Seat} (hs : seatOfStage d t c.stage = some (k, st))
include hs

/-- Where its stage is seated, a STEP_START adds to its release line (R102). -/
theorem fireStep_seated (hst : st.st = .seated) (hcur : (tileOf d t).cur = some k) :
    fireStep d t c = modCtx (takeCue d c) t k fun x => releaseLine x (c.arg.toNat % 16) := by
  unfold fireStep
  simp only [hs, hst, hcur, beq_self_eq_true, Bool.and_self, if_true]

/-- Elsewhere it waits pending in its entry (R107). -/
theorem fireStep_pending (h : st.st ≠ .seated ∨ (tileOf d t).cur ≠ some k) :
    fireStep d t c = { moveCuePtr d c with
      cues := lmod (fun q => q.unit == c.unit && q.entry == c.entry) (fun q => { q with pending := true }) d.cues } := by
  have hidle : (st.st == .seated && (tileOf d t).cur == some k) = false := by
    rcases h with h | h <;> simp [h]
  unfold fireStep
  simp only [hs, hidle, Bool.false_eq_true, if_false]

end

theorem exec_stepStartFires {s : State} {t : Nat} {c : Cue} (hr : runs s) (hn : nextCue s.dev (.tile t) = some c) :
    exec (.stepStartFires t) s = after s (fireStep s.dev t c) := by
  change execStepStartFires t s = _
  exact act_eq hr (by rw [hn, Option.elim_some])

/-- The entry that a cue opens was ARMED, so nothing is logged (R425). -/
theorem fireColl_opens {d e : Dev} {r : Nat} {c : Cue}
    (ho : openColl (takeCue d c) r (c.arg.toNat % 65536) = (e, true)) : fireColl d r c = e := by
  unfold fireColl
  simp only [ho, if_true]

/-- Settles O32: the port and the records by what arming and cancelling answer, the cues that fire by their units. -/
theorem cues : Obligations.Cues := by
  refine ⟨⟨?goArm, ?goCancel, ?goRejects, ?arm, ?cancel, ?armed, ?freed⟩, ?step, ?coll, ?sample⟩
  case goArm =>
    intro s r bytes v t ix d st hr hw hbit hv ha
    change execCueGoArm r bytes v s = _
    exact act_eq hr ((if_pos hbit).trans ((writeCueGo_eq hw r).trans (cueGo_arms hv ha r)))
  case goCancel =>
    intro s r bytes v t ix hr hw hbit hv
    rw [exec_cueGoCancel hr hw (by simp [hbit]) r, cueGo_cancels hv]
  case goRejects =>
    intro s r bytes v t ix hr hw hbit hv
    rw [exec_cueGoCancel hr hw (by simp [hbit]) r, cueGo_rejects hv]
  case arm =>
    intro s w d hr hok ha
    change execCueArm w s = _
    exact act_submitAs_short hr hok rfl (handleCueArm_eq ha)
  case cancel =>
    intro s w d hr hok a hc
    change execCueCancel w s = _
    exact act_submitAs_short hr hok rfl (handleCueCancel_eq hc)
  case armed => exact fun d c u hc ha => armCue_ok hc ha
  case freed => exact fun d kind x y stage tag u c hu hreset hab hf hn => cancelCue_frees hu hreset hab hf hn
  case step =>
    intro s t c k st hr hn hs
    rw [exec_stepStartFires hr hn]
    exact ⟨fun hst hcur => congrArg (after s) (fireStep_seated hs hst hcur),
      fun h => congrArg (after s) (fireStep_pending hs h)⟩
  case coll =>
    intro s r c d hr hn hact ho
    change execCollectiveOpenFires r s = _
    refine act_eq hr ?_
    simp only [hn, hact, ne_eq, not_true_eq_false, if_false]
    exact fireColl_opens ho
  case sample =>
    intro s x c hr hn
    change execTelemetrySampleFires x s = _
    exact act_eq hr (by rw [hn, Option.elim_some, fireSample])

end Sys2Proof.Proofs
end

section
/-! SUPPORT. Cue instructions (R103, R106, R109): what each of them answers at issue where its operands are readable. -/
namespace Sys2Proof.Proofs
open Sys2Proof Sys2Proof.Machine Sys2Proof.Safety Sys2Proof.Laws

section
variable {d : Dev} {i : Iss}

/-- CUE.ARM arms the record that it reads at an aligned place of its seat's stage buffer (R103). -/
theorem doCueArm_arms {dst : Nat} {addr : Opnd} {e : Dev} {st : Half} (hd : dst < 64) (ha : readable i [addr] [i.low])
    (hal : val i addr % 32 = 0) (hsb : sbOk i.seat (val i addr) 32 = true)
    (harm : let r := sbRead d i.t (val i addr) 32
      armCue r.1 { w0 := leAt r.2.1 0 8, w1 := leAt r.2.1 8 8, w2 := leAt r.2.1 16 8, w3 := leAt r.2.1 24 8 } =
        (e, some st)) :
    doCueArm dst addr d i = .done (writeAll e i (.reg dst) st.toNat) := by
  obtain ⟨hok, hcons⟩ := ha
  have hform : (dstOk (.reg dst) && opndOk addr) = true := by simpa [dstOk, hd] using hok
  unfold val at hal hsb harm
  unfold doCueArm
  simp only [hform, hcons, hal, hsb, harm, guardOk_true, orFault_none, ne_eq, not_true_eq_false, Bool.not_true,
    Bool.false_eq_true, if_false]

/-- CUE.CANCEL returns the status of cancelling (R106). -/
theorem doCueCancel_cancels {dst : Nat} {kind x y tag : Opnd} (hd : dst < 64)
    (ha : readable i [kind, x, y, tag] [i.low]) :
    doCueCancel dst kind x y tag d i =
      let r := cancelCue d (val i kind) (val i x) (val i y) (if val i kind = 0 then i.seat.stage else 0)
        (val i tag % 65536)
      .done (writeAll r.2 i (.reg dst) r.1.toNat) := by
  obtain ⟨hok, hcons⟩ := ha
  have hform : (dstOk (.reg dst) && [kind, x, y, tag].all opndOk) = true := by simp only [dstOk, hd, hok]; rfl
  unfold doCueCancel
  rw [hform, hcons]
  rfl

/-- CUE.WAIT consumes one release where the line's count exceeds what its group consumed; at any other count its lanes wait
for the line (R109). -/
theorem doCueWait_eq {line : Opnd} (ha : readable i [line] [i.low]) (hn : val i line ≤ 15) :
    doCueWait line d i =
      if tget 0 i.seat.ctx.release (val i line) > tget 0 i.seat.ctx.consumed (16 * i.g + val i line) then
        .done (modCtx d i.t i.key fun c => { c with
          consumed := tmod 0 c.consumed (16 * i.g + val i line) fun x => (x + 1) % 2 ^ 32 })
      else .stay (blocked d i (.cue (val i line))) := by
  obtain ⟨hok, hcons⟩ := ha
  have hform : opndOk line = true := by simpa using hok
  unfold doCueWait
  rw [hform, hcons, guardOk_true, orFault_none]
  exact if_neg (Nat.not_lt.mpr hn)

end

/-- Settles O20: each instruction issues, and goes on or stays by what it answers. -/
theorem cueInstructions : Obligations.CueInstructions := by
  refine ⟨?arm, ?cancel, ?wait⟩
  case arm =>
    intro s t g dst addr d i run d' st hi hd ha hal hsb r harm
    change execCueArmInstr t g dst addr s = _
    exact act_issue_done hi (doCueArm_arms hd ha hal hsb harm)
  case cancel =>
    intro s t g dst kind x y tag d i run hi hd ha
    change execCueCancelInstr t g dst kind x y tag s = _
    exact act_issue_done hi (doCueCancel_cancels hd ha)
  case wait =>
    intro s t g line d i run hi ha hn
    change execCueWait t g line s = _
    have hanswer := doCueWait_eq (d := d) ha hn
    split
    case isTrue h => exact act_issue_done hi (hanswer.trans (if_pos h))
    case isFalse h =>
      obtain ⟨hr, hissue⟩ := hi
      exact act_eq hr (issue_stay hissue (hanswer.trans (if_neg h)))

end Sys2Proof.Proofs
end

section
/-! SUPPORT. Step control and barriers (R117 to R119, R134 to R137): what each of these instructions answers at issue where its
checks pass, and what its event needs for the next step and for a timeout. -/
namespace Sys2Proof.Proofs
open Sys2Proof Sys2Proof.Machine Sys2Proof.Safety Sys2Proof.Laws

/-- A stage instruction whose lanes stay at it. -/
theorem act_issue_stay {s : State} {d d2 : Dev} {t g run : Nat} {ups : List Upset} {i : Iss} {f : Dev → Iss → Issued}
    (h : issues s t g ups d i run) (hf : f d i = .stay d2) :
    act s (fun x => issue x t g ups f) = after s (stayed d2 i run) := by
  obtain ⟨hr, hi⟩ := h
  exact act_eq hr (issue_stay hi hf)

/-- The two states in which a canvas runs its steps (R119, R137). -/
theorem runsSteps {st : CanvasSt} (h : st = .running ∨ st = .draining) : (st == .running || st == .draining) = true := by
  rcases h with h | h <;> simp [h]

section
variable {d : Dev} {i : Iss} {b : Opnd}

/-- With masks that name live lanes, a barrier that is invalid or that nothing has reached is made anew (R134). -/
theorem doBarInit_names {groupMask laneMask : Opnd} (hs : sound i [b, groupMask, laneMask] [i.low]) (hb : val i b ≤ 15)
    (hg : val i groupMask < 2 ^ i.stage.groups)
    (hset : namedSet i.seat.ctx i.stage.groups (val i groupMask) (val i laneMask) ≠ [])
    (hfree : (barOf i.seat.ctx (val i b)).valid = false ∨ (barOf i.seat.ctx (val i b)).arrived = []) :
    doBarInit b groupMask laneMask d i = .done (modCtx d i.t i.key fun c => putBar c (val i b)
      { valid := true, groupMask := val i groupMask, laneMask := val i laneMask,
        named := namedSet i.seat.ctx i.stage.groups (val i groupMask) (val i laneMask) }) := by
  obtain ⟨hok, hp⟩ := hs
  have hmember : (decide (val i b > 15) || decide (val i groupMask ≥ 2 ^ i.stage.groups) ||
      (namedSet i.seat.ctx i.stage.groups (val i groupMask) (val i laneMask)).isEmpty) = false := by
    simp [hb, hg, hset]
  have hidle : ((barOf i.seat.ctx (val i b)).valid && !(barOf i.seat.ctx (val i b)).arrived.isEmpty) = false := by
    rcases hfree with h | h <;> simp [h]
  unfold val at hmember hidle ⊢
  simp only [doBarInit, hok, hp, hmember, hidle, guardOk_true, orFault_none, Bool.false_eq_true, if_false]

/-- The executing lanes arrive at barrier `n` of a context: they join those arrived, the timer starts at 0 with the first of
them, and the last of those named completes the phase (R135, R136). -/
def arriveAt (i : Iss) (n : Nat) (c : Ctx) : Ctx :=
  checkPhase (putBar c n { barOf i.seat.ctx n with
    arrived := (i.lanes.map fun l => 32 * i.g + l).foldl (fun a k => nadd k a) (barOf i.seat.ctx n).arrived,
    elapsed := if (barOf i.seat.ctx n).arrived.isEmpty then 0 else (barOf i.seat.ctx n).elapsed }) n

/-- Lanes that a valid barrier names, none of which has arrived, arrive: with BAR.SYNC they wait, with BAR.ARRIVE they go on
(R135). -/
theorem doArrive_arrives (hs : sound i [b] [i.low]) (hb : val i b ≤ 15) (hv : (barOf i.seat.ctx (val i b)).valid = true)
    (hl : ∀ l ∈ i.lanes, nmem (32 * i.g + l) (barOf i.seat.ctx (val i b)).named = true ∧
      nmem (32 * i.g + l) (barOf i.seat.ctx (val i b)).arrived = false) (sync : Bool) :
    doArrive sync b d i = .stay (modCtx d i.t i.key fun c => arriveAt i (val i b)
      (if sync then modGroup c i.g fun gr => modLanes gr i.lanes fun l => { l with wait := .barrier (val i b) }
      else modGroup c i.g fun gr => modLanes gr i.lanes fun l => { l with pc := i.pc + 1 })) := by
  obtain ⟨hok, hp⟩ := hs
  have hform : opndOk b = true := by simpa using hok
  have hmember : (decide (val i b > 15) || !(barOf i.seat.ctx (val i b)).valid ||
      (i.lanes.map fun l => 32 * i.g + l).any fun k => !nmem k (barOf i.seat.ctx (val i b)).named) = false := by
    simpa [hb, hv] using fun l h => (hl l h).1
  have hfirst : ((i.lanes.map fun l => 32 * i.g + l).any fun k => nmem k (barOf i.seat.ctx (val i b)).arrived) = false := by
    simpa using fun l h => (hl l h).2
  unfold val at hmember hfirst ⊢
  simp only [doArrive, hform, hp, hmember, hfirst, guardOk_true, orFault_none, Bool.false_eq_true, if_false]
  rfl

end

/-- Settles O18: the instructions by what they answer at issue, the next step and the timeout by the conditions of their
events. -/
theorem stepsAndBarriers : Obligations.StepsAndBarriers := by
  refine ⟨⟨?yield, ?exit, ?canvasEnd, ?nextStep⟩, ?init, ?arrive, ?timeout⟩
  case yield =>
    intro s t g d i run hi
    change execYield t g s = _
    exact act_issue_stay hi rfl
  case exit =>
    intro s t g d i run hi
    change execExit t g s = _
    exact act_issue_stay hi rfl
  case canvasEnd =>
    intro s t g d i run c hi hc hst
    change execCanvasEnd t g s = _
    exact act_issue_done hi (by simp only [hc, hst, beq_self_eq_true, if_true])
  case nextStep =>
    intro s t k st cv hr hk hcv hb hseat hrun hsw hq hch
    change execNextStepStart t s = _
    have hsw' : ((tileOf s.dev t).sw == .none || (tileOf s.dev t).sw == .waitMinSeat) = true := by
      rcases hsw with h | h <;> simp [h]
    refine act_eq hr ?_
    simp only [hk, hcv, hb, hseat, runsSteps hrun, hsw', hq, hch, beq_self_eq_true, List.isEmpty_nil, Bool.and_self, if_true]
  case init =>
    intro s t g b groupMask laneMask d i run hi hs hb hg hset hfree
    change execBarInit t g b groupMask laneMask s = _
    exact act_issue_done hi (doBarInit_names hs hb hg hset hfree)
  case arrive =>
    intro s t g b d i run hi hs hb hv hl
    change execBarSync t g b s = _ ∧ execBarArrive t g b s = _
    exact ⟨act_issue_stay hi (doArrive_arrives hs hb hv hl true), act_issue_stay hi (doArrive_arrives hs hb hv hl false)⟩
  case timeout =>
    intro s t k st cv b g ls hr hk hcv hseat hrun hreset htimed hlanes
    change execBarrierTimeout t s = _
    refine act_eq hr ?_
    simp only [hk, hcv, hseat, runsSteps hrun, hreset, htimed, hlanes, beq_self_eq_true, Bool.not_false, Bool.and_self, if_true]

end Sys2Proof.Proofs
end

section
/-! SUPPORT. Instructions of single lanes (R115, R121, R132, R623) and TIME.READ (R100): what each of them answers at issue
where its operands are readable, and the two ticks on which the copies and the master lie (R89, R90). -/
namespace Sys2Proof.Proofs
open Sys2Proof Sys2Proof.Machine Sys2Proof.Safety Sys2Proof.Laws

/-- A stage instruction whose lanes go each to a program counter of its own. -/
theorem act_issue_jump {s : State} {d d2 : Dev} {t g run : Nat} {ups : List Upset} {i : Iss} {f : Dev → Iss → Issued}
    {pcs : List (Nat × Nat)} (h : issues s t g ups d i run) (hf : f d i = .jump d2 pcs) :
    act s (fun x => issue x t g ups f) = after s (jumped d2 i run pcs) := by
  obtain ⟨hr, hi⟩ := h
  exact act_eq hr (issue_jump hi hf)

section
variable {d : Dev} {i : Iss}

/-! ### Arithmetic and moves -/

/-- Operand `n` of those that an operation uses, in lane `l` at width `w`; 0 where it uses no such operand. -/
def usedVal (i : Iss) (used : List Opnd) (w l n : Nat) : Nat := match used[n]? with
  | some o => (opndVal i l o).val % 2 ^ w
  | none => 0

theorem usedVal_eq (i : Iss) (used : List Opnd) (w l n : Nat) :
    usedVal i used w l n = (used[n]?.map fun o => (opndVal i l o).val % 2 ^ w).getD 0 := by
  unfold usedVal
  cases used[n]? <;> rfl

/-- What each of the lanes writes where `v l n` is operand `n` of lane `l`. -/
def arithLanes (op : ArithOp) (w : Nat) (v : Nat → Nat → Nat) (lanes : List Nat) : List (Nat × Nat × Bool) :=
  lanes.map fun l => (l, arithResult op w (v l 0) (v l 1) (v l 2) (lanes.map fun l => (l, v l 0 != 0)), false)

/-- With defined and readable operands, every lane writes its own result (R623). -/
theorem doArith_writes {op : ArithOp} {wide : Bool} {dst : Dst} {ops : List Opnd} (hop : op ≠ .undef)
    (hw : wide = true → arithNarrow op = false) (hd : dstOk dst = true)
    (hm : stageMove op dst (ops.take (arithArity op)) = false) (ha : readable i (ops.take (arithArity op)) i.lanes) :
    doArith op wide dst ops d i = .done (writeLanes d i dst (arithLanes op (if wide then 64 else 32)
      (usedVal i (ops.take (arithArity op)) (if wide then 64 else 32)) i.lanes)) := by
  obtain ⟨hok, hcons⟩ := ha
  have hwidth : (wide && arithNarrow op) = false := by
    cases wide
    · rfl
    · exact hw rfl
  have hform : (op != .undef && !(wide && arithNarrow op) && dstOk dst && (ops.take (arithArity op)).all opndOk) = true := by
    simp only [bne_iff_ne.mpr hop, hwidth, hd, hok, Bool.not_false, Bool.and_self]
  simp only [doArith, hform, hm, hcons, guardOk_true, orFault_none, Bool.false_eq_true, if_false]
  rfl

/-- A move to a stage register writes what the halves hold, with the poison of each (R115). -/
theorem doArith_moves {wide : Bool} {dst : Dst} {src b c : Opnd} (hm : stageMove .mov dst [src] = true)
    (hd : dstOk dst = true) (hs : sound i [src] i.lanes) :
    doArith .mov wide dst [src, b, c] d i = .done (moveToStage d i dst [src]) := by
  obtain ⟨hok, hp⟩ := hs
  have hused : [src, b, c].take (arithArity .mov) = [src] := rfl
  have hform : (ArithOp.mov != .undef && !(wide && arithNarrow .mov) && dstOk dst && [src].all opndOk) = true := by
    rw [hd, hok]; cases wide <;> rfl
  simp only [doArith, hused, hform, hm, hp, guardOk_true, orFault_none, if_true]

/-! ### Shuffles and branches -/

/-- Where no lane reads a register of bad parity, each takes the register of the lane that it names, with its poison
(R623). -/
theorem doShuffle_copies {dst src : Nat} {idx : Opnd} (hd : dst < 64) (hsrc : src < 64)
    (ha : readable i [.reg src, idx] i.lanes)
    (hgood : ∀ l ∈ i.lanes, regBad (gReg i.gr src ((opndVal i l idx).val % 32)) = false) :
    doShuffle dst src idx d i = .done (writeLanes d i (.reg dst) (i.lanes.map fun l =>
      (l, (gReg i.gr src ((opndVal i l idx).val % 32)).val.toNat, (gReg i.gr src ((opndVal i l idx).val % 32)).poison))) := by
  obtain ⟨hok, hcons⟩ := ha
  have hform : (decide (dst < 64) && decide (src < 64) && opndOk idx) = true := by simpa [hd, hsrc, opndOk] using hok
  have hany : (i.lanes.any fun l => regBad (gReg i.gr src ((opndVal i l idx).val % 32))) = false := by simpa using hgood
  simp only [doShuffle, hform, hcons, hany, guardOk_true, orFault_none, Bool.false_eq_true, if_false]

/-- A branch whose lanes that take it stay in the program (R121, R132). -/
theorem doBranch_jumps {cond : Option Opnd} {target : Opnd} (ha : readable i (target :: cond.toList) i.lanes)
    (hin : ∀ l ∈ i.lanes, (cond.elim true fun o => (opndVal i l o).val != 0) = true →
      (opndVal i l target).val < i.stage.progSize / 8) :
    doBranch cond target d i = .jump d (i.lanes.map fun l =>
      (l, if (cond.elim true fun o => (opndVal i l o).val != 0) then (opndVal i l target).val else i.pc + 1)) := by
  obtain ⟨hok, hcons⟩ := ha
  have hany : (i.lanes.any fun l => (cond.elim true fun o => (opndVal i l o).val != 0) &&
      decide ((if (cond.elim true fun o => (opndVal i l o).val != 0) then (opndVal i l target).val else i.pc + 1) ≥
        i.stage.progSize / 8)) = false := by
    rw [List.any_eq_false]
    intro l hl
    by_cases ht : (cond.elim true fun o => (opndVal i l o).val != 0) = true
    · simp [ht, hin l hl ht]
    · simp [ht]
  have hpass (r : Issued) : guardOk ((target :: cond.toList).all opndOk)
      (orFault (consumed i (target :: cond.toList) i.lanes) r) = r := by rw [hok, hcons, guardOk_true, orFault_none]
  refine (hpass _).trans ?_
  cases cond <;> exact if_neg (Bool.not_eq_true _ ▸ hany)

end

/-! ### The copies -/

/-- The earlier of the two ticks: the master's own where the copies run ahead of it, else the one before. -/
def copyFloor (tb : TimeBase) : Nat := (tb.now + tb.ahead.toNat - 1) % 2 ^ 64

theorem copyAt_floor (tb : TimeBase) (k : Nat) : copyAt tb k = copyFloor tb ∨ copyAt tb k = (copyFloor tb + 1) % 2 ^ 64 := by
  unfold copyAt copyFloor
  cases copyLater tb k
  · exact Or.inl rfl
  · simp only [Bool.toNat_true]; omega

theorem now_floor (tb : TimeBase) : tb.now % 2 ^ 64 = copyFloor tb ∨ tb.now % 2 ^ 64 = (copyFloor tb + 1) % 2 ^ 64 := by
  unfold copyFloor
  cases tb.ahead
  · simp only [Bool.toNat_false]; omega
  · exact Or.inl rfl

/-- Settles O19: each instruction by what it answers at issue, the two ticks by `copyFloor`. -/
theorem laneInstructions : Obligations.LaneInstructions := by
  refine ⟨?arith, ?movePair, ?moveHalf, ?shuffle, ?branch, ?time,
    fun tb => ⟨copyFloor tb, copyAt_floor tb, now_floor tb⟩⟩
  case arith =>
    intro s t g op wide dst a b c upsets d i run hi hop hw hd hm ha w v
    change execArithmeticOp t g op wide dst a b c upsets s = _
    have hv : usedVal i ([a, b, c].take (arithArity op)) (if wide then 64 else 32) = v :=
      funext₂ fun l n => usedVal_eq i _ _ l n
    have hwrites := doArith_writes (d := d) hop hw hd hm ha
    rw [hv] at hwrites
    exact act_issue_done hi hwrites
  case movePair =>
    intro s t g wide j n b c upsets d i run hi hd hs
    change execArithmeticOp t g .mov wide (.sreg j) (.pair n) b c upsets s = _
    exact act_issue_done hi (doArith_moves rfl hd hs)
  case moveHalf =>
    intro s t g wide j hi n b c upsets d i run his hd hs
    change execArithmeticOp t g .mov wide (.sregHalf j hi) (.reg n) b c upsets s = _
    exact act_issue_done his (doArith_moves rfl hd hs)
  case shuffle =>
    intro s t g dst src idx upsets d i run hi hd hsrc ha source hgood
    change execLaneShuffle t g dst src idx upsets s = _
    exact act_issue_done hi (doShuffle_copies hd hsrc ha hgood)
  case branch =>
    intro s t g cond target upsets d i run hi ha taken hin
    change execBranch t g cond target upsets s = _
    exact act_issue_jump hi (doBranch_jumps ha hin)
  case time =>
    intro s t g dst d i run hi hd heven
    change execTimeRead t g dst s = _
    have hform : dstOk (.pair dst) = true := by simp [dstOk, hd, heven]
    exact act_issue_done hi (by rw [hform, guardOk_true])

end Sys2Proof.Proofs
end

section
/-! SUPPORT. CONTEXT_EXPORT and CONTEXT_IMPORT (R142, R146, R189, R448, R455, R456): what their handlers
answer for a parked seat that they find, and the seats that they refuse. -/
namespace Sys2Proof.Proofs
open Sys2Proof Sys2Proof.Machine Sys2Proof.Safety Sys2Proof.Laws

section
variable {d : Dev} {w : Win} {r : CmdRec} {cv : Canvas} {t k op : Nat} {seat : Seat}
variable (hseat : parkedSeat d w (r.args.getD 0 0) = .ok (cv, t, k, seat))

/-! ### CONTEXT_EXPORT -/

include hseat in
/-- An image that fits its place and is read and written whole answers its length (R142). -/
theorem handleContextExport_writes {d2 d3 : Dev} {img : List (DWord × Bool)}
    (hfit : ctxBytes (savedOf seat).mid (stageOf cv seat.stage).groups seat.swapSize ≤ r.args.getD 2 0)
    (hb : backed d (r.args.getD 1 0) (ctxBytes (savedOf seat).mid (stageOf cv seat.stage).groups seat.swapSize) = true)
    (hread : storedImage d cv t seat = (d3, some img))
    (hwrite : putWords (withHue d3 (coreHue d3)) (.core 0) (r.args.getD 1 0) img = some d2) :
    handleContextExport w d r (some op) =
      (some stOk, complete d2 op stOk (ctxBytes (savedOf seat).mid (stageOf cv seat.stage).groups seat.swapSize) 0
        (img.any (·.2))) := by
  unfold handleContextExport
  simp only [hseat, Nat.not_lt.mpr hfit, hb, hread, hwrite, Bool.not_true, Bool.false_eq_true, if_false,
    completeOpt]

/-! ### CONTEXT_IMPORT -/

theorem backed_withHue (d : Dev) (h a n : Nat) : backed (withHue d h) a n = backed d a n := rfl

/-- The seat as an image leaves it: the context that the image holds, and no hold record (R189). -/
def importedSeat (r : CmdRec) (cv : Canvas) (seat : Seat) (ws : List (DWord × Bool)) : Seat :=
  { seat with ctx := imgCtx (bits (r.args.getD 0 0) 7 0) seat (stageOf cv seat.stage).groups ws, saved := none,
              hold0 := none, hold1 := none }

section
variable {d2 d3 : Dev} {hd ws : List (DWord × Bool)}
variable (hb : backed d (r.args.getD 1 0) 64 = true)
  (hhead : devReadWords (withHue d (coreHue d)) (.core 0) (r.args.getD 1 0) 64 false = (d2, some hd))
  (hpre : checkPrefix 0x0202 (leAt (imgBytes hd) 0 4) = none)
  (hbn : backed d (r.args.getD 1 0) (max 64 (leAt (imgBytes hd) 0x28 4)) = true)
  (hread : devReadWords (withHue d (coreHue d)) (.core 0) (r.args.getD 1 0)
    (ceilDiv (max 64 (leAt (imgBytes hd) 0x28 4)) 8 * 8) false = (d3, some ws))
  (hpoison : controlPoison ws = false)
include hseat hb hhead hpre hbn hread hpoison

/-- An image that fails a check completes the command with the status of the check (R146). -/
theorem handleContextImport_fails {st : Half}
    (hcheck : ctxCheck cv seat (stageOf cv seat.stage).groups
      ((imgBytes ws).take (max 64 (leAt (imgBytes hd) 0x28 4))) = some st) :
    handleContextImport w d r (some op) = (some stOk, complete d3 op st) := by
  unfold handleContextImport
  simp only [hseat, backed_withHue, hb, hhead, hpre, hbn, hread, hpoison, poisonVerdict, hcheck, Bool.not_true,
    Bool.false_eq_true, if_false, completeOpt]

/-- An image that passes every check and reaches its save area replaces the saved context (R146, R189). -/
theorem handleContextImport_replaces {d4 : Dev}
    (hcheck : ctxCheck cv seat (stageOf cv seat.stage).groups
      ((imgBytes ws).take (max 64 (leAt (imgBytes hd) 0x28 4))) = none)
    (hstore : storeImage d3 cv t (importedSeat r cv seat ws) = (d4, true)) :
    handleContextImport w d r (some op) =
      (some stOk, complete (modSeat d4 t k fun _ => importedSeat r cv seat ws) op stOk 0 0 (ws.any (·.2))) := by
  unfold importedSeat at hstore ⊢
  unfold handleContextImport
  simp only [hseat, backed_withHue, hb, hhead, hpre, hbn, hread, hpoison, poisonVerdict, hcheck, hstore, Bool.not_true,
    Bool.false_eq_true, if_false, if_true, completeOpt]

end
end

/-! ### Refusals -/

/-- A seat of a canvas that is neither LOADED nor STOPPED is refused (R142). -/
theorem parkedSeat_refuses {d : Dev} {w : Win} {arg : Nat} {c : Canvas} {x : Seat} (hc : canvasOf d (bits arg 7 0) = some c)
    (hx : tfind (tileOf d (bits arg 15 8 + 16 * bits arg 23 16)).seats (bits arg 31 24) = some x)
    (ho : svcOwned w c = false) (hl : c.st ≠ .loaded) (hs : c.st ≠ .stopped) :
    parkedSeat d w arg = .error stCanvasState := by
  have hstate : (x.st != .parked || !(c.st == .loaded || c.st == .stopped) || c.unloading) = true := by simp [hl, hs]
  unfold parkedSeat
  simp only [hc, hx, ho, hstate, Bool.false_eq_true, if_false, if_true]

/-- Settles O30: both commands are accepted by their handlers; a refused seat is one that `parkedSeat` does not find. -/
theorem contextCommands : Obligations.ContextCommands := by
  refine ⟨?save, ?load, fun d w arg c x hc hx ho hl hs => parkedSeat_refuses hc hx ho hl hs⟩
  case save =>
    intro s w d1 op h cv t k seat d2 hr ha hseat n hfit hb d3 img hread hwrite
    change execContextExport w s = _
    exact act_submitAs_long hr ha rfl (handleContextExport_writes hseat hfit hb hread hwrite)
  case load =>
    intro s w d1 op h cv t k seat d2 hd d3 ws hr ha hseat hb hhead hpre n hbn hread hpoison groups seat'
    change (∀ st, _ → execContextImport w s = _) ∧ ∀ d4, _ → _ → execContextImport w s = _
    exact ⟨fun st hcheck => act_submitAs_long hr ha rfl
        (handleContextImport_fails hseat hb hhead hpre hbn hread hpoison hcheck),
      fun d4 hcheck hstore => act_submitAs_long hr ha rfl
        (handleContextImport_replaces hseat hb hhead hpre hbn hread hpoison hcheck hstore)⟩

end Sys2Proof.Proofs
end

section
/-! SUPPORT. What settling leaves alone (R162, R366, R457, R460), read off `rest_settle` field by field. -/
namespace Sys2Proof.Proofs
open Sys2Proof Sys2Proof.Machine Sys2Proof.Safety Sys2Proof.Laws

/-- The queue stays and the device settles, whatever the command's own effect. -/
theorem after_eq_next {s t : State} {d : Dev} (h : after s d = .next t) : t = { s with dev := settle d } := by
  unfold after at h
  injection h with h
  exact h.symm

/-- Settling changes nothing that can be read off the device with its settling part blanked. -/
theorem settle_keeps (d : Dev) {α : Type} (f : Dev → α) (hf : ∀ d, f (rest d) = f d) : f (settle d) = f d := by
  rw [← hf (settle d), rest_settle, hf]

/-- Settles O5: every field named is one that `rest` does not blank. -/
theorem settlingFrame : Obligations.SettlingFrame := by
  intro s t d h
  rw [after_eq_next h]
  have keeps {α : Type} (f : Dev → α) := settle_keeps d f
  refine ⟨rfl, keeps Dev.phase ?_, keeps Dev.tb ?_, keeps Dev.cues ?_, keeps Dev.tiles ?_, keeps Dev.canvases ?_,
    keeps Dev.streams ?_, keeps Dev.preserves ?_, keeps Dev.sessions ?_, keeps Dev.sweeps ?_, keeps Dev.xfers ?_,
    keeps Dev.links ?_, keeps Dev.ports ?_, keeps Dev.switches ?_, keeps Dev.requests ?_, keeps Dev.colls ?_,
    keeps Dev.routes ?_, keeps Dev.wins ?_, keeps Dev.coreWins ?_, keeps Dev.ops ?_, keeps Dev.link ?_, keeps Dev.svcs ?_,
    keeps Dev.blocks ?_, keeps Dev.seqs ?_, keeps Dev.sensors ?_, keeps Dev.levers ?_, keeps Dev.creset ?_,
    keeps Dev.waits ?_, keeps Dev.limits ?_, keeps Dev.board ?_, keeps Dev.fw ?_, keeps Dev.entropy ?_⟩
  all_goals exact fun _ => rfl

end Sys2Proof.Proofs
end

section
/-! SUPPORT. Memory instructions (R152, R157 to R161, R170 to R173, R624): what a load, a store, an atomic and a fence
answer at issue where no lane fails a check and no lane's access waits. -/
namespace Sys2Proof.Proofs
open Sys2Proof Sys2Proof.Machine Sys2Proof.Safety Sys2Proof.Laws

/-- A stage instruction that faults after it changed the device to `d2`. -/
theorem act_issue_faultIn {s : State} {d d2 : Dev} {t g run a : Nat} {ups : List Upset} {i : Iss} {f : Dev → Iss → Issued}
    {st : Half} (h : issues s t g ups d i run) (hf : f d i = .faultIn d2 st a) :
    act s (fun x => issue x t g ups f) = after s (stageFault d2 t g st (laneMask i.lanes) i.pc a) := by
  rw [act_issue h, hf]

/-! ### Lanes -/

/-- Where every lane serves its access on every device, no lane waits. -/
theorem eachLane_serves {α : Type} {f : Dev → Nat → Option (Dev × α)} (hf : ∀ d l, ∃ x, f d l = some x) (d : Dev)
    (ls : List Nat) : ∃ r, eachLane f d ls = some r := by
  suffices h : ∀ acc : Dev × List (Nat × α), ∃ r,
      ls.foldl (fun acc l => acc.bind fun (d, rs) => (f d l).map fun (d, x) => (d, rs ++ [(l, x)])) (some acc) = some r from
    h (d, [])
  induction ls with
  | nil => exact fun acc => ⟨acc, rfl⟩
  | cons l ls ih =>
    intro acc
    obtain ⟨x, hx⟩ := hf acc.1 l
    simp only [List.foldl_cons, Option.bind_some, hx, Option.map_some]
    exact ih _

section
variable {d : Dev} {i : Iss} {sp : MemSpace} {addr : Opnd} {disp : Nat}

/-- Where no lane fails its checks, the instruction goes on to its accesses (R624). -/
theorem lanesFault_none {n : Nat} {eat keep : List Opnd} (h : ∀ l ∈ i.lanes, laneFault d i sp addr disp n eat keep l = none)
    (r : Issued) : lanesFault d i sp addr disp n eat keep r = r := by
  unfold lanesFault
  rw [List.findSome?_eq_none_iff.mpr h]

/-- The stage buffer, and device memory that the tile still reaches, take the write. -/
theorem unlessCut_reached (h : sp = .device → cutOff d i.t = false) (r : Issued) : unlessCut d i sp addr disp r = r := by
  cases sp with
  | stageBuffer => rfl
  | device => exact if_neg (by simp [h rfl])

theorem unlessCut_lost (h : cutOff d i.t = true) (r : Issued) :
    unlessCut d i .device addr disp r =
      .faultIn (loseCut d i.t 2 (laneAddr i addr disp i.low)) stCrcFinal (laneAddr i addr disp i.low) := if_pos h

/-! ### Instructions -/

/-- A load fills each lane's destination with what its own access read (R152). -/
theorem doLoad_fills {size dst order scope : Nat} {signed spent : Bool} {e : Dev} {rs : List (Nat × Nat × Bool)}
    (ha : opndOk addr = true) (hsz : sizeBits size = true) (hd : dstOk (if size = 8 then .pair dst else .reg dst) = true)
    (ho : order ≤ 1) (hsc : scope ≤ 3) (hl : ∀ l ∈ i.lanes, laneFault d i sp addr disp size [] [] l = none)
    (hall : eachLane (loadLane sp i addr disp size spent) d i.lanes = some (e, rs)) :
    doLoad sp addr disp size signed dst order scope spent d i =
      .done (writeLanes e i (if size = 8 then .pair dst else .reg dst)
        (rs.map fun r => (r.1, extendLoad size signed r.2.1, r.2.2))) := by
  unfold doLoad
  simp only [ha, hsz, hd, ho, hsc, decide_true, Bool.and_self, guardOk_true, lanesFault_none hl, hall]

/-- The check of a store's own form: what its operands, size, order and scope may be (R152, R159). -/
theorem storeForm_ok {size order scope : Nat} {so : Opnd} (ha : opndOk addr = true) (hsz : sizeBits size = true)
    (hs : opndOk so = true) (ho : order = 0 ∨ order = 2) (hsc : scope ≤ 3) :
    (opndOk addr && sizeBits size && opndOk so && (order == 0 || order == 2) && decide (scope ≤ 3)) = true := by
  have horder : (order == 0 || order == 2) = true := by simpa using ho
  simp only [ha, hsz, hs, horder, hsc, decide_true, Bool.and_self]

section
variable {size src order scope : Nat} (ha : opndOk addr = true) (hsz : sizeBits size = true)
  (hs : opndOk (if size = 8 then .pair src else .reg src) = true) (ho : order = 0 ∨ order = 2) (hsc : scope ≤ 3)
include ha hsz hs ho hsc

/-- A store of a tile that reaches its slice writes each lane's value (R171). -/
theorem doStore_writes {e : Dev} {rs : List (Nat × Unit)}
    (hl : ∀ l ∈ i.lanes, laneFault d i sp addr disp size [] [if size = 8 then .pair src else .reg src] l = none)
    (hcut : sp = .device → cutOff d i.t = false)
    (hall : eachLane (storeLane sp i addr disp size (if size = 8 then .pair src else .reg src)) d i.lanes = some (e, rs)) :
    doStore sp addr disp size src order scope d i = .done e := by
  simp only [doStore, storeForm_ok ha hsz hs ho hsc, guardOk_true, lanesFault_none hl, unlessCut_reached hcut, hall]

/-- A store of a tile that is cut off from its slice is lost and answers the fault of its canvas (log 134). -/
theorem doStore_lost
    (hl : ∀ l ∈ i.lanes, laneFault d i .device addr disp size [] [if size = 8 then .pair src else .reg src] l = none)
    (hcut : cutOff d i.t = true) :
    doStore .device addr disp size src order scope d i =
      .faultIn (loseCut d i.t 2 (laneAddr i addr disp i.low)) stCrcFinal (laneAddr i addr disp i.low) := by
  simp only [doStore, storeForm_ok ha hsz hs ho hsc, guardOk_true, lanesFault_none hl, unlessCut_lost hcut]

end

/-- An atomic updates each lane's word and returns what it held (R160, R161). -/
theorem doAtomic_updates {op : AtomOp} {ty : AtomTy} {dst order scope : Nat} {v cmp : Opnd} {spent : Bool} {e : Dev}
    {rs : List (Nat × Nat × Bool)} (ha : opndOk addr = true) (hops : (if op == .cas then [v, cmp] else [v]).all opndOk = true)
    (hd : dstOk (if atomBytes ty = 8 then .pair dst else .reg dst) = true) (hop : atomOk op ty = true) (ho : order ≤ 3)
    (hsc : scope ≤ 3)
    (hl : ∀ l ∈ i.lanes, laneFault d i sp addr disp (atomBytes ty) (if op == .cas then [v, cmp] else [v]) [] l = none)
    (hcut : sp = .device → cutOff d i.t = false)
    (hall : eachLane (atomicLane sp i op ty addr disp v cmp spent) d i.lanes = some (e, rs)) :
    doAtomic sp op ty addr disp dst v cmp order scope spent d i =
      .done (writeLanes e i (if atomBytes ty = 8 then .pair dst else .reg dst) (rs.map fun r => (r.1, r.2.1, r.2.2))) := by
  have hform : ([addr] ++ if op == .cas then [v, cmp] else [v]).all opndOk = true := by
    rw [List.all_append, hops, List.all_cons, ha]; rfl
  simp only [doAtomic, hform, hd, hop, ho, hsc, decide_true, Bool.and_self, guardOk_true, lanesFault_none hl,
    unlessCut_reached hcut, hall]

end

/-- Settles O21: each instruction by what it answers at issue; the stage buffer serves every lane. -/
theorem memoryInstructions : Obligations.MemoryInstructions := by
  refine ⟨?load, ?store, ?atomic, ?cutStore, ?stageBuffer, ?fence⟩
  case load =>
    intro s t g sp addr disp size signed dst order scope spent upsets d i run e rs hi ha hsz hd ho hsc hl hall
    change execLoad t g sp addr disp size signed dst order scope spent upsets s = _
    exact act_issue_done hi (doLoad_fills ha hsz hd ho hsc hl hall)
  case store =>
    intro s t g sp addr disp size src order scope upsets d i run e rs hi so ha hsz hs ho hsc hl hcut hall
    change execStore t g sp addr disp size src order scope upsets s = _
    exact act_issue_done hi (doStore_writes ha hsz hs ho hsc hl hcut hall)
  case atomic =>
    intro s t g sp op ty addr disp dst v cmp order scope spent upsets d i run e rs hi ops ha hops hd hop ho hsc hl hcut hall
    change execAtomic t g sp op ty addr disp dst v cmp order scope spent upsets s = _
    exact act_issue_done hi (doAtomic_updates ha hops hd hop ho hsc hl hcut hall)
  case cutStore =>
    intro s t g addr disp size src order scope upsets d i run hi so ha hsz hs ho hsc hl hcut
    change execStore t g .device addr disp size src order scope upsets s = _
    exact act_issue_faultIn hi (doStore_lost ha hsz hs ho hsc hl hcut)
  case stageBuffer =>
    intro i op ty addr disp size so v cmp spent d ls
    exact ⟨eachLane_serves (fun _ _ => ⟨_, rfl⟩) d ls, eachLane_serves (fun _ _ => ⟨_, rfl⟩) d ls,
      eachLane_serves (fun _ _ => ⟨_, rfl⟩) d ls⟩
  case fence =>
    intro s t g scope d i run hi hsc
    change execFence t g scope s = _
    exact act_issue_done hi (by rw [decide_eq_true hsc, guardOk_true])

end Sys2Proof.Proofs
end

section
/-! SUPPORT. Matrix instructions (R178 to R183): an instruction that passes its checks dispatches, and EASEL.WAIT looks at what
of its group is left in the easel. -/
namespace Sys2Proof.Proofs
open Sys2Proof Sys2Proof.Machine Sys2Proof.Safety Sys2Proof.Laws

/-- With readable operands, every lane of the mask at it and the checks of R182 passed, a matrix instruction dispatches as its
operands decode, and its lanes wait for it (R181 to R183). -/
theorem doMatrix_dispatches {d : Dev} {i : Iss} {mask : Nat} {ops : List Opnd} {mk : (Opnd → Nat) → EaselOp × Bool}
    {op : EaselOp} (ha : readable i ops [i.low]) (hm : laneMask i.lanes = mask) (hmk : mk (val i) = (op, true))
    (hf : opFault d i op true = none) : doMatrix mask ops mk d i = .stay (dispatchOp d i op) := by
  obtain ⟨hok, hcons⟩ := ha
  have hdecoded : mk (fun o => (opndVal i i.low o).val) = (op, true) := hmk
  simp only [doMatrix, hok, hcons, hm, hdecoded, hf, guardOk_true, orFault_none, ne_eq, not_true_eq_false, if_false]

/-- Settles O22: a HOLD and an MMA dispatch by `doMatrix_dispatches`; EASEL.WAIT stays or goes on by what it finds. -/
theorem matrixInstructions : Obligations.MatrixInstructions := by
  refine ⟨?hold, ?mma, ?wait⟩
  case hold =>
    intro s t g a d i run hi ha hm op hf
    change execEaselHold t g a s = _
    exact act_issue_stay hi (doMatrix_dispatches ha hm rfl hf)
  case mma =>
    intro s t g a d i run hi ha hm hfeed hacc hout op hf
    change execEaselMma t g a s = _
    have hmodes : decide (val i a.feedMode ≤ 1 ∧ val i a.accMode ≤ 1 ∧ val i a.outMode ≤ 1) = true :=
      decide_eq_true ⟨hfeed, hacc, hout⟩
    exact act_issue_stay hi (doMatrix_dispatches ha hm (Prod.ext rfl hmodes) hf)
  case wait =>
    intro s t g d i run hi
    change execEaselWait t g s = _
    split
    case isTrue h => exact act_issue_stay hi (if_pos h)
    case isFalse h => exact act_issue_done hi (if_neg h)

end Sys2Proof.Proofs
end

section
/-! SUPPORT. The easel's own events (R178, R183 to R185, R188, R190, R191) and the current keeper (R198, R200): each event under
the condition that its meaning tests. -/
namespace Sys2Proof.Proofs
open Sys2Proof Sys2Proof.Machine Sys2Proof.Safety Sys2Proof.Laws

/-! ### What a change of the easel leaves -/

section
variable (d : Dev) (t : Nat) (f : Easel → Easel)

@[simp] theorem easelOf_modEasel : easelOf (modEasel d t f) t = f (easelOf d t) := by simp [easelOf, modEasel]

@[simp] theorem tileOf_modEasel_cur : (tileOf (modEasel d t f) t).cur = (tileOf d t).cur := by simp [modEasel]

end

section
variable {s : State} {t : Nat} (hr : runs s)
include hr

/-! ### The queue (R178, R183, R185, R190) -/

/-- The instruction that dispatched first takes a free entry: a HOLD with its record in the current seat, an MMA in its
chain (R183, R185, R189). -/
theorem execEaselEnterQueue_enters {op : EaselOp} {p : PairInfo} {k : Nat}
    (hop : (easelOf s.dev t).queue.find? (fun q => !q.queued) = some op) (hfree : queueLength (easelOf s.dev t) < 8)
    (hp : pairInfo op.fmt = some p) (hk : (tileOf s.dev t).cur = some k) :
    execEaselEnterQueue t s = after s (
      if op.hold then modSeat (modEasel s.dev t fun e =>
        { e with queue := lmod (fun q => q.id == op.id) (fun q => { q with queued := true }) e.queue }) t k
          fun x => enterHold x p op
      else modEasel s.dev t fun e => enterMma e p op) := by
  refine act_eq hr ?_
  simp only [hop, Nat.not_le.mpr hfree, hp, tileOf_modEasel_cur, hk, if_false]

/-- The head begins when nothing makes it wait and, where it is an MMA, its bank is good; a row of an MMA is then ready for
the keeper (R184, R188, R198). -/
theorem execEaselBegin_begins {op : EaselOp} {p : PairInfo}
    (hop : (easelOf s.dev t).queue.find? (fun q => q.queued && !q.begun) = some op) (hp : pairInfo op.fmt = some p)
    (hbegin : mayBegin (easelOf s.dev t) p op = true)
    (hgood : op.hold = false → bankBad (easelOf s.dev t) op.bank = false) (hsw : (tileOf s.dev t).sw ≠ .draining) :
    execEaselBegin t s =
      let d := modEasel s.dev t fun e =>
        { e with queue := lmod (fun q => q.id == op.id) (fun q => { q with begun := true }) e.queue }
      after s (if op.hold then d else keeperReady d t) := by
  have hwaits : (!mayBegin (easelOf s.dev t) p op || (tileOf s.dev t).sw == .draining) = false := by simp [hbegin, hsw]
  have hfaults : (!op.hold && bankBad (easelOf s.dev t) op.bank) = false := by
    cases h : op.hold
    · exact hgood h
    · rfl
  refine act_eq hr ?_
  simp only [hop, hp, hwaits, hfaults, Bool.false_eq_true, if_false]

/-- Once a switch has stopped issue, no instruction begins (R190). -/
theorem execEaselBegin_draining (hsw : (tileOf s.dev t).sw = .draining) : execEaselBegin t s = after s s.dev := by
  refine act_eq hr ?_
  dsimp only
  cases (easelOf s.dev t).queue.find? fun q => q.queued && !q.begun with
  | none => rfl
  | some op =>
    cases hp : pairInfo op.fmt with
    | none => simp only [hp]
    | some p => simp only [hp, hsw, beq_self_eq_true, Bool.or_true, if_true]

/-- Once a switch has stopped issue, no product feeds on (R190). -/
theorem execMmaFed_draining (hsw : (tileOf s.dev t).sw = .draining) : execMmaFed t s = after s s.dev := by
  refine act_eq hr ?_
  dsimp only
  cases (easelOf s.dev t).queue.find? fun q => !q.hold && feeding (easelOf s.dev t) q with
  | none => rfl
  | some op => simp only [hsw, beq_self_eq_true, if_true]

/-! ### The current keeper (R198, R200) -/

/-- With no product in flight a gap takes EASEL_KEEP as it then stands and begins; with KEEP_GAP 0 the gap is one dummy row
long (R198, R200). -/
theorem execKeeperGapBegin_begins (hk : (easelOf s.dev t).keeper = .run)
    (hidle : ∀ q ∈ (easelOf s.dev t).queue, q.hold = false → q.begun = false) :
    execKeeperGapBegin t s = after s (
      if regField s.dev .easelKeep [t] 9 0 = 0
      then modEasel (countKept (latchKeep s.dev t) t 1 0) t fun e => { e with keeper := .rampDown, level := 7 }
      else modEasel (latchKeep s.dev t) t fun e => { e with keeper := .keep, level := 8 }) := by
  have hflight : ((easelOf s.dev t).queue.any fun q => !q.hold && q.begun) = false := by
    rw [List.any_eq_false]
    intro q hq
    cases hh : q.hold
    · simp [hidle q hq hh]
    · simp
  have hgap : (easelOf (latchKeep s.dev t) t).gap = regField s.dev .easelKeep [t] 9 0 := by simp [latchKeep]
  refine act_eq hr ?_
  simp only [hk, hflight, hgap, beq_self_eq_true, Bool.not_false, Bool.and_self, if_true]

end

/-- Settles O23: each event meets the condition that its meaning tests and has that effect. -/
theorem easelAndKeeper : Obligations.EaselAndKeeper := by
  refine ⟨⟨?enter, ?begin, ?loaded, ?fed, ?draining, ?chain, ?reload0, ?reload1⟩, ?gapBegins, ?gapEnds, ?down, ?up⟩
  case enter => exact fun s t op p k hr hop hfree hp hk => execEaselEnterQueue_enters hr hop hfree hp hk
  case begin => exact fun s t op p hr hop hp hbegin hgood hsw => execEaselBegin_begins hr hop hp hbegin hgood hsw
  case loaded =>
    intro s t op d hr hop hload
    change execHoldLoaded t s = _
    refine act_eq hr ?_
    simp only [hop, hload, if_true]
  case fed =>
    intro s t op d hr hop hfeed hsw
    change execMmaFed t s = _
    have hissues : ((tileOf s.dev t).sw == .draining) = false := by simpa using hsw
    refine act_eq hr ?_
    simp only [hop, hfeed, hissues, Bool.false_eq_true, if_false, if_true]
  case draining => exact fun s t hr hsw _ => ⟨execEaselBegin_draining hr hsw, execMmaFed_draining hr hsw⟩
  case chain =>
    intro s t ch hr hch hstarted hpending
    change execChainWrite t s = _
    refine act_eq hr ?_
    simp only [hch, hstarted, hpending, Bool.not_false, Bool.and_self, if_true]
  case reload0 =>
    intro s t h hr hh
    change execHoldReloadDone t 0 s = _
    refine act_eq hr ?_
    simp only [hh, if_true]
  case reload1 =>
    intro s t h b hr h0 h1 hb
    change execHoldReloadDone t b s = _
    refine act_eq hr ?_
    simp only [h0, h1, hb, if_false]
  case gapBegins => exact fun s t hr hk hidle => execKeeperGapBegin_begins hr hk hidle
  case gapEnds =>
    intro s t hr hk
    change execKeepGapExpires t s = _
    exact act_eq hr (if_pos (by rw [hk]; rfl))
  case down =>
    intro s t hr hk
    change execRampStepElapses t s = _
    refine act_eq hr ?_
    simp only [hk]
  case up =>
    intro s t hr hk
    change execRampStepElapses t s = _
    refine act_eq hr ?_
    simp only [hk]

end Sys2Proof.Proofs
end

section
/-! SUPPORT. Conversions, packing and block scaling (R205, R221 to R223, R226, R230, R233): what each instruction answers at
issue where its formats, its operands, its rounding and its stage-buffer ranges pass the checks of R149 and R232. -/
namespace Sys2Proof.Proofs
open Sys2Proof Sys2Proof.Machine Sys2Proof.Safety Sys2Proof.Laws

/-! ### Checks that pass -/

@[simp] theorem firstFault_nil : firstFault [] = none := rfl
@[simp] theorem firstFault_cons_none (l : List (Option Half)) : firstFault (none :: l) = firstFault l := rfl

/-- An aligned range that lies in a region of the seat passes (R149, R230). -/
theorem sbFault_none {x : Seat} {a n align : Nat} (hal : a % align = 0) (hin : sbOk x a n = true) :
    sbFault x a n align = none := by
  rw [sbFault, if_neg (not_not_intro hal), if_pos hin]

section
variable {d : Dev} {i : Iss}

/-! ### Conversions of registers (R221 to R223, R230, R233) -/

section
variable {srcFmt dstFmt round : Nat} (hsf : cvtFmt srcFmt = true) (hdf : cvtFmt dstFmt = true) (hm : round ≤ 2)
  (hr : roundFault i round = none)
include hsf hdf hm hr

/-- CVT writes the executing lanes' converted elements. -/
theorem doCvt_converts {dst src : Nat} {sat : Bool} (hd : dst < 64) (hs : src < 64)
    (hc : consumed i [.reg src] i.lanes = none) :
    doCvt dst src srcFmt dstFmt round sat d i =
      let r := convertLanes d i src srcFmt dstFmt round sat
      .done (writeLanes r.1 i (.reg dst) (List.zipWith (fun l c => (l, c.x, false)) i.lanes r.2)) := by
  simp [doCvt, hd, hs, hsf, hdf, hm, hc, hr]

/-- VCVT writes a vector register with the converted elements of another. -/
theorem doVcvt_converts {vdst vsrc : Nat} {sat : Bool} (hd : vdst < 16) (hs : vsrc < 16)
    (hc : vConsumed i.seat.ctx vsrc = none) :
    doVcvt vdst vsrc srcFmt dstFmt round sat d i =
      let r := convertV d i vsrc srcFmt dstFmt round sat
      .done (setV r.1 i vdst (r.2.map (·.x))) := by
  simp [doVcvt, vregOk, hd, hs, hsf, hdf, hm, hc, hr]

end

/-! ### Packing and unpacking (R205, R230) -/

section
variable {addr : Opnd} (ha : readable i [addr] [i.low])
include ha

/-- VCVT.PACK writes the 128 converted elements contiguously, element 0 lowest. -/
theorem doVcvtPack_packs {vsrc dstFmt round : Nat} {sat : Bool} (hs : vsrc < 16) (hdf : cvtFmt dstFmt = true)
    (hm : round ≤ 2) (hc : vConsumed i.seat.ctx vsrc = none) (hr : roundFault i round = none)
    (hal : val i addr % 32 = 0) (hsb : sbOk i.seat (val i addr) (packedBytes dstFmt) = true) :
    doVcvtPack addr vsrc dstFmt round sat d i =
      let r := convertV d i vsrc 1 dstFmt round sat
      .done (sbWrite r.1 i.t (val i addr)
        (leBytes (packedBytes dstFmt) (packElems (fmtWidth dstFmt) (r.2.map (·.x)))) false) := by
  obtain ⟨hok, hcons⟩ := ha
  have hform : (opndOk addr && vregOk vsrc) = true := by simpa [vregOk, hs] using hok
  have hrange := sbFault_none hal hsb
  unfold val at hrange ⊢
  simp [doVcvtPack, hform, hdf, hm, hcons, hc, hr, hrange]

/-- VCVT.UNPACK writes a vector register with the FP32 values of 128 packed elements that hold no poison. -/
theorem doVcvtUnpack_unpacks {vdst srcFmt : Nat} (hd : vdst < 16) (hlo : 1 ≤ srcFmt) (hhi : srcFmt ≤ 0x0F)
    (hal : val i addr % (if srcFmt = 0x0E || srcFmt = 0x0F then 16 else 32) = 0)
    (hsb : sbOk i.seat (val i addr) (packedBytes srcFmt) = true)
    (hgood : (sbRead d i.t (val i addr) (packedBytes srcFmt)).2.2 = false) :
    doVcvtUnpack vdst addr srcFmt d i =
      let r := sbRead d i.t (val i addr) (packedBytes srcFmt)
      .done (setV r.1 i vdst ((List.range 128).map fun l =>
        (fp32Round (elemVal srcFmt (packedElem (leNat r.2.1) (fmtWidth srcFmt) l))).toNat)) := by
  obtain ⟨hok, hcons⟩ := ha
  have hform : (opndOk addr && vregOk vdst) = true := by simpa [vregOk, hd] using hok
  have hrange := sbFault_none hal hsb
  unfold val at hrange hgood ⊢
  simp only [doVcvtUnpack, hform, hlo, hhi, hcons, hrange, hgood, and_self, decide_true, guardOk_true, Bool.not_true,
    Bool.false_eq_true, if_false, firstFault_cons_none, firstFault_nil, orFault_none]

end

/-! ### Block scaling (R226, R230) -/

section
variable {elemAddr scaleAddr : Opnd} {fmt : Nat} (ha : readable i [elemAddr, scaleAddr] [i.low])
  (hf : mxFmt fmt = true) (hal : val i elemAddr % 32 = 0) (hsb : sbOk i.seat (val i elemAddr) (packedBytes fmt) = true)
  (hal4 : val i scaleAddr % 4 = 0) (hsb4 : sbOk i.seat (val i scaleAddr) 4 = true)
include ha hf hal hsb hal4 hsb4

/-- VCVT.MX counts what its four blocks of 32 saturate or lose, and writes their elements and their scale bytes. -/
theorem doVcvtMx_scales {vsrc round : Nat} (hs : vsrc < 16) (hm : round ≤ 2) (hc : vConsumed i.seat.ctx vsrc = none)
    (hr : roundFault i round = none) :
    doVcvtMx elemAddr scaleAddr vsrc fmt round d i =
      let r := vroundings d i round
      let blocks := List.zipWith (mxBlock fmt) (pieces 32 ((vals i.seat.ctx vsrc).map (elemVal 1))) (pieces 32 r.2)
      let cs := blocks.flatMap fun b => b.2.1
      let d1 := countArith r.1 i.t (sumSat cs) ((blocks.map fun b => b.2.2).foldl (· + ·) 0) 0
      let d2 := sbWrite d1 i.t (val i elemAddr) (leBytes (packedBytes fmt) (packElems (fmtWidth fmt) (cs.map (·.x)))) false
      .done (sbWrite d2 i.t (val i scaleAddr) (blocks.map fun b => BitVec.ofNat 8 b.1) false) := by
  obtain ⟨hok, hcons⟩ := ha
  have hform : (opndOk elemAddr && opndOk scaleAddr && vregOk vsrc) = true := by simpa [vregOk, hs] using hok
  have hrange := sbFault_none hal hsb
  have hrange4 := sbFault_none hal4 hsb4
  unfold val at hrange hrange4 ⊢
  simp [doVcvtMx, hform, hf, hm, hcons, hc, hr, hrange, hrange4]

/-- VCVT.UNMX writes a vector register with the values of 128 elements under the scales of their blocks, where neither the
elements nor the scales hold poison. -/
theorem doVcvtUnmx_unscales {vdst : Nat} (hd : vdst < 16)
    (hes : (sbRead d i.t (val i elemAddr) (packedBytes fmt)).2.2 = false)
    (hxs : (sbRead (sbRead d i.t (val i elemAddr) (packedBytes fmt)).1 i.t (val i scaleAddr) 4).2.2 = false) :
    doVcvtUnmx vdst elemAddr scaleAddr fmt d i =
      let es := sbRead d i.t (val i elemAddr) (packedBytes fmt)
      let xs := sbRead es.1 i.t (val i scaleAddr) 4
      .done (setV xs.1 i vdst ((List.range 128).map fun l =>
        (mxVal fmt (leAt xs.2.1 (l / 32) 1) (packedElem (leNat es.2.1) (fmtWidth fmt) l)).toNat)) := by
  obtain ⟨hok, hcons⟩ := ha
  have hform : (opndOk elemAddr && opndOk scaleAddr && vregOk vdst) = true := by simpa [vregOk, hd] using hok
  have hrange := sbFault_none hal hsb
  have hrange4 := sbFault_none hal4 hsb4
  unfold val at hrange hrange4 hes hxs ⊢
  simp [doVcvtUnmx, hform, hf, hcons, hrange, hrange4, hes, hxs]

end

end

/-- Settles O24: each instruction issues and goes on by what it answers. -/
theorem conversions : Obligations.Conversions := by
  refine ⟨⟨?cvt, ?vcvt⟩, ?pack, ?unpack, ?mx, ?unmx⟩
  case cvt =>
    intro s t g dst src srcFmt dstFmt round sat d i run hi hd hs hsf hdf hm hc hr
    change execCvt t g dst src srcFmt dstFmt round sat s = _
    exact act_issue_done hi (doCvt_converts hsf hdf hm hr hd hs hc)
  case vcvt =>
    intro s t g vdst vsrc srcFmt dstFmt round sat d i run hi hd hs hsf hdf hm hc hr
    change execVcvt t g vdst vsrc srcFmt dstFmt round sat s = _
    exact act_issue_done hi (doVcvt_converts hsf hdf hm hr hd hs hc)
  case pack =>
    intro s t g addr vsrc dstFmt round sat d i run hi ha hs hdf hm hc hr hal hsb
    change execVcvtPack t g addr vsrc dstFmt round sat s = _
    exact act_issue_done hi (doVcvtPack_packs ha hs hdf hm hc hr hal hsb)
  case unpack =>
    intro s t g vdst addr srcFmt d i run hi ha hd hlo hhi hal hsb r hgood
    change execVcvtUnpack t g vdst addr srcFmt s = _
    exact act_issue_done hi (doVcvtUnpack_unpacks ha hd hlo hhi hal hsb hgood)
  case mx =>
    intro s t g elemAddr scaleAddr vsrc fmt round d i run hi ha hs hf hm hc hr hal hsb hal4 hsb4
    change execVcvtMx t g elemAddr scaleAddr vsrc fmt round s = _
    exact act_issue_done hi (doVcvtMx_scales ha hf hal hsb hal4 hsb4 hs hm hc hr)
  case unmx =>
    intro s t g vdst elemAddr scaleAddr fmt d i run hi ha hd hf hal hsb hal4 hsb4 es xs hes hxs
    change execVcvtUnmx t g vdst elemAddr scaleAddr fmt s = _
    exact act_issue_done hi (doVcvtUnmx_unscales ha hf hal hsb hal4 hsb4 hd hes hxs)

end Sys2Proof.Proofs
end

section
/-! SUPPORT. Draw instructions (R239, R240, R244, R247, R248, R251, R252, R254): what each of them answers at issue where its
seed register, its operands and its stage-buffer range pass the checks of R247 to R252. -/
namespace Sys2Proof.Proofs
open Sys2Proof Sys2Proof.Machine Sys2Proof.Safety Sys2Proof.Laws

/-! ### Checks that pass -/

/-- What is readable after the seed registers exists as an operand of its own. -/
theorem opndOk_of_seeded {i : Iss} {seed : Nat} {ops : List Opnd} {lanes : List Nat}
    (h : readable i (seedOpnds seed ++ ops) lanes) : ops.all opndOk = true := by
  obtain ⟨hok, -⟩ := h
  rw [List.all_append, Bool.and_eq_true] at hok
  exact hok.2

@[simp] theorem randOk_true : randOk true = none := rfl

section
variable {d : Dev} {i : Iss} {seed mode : Nat} (hm : mode ≤ 1) (hs : seedOk seed = true)
include hm hs

/-! ### Elements (R239, R247, R248) -/

/-- RAND draws for each executing lane from the generator of its group and lane. -/
theorem doRand_draws {dst : Nat} {tkey index c : Opnd} (hd : dst < 64)
    (ha : readable i (seedOpnds seed ++ [tkey, index, c]) i.lanes)
    (hr : ∀ l ∈ i.lanes, baseOk (opndVal i l index).val = true ∧ 1 ≤ (opndVal i l c).val ∧ (opndVal i l c).val ≤ 32) :
    doRand dst seed tkey index c mode d i =
      let draw (acc : Dev × List (Nat × Nat × Bool)) (l : Nat) : Dev × List (Nat × Nat × Bool) :=
        let k := keying i seed (opndVal i l tkey).val (opndVal i l index).val mode
        let r := drawBits (tileOf acc.1 i.t) k (opndVal i l c).val [(32 * (i.g % 4) + l, k.base)]
        (putTile acc.1 i.t r.1, acc.2 ++ [(l, r.2.headD 0, false)])
      let r := i.lanes.foldl draw (d, [])
      .done (writeLanes r.1 i (.reg dst) r.2) := by
  have hok := opndOk_of_seeded ha
  obtain ⟨-, hc⟩ := ha
  have hrange : (i.lanes.any fun l => !(baseOk (opndVal i l index).val &&
      decide (1 ≤ (opndVal i l c).val ∧ (opndVal i l c).val ≤ 32))) = false := by
    rw [List.any_eq_false]
    intro l hl
    obtain ⟨hb, hlo, hhi⟩ := hr l hl
    simp [hb, hlo, hhi]
  simp only [doRand, hd, hm, hok, hs, hc, hrange, decide_true, Bool.and_self, guardOk_true, orFault_none, Bool.not_true,
    Bool.false_eq_true, if_false]

section
variable {tkey base : Opnd} (hb : baseOk (val i base) = true)
include hb

/-- VRAND.BITS draws C bits for each vector lane. -/
theorem doVrandBits_draws {vdst : Nat} {c : Opnd} (hd : vdst < 16)
    (ha : readable i (seedOpnds seed ++ [tkey, base, c]) [i.low]) (hlo : 1 ≤ val i c) (hhi : val i c ≤ 32) :
    doVrandBits vdst seed tkey base c mode d i =
      let r := vdraws d i (keying i seed (val i tkey) (val i base) mode) (val i c)
      .done (setV r.1 i vdst r.2) := by
  have hok := opndOk_of_seeded ha
  obtain ⟨-, hc⟩ := ha
  unfold val at hb hlo hhi ⊢
  simp only [doVrandBits, vregOk, hd, hm, hok, hs, hc, hb, hlo, hhi, decide_true, and_self, Bool.and_self, guardOk_true,
    orFault_none, randOk_true, Bool.not_true, Bool.false_eq_true, if_false]

/-- VRAND.UNIF makes an FP32 number of 24 bits for each vector lane. -/
theorem doVrandUnif_draws {vdst : Nat} (hd : vdst < 16) (ha : readable i (seedOpnds seed ++ [tkey, base]) [i.low]) :
    doVrandUnif vdst seed tkey base mode d i =
      let r := vdraws d i (keying i seed (val i tkey) (val i base) mode) 24
      .done (setV r.1 i vdst (r.2.map fun r => (unif r).toNat)) := by
  have hok := opndOk_of_seeded ha
  obtain ⟨-, hc⟩ := ha
  unfold val at hb ⊢
  simp only [doVrandUnif, vregOk, hd, hm, hok, hs, hc, hb, decide_true, Bool.and_self, guardOk_true, orFault_none,
    randOk_true, Bool.not_true, Bool.false_eq_true, if_false]

/-- VRAND.BERN writes a mask of the vector lanes whose 24 bits lie below the probability's. -/
theorem doVrandBern_draws {addr p : Opnd} {q : Nat} (ha : readable i (seedOpnds seed ++ [addr, p, tkey, base]) [i.low])
    (hq : bernQ (w32 (val i p)) = some q) (hal : val i addr % 16 = 0) (hsb : sbOk i.seat (val i addr) 16 = true) :
    doVrandBern addr p seed tkey base mode d i =
      let r := vdraws d i (keying i seed (val i tkey) (val i base) mode) 24
      .done (sbWrite r.1 i.t (val i addr)
        (leBytes 16 (ofBitList ((List.range 128).filter fun l => decide (r.2.getD l 0 < q)))) false) := by
  have hok := opndOk_of_seeded ha
  obtain ⟨-, hc⟩ := ha
  have hrange := sbFault_none hal hsb
  unfold val at hb hq hrange ⊢
  simp only [doVrandBern, hm, hok, hs, hc, hb, hq, hrange, decide_true, Bool.and_self, guardOk_true, orFault_none,
    randOk_true, firstFault_cons_none, firstFault_nil, Bool.not_true, Bool.false_eq_true, if_false]

/-! ### Choices (R251, R252, R254) -/

section
variable {dst : Nat} {addr n : Opnd} (hd : dst < 64) (hlo : 1 ≤ val i n) (hhi : val i n ≤ 65536)
  (hal : val i addr % 4 = 0) (hsb : sbOk i.seat (val i addr) (4 * val i n) = true)
  (hgood : (sbRead d i.t (val i addr) (4 * val i n)).2.2 = false)
include hd hlo hhi hal hsb hgood

/-- VRAND.CAT draws among the weights of the stage buffer, none of which is poisoned. -/
theorem doVrandCat_draws (ha : readable i (seedOpnds seed ++ [addr, n, tkey, base]) [i.low]) :
    doVrandCat dst addr n seed tkey base mode d i =
      let r := sbRead d i.t (val i addr) (4 * val i n)
      .done (writeCat r.1 i dst (keying i seed (val i tkey) (val i base) mode) (weightsOf r.2.1)) := by
  have hok := opndOk_of_seeded ha
  obtain ⟨-, hc⟩ := ha
  have hrange := sbFault_none hal hsb
  unfold val at hb hlo hhi hrange hgood ⊢
  simp only [doVrandCat, hd, hm, hok, hs, hc, hb, hlo, hhi, hrange, hgood, decide_true, and_self, Bool.and_self,
    guardOk_true, orFault_none, randOk_true, firstFault_cons_none, firstFault_nil, Bool.not_true, Bool.false_eq_true, if_false]

/-- VSAMPLE counts the logits that are NaN and samples among the candidates of the rest. -/
theorem doVsample_draws {invT topk topp : Opnd} {greedy : Bool}
    (ha : readable i (seedOpnds seed ++ [addr, n, invT, topk, topp, tkey, base]) [i.low])
    (hsample : sampleOk (val i invT) (val i topk) (w32 (val i topp)) = true) :
    doVsample dst addr n invT topk topp greedy seed tkey base mode d i =
      let r := sbRead d i.t (val i addr) (4 * val i n)
      let xs := scaledLogits r.2.1 (w32 (val i invT))
      .done (writeSample (countRand r.1 i.t (nanCount xs) 0) i dst (keying i seed (val i tkey) (val i base) mode) greedy
        (candidates xs (val i topk) (w32 (val i topp)))) := by
  have hok := opndOk_of_seeded ha
  obtain ⟨-, hc⟩ := ha
  have hrange := sbFault_none hal hsb
  unfold val at hb hlo hhi hrange hgood hsample ⊢
  simp only [doVsample, hd, hm, hok, hs, hc, hb, hlo, hhi, hrange, hgood, hsample, decide_true, and_self, Bool.and_self,
    guardOk_true, orFault_none, randOk_true, firstFault_cons_none, firstFault_nil, Bool.not_true, Bool.false_eq_true, if_false]

end

end

end

/-! ### Generators (R240, R244, R247) -/

section
variable {s : State} {t g run : Nat} {d : Dev} {i : Iss} (hi : issues s t g [] d i run)
include hi

/-- RAND.JUMP jumps the generator that its operand numbers, or every one for 255. -/
theorem execRandJump_jumps {gen : Opnd} (ha : readable i [gen] [i.low]) (hn : val i gen ≤ 127 ∨ val i gen = 255) :
    execRandJump t g gen s =
      let jump (tl : Tile) (k : Nat) : Tile := { tl with gens := tput tl.gens k (genJump (genOf tl k)) }
      after s (advanced (modTile d i.t fun tl => if val i gen = 255 then (List.range 128).foldl jump tl
        else jump tl (val i gen)) i run) := by
  obtain ⟨hok, hc⟩ := ha
  have hform : opndOk gen = true := by simpa using hok
  refine act_issue_done hi ?_
  unfold val at hn ⊢
  simp only [hform, hc, guardOk_true, orFault_none]
  obtain hone | hall := hn
  · have hne : (opndVal i i.low gen).val ≠ 255 := by omega
    simp only [hne, hone, if_false, if_true]
  · simp only [hall, if_true]

/-- RAND.PSEED seeds the tile's generators from the seed pair and the tile's number. -/
theorem execRandPseed_seeds {seed : Nat} (hs : seedOk seed = true) (hc : consumed i (seedOpnds seed) [i.low] = none) :
    execRandPseed t g seed s =
      after s (advanced (modTile d i.t fun tl =>
        { tl with gens := seedGens (keying i seed 0 0 0).lo (keying i seed 0 0 0).hi i.t }) i run) := by
  refine act_issue_done hi ?_
  simp only [hs, hc, orFault_none, Bool.not_true, Bool.false_eq_true, if_false]

end

/-- Settles O25: each instruction issues and goes on by what it answers. -/
theorem draws : Obligations.Draws := by
  refine ⟨⟨?rand, ?jump, ?pseed, ?vbits, ?vunif, ?vbern⟩, ?cat, ?sample⟩
  case rand =>
    intro s t g dst seed tkey index c mode d i run hi hd hm hs ha hr
    change execRand t g dst seed tkey index c mode s = _
    exact act_issue_done hi (doRand_draws hm hs hd ha hr)
  case jump => exact fun s t g gen d i run hi ha hn => execRandJump_jumps hi ha hn
  case pseed => exact fun s t g seed d i run hi hs hc => execRandPseed_seeds hi hs hc
  case vbits =>
    intro s t g vdst seed tkey base c mode d i run hi hd hm hs ha hb hlo hhi
    change execVrandBits t g vdst seed tkey base c mode s = _
    exact act_issue_done hi (doVrandBits_draws hm hs hb hd ha hlo hhi)
  case vunif =>
    intro s t g vdst seed tkey base mode d i run hi hd hm hs ha hb
    change execVrandUnif t g vdst seed tkey base mode s = _
    exact act_issue_done hi (doVrandUnif_draws hm hs hb hd ha)
  case vbern =>
    intro s t g addr p seed tkey base mode d i run q hi hm hs ha hq hb hal hsb
    change execVrandBern t g addr p seed tkey base mode s = _
    exact act_issue_done hi (doVrandBern_draws hm hs hb ha hq hal hsb)
  case cat =>
    intro s t g dst addr n seed tkey base mode d i run hi hd hm hs ha hb hlo hhi hal hsb r hgood
    change execVrandCat t g dst addr n seed tkey base mode s = _
    exact act_issue_done hi (doVrandCat_draws hm hs hb hd hlo hhi hal hsb hgood ha)
  case sample =>
    intro s t g dst addr n invT topk topp greedy seed tkey base mode d i run hi hd hm hs ha hb hlo hhi hsample hal hsb r hgood
    change execVsample t g dst addr n invT topk topp greedy seed tkey base mode s = _
    exact act_issue_done hi (doVsample_draws hm hs hb hd hlo hhi hal hsb hgood ha hsample)

end Sys2Proof.Proofs
end

section
/-! SUPPORT. The entropy source (R234 to R238, log 129): when its health tests fail, and its events and register accesses under
the conditions that their meanings test. -/
namespace Sys2Proof.Proofs
open Sys2Proof Sys2Proof.Machine Sys2Proof.Safety Sys2Proof.Laws

/-! ### The health tests (R234) -/

/-- The test remembers that 41 identical bits have been met. -/
theorem foldl_runNext_met (bs : List Bool) {r : Bool × Nat × Bool} (h : r.2.2 = true) : (bs.foldl runNext r).2.2 = true := by
  induction bs generalizing r with
  | nil => exact h
  | cons b bs ih => exact ih (by simp [runNext, h])

theorem runNext_length_pos (r : Bool × Nat × Bool) (b : Bool) : 1 ≤ (runNext r b).2.1 := by
  unfold runNext
  dsimp only
  split <;> omega

/-- After `n + 1` bits `b` the run is one of `b`, at least as long, and has been noticed if they are 41 or more. -/
theorem foldl_runNext_replicate (r : Bool × Nat × Bool) (b : Bool) (n : Nat) :
    let r' := (List.replicate (n + 1) b).foldl runNext r
    r'.1 = b ∧ n + 1 ≤ r'.2.1 ∧ (41 ≤ n + 1 → r'.2.2 = true) := by
  induction n with
  | zero => exact ⟨rfl, runNext_length_pos r b, by omega⟩
  | succ n ih =>
    rw [List.replicate_succ', List.foldl_append]
    dsimp only at ih
    generalize (List.replicate (n + 1) b).foldl runNext r = r' at ih
    obtain ⟨hbit, hlen, -⟩ := ih
    have hlong : runNext r' b = (b, r'.2.1 + 1, r'.2.2 || decide (r'.2.1 + 1 ≥ 41)) := by
      have hne : r'.2.1 ≠ 0 := by omega
      simp [runNext, hbit, hne]
    simp only [List.foldl_cons, List.foldl_nil, hlong]
    exact ⟨trivial, by omega, fun h => by simp; omega⟩

/-- A run of 41 identical bits anywhere in the window fails the repetition count. -/
theorem healthTest_run {e : Entropy} {raw : List Byte} {pre post : List Bool} {b : Bool}
    (h : rawBits (fitBytes 128 raw) = pre ++ List.replicate 41 b ++ post) : (healthTest e raw).2 = false := by
  have ⟨_, _, hmet⟩ := foldl_runNext_replicate (pre.foldl runNext (e.runBit, e.runLen, false)) b 40
  have hrun := foldl_runNext_met post (hmet (by omega))
  simp only [healthTest, h, List.foldl_append, hrun, Bool.not_true, Bool.false_and]

/-- 640 bits of the window that equal its first fail the adaptive proportion. -/
theorem healthTest_proportion {e : Entropy} {raw : List Byte} {b : Bool} {t : List Bool}
    (h : rawBits (fitBytes 128 raw) = b :: t) (hn : (b :: t).countP (· == b) ≥ 640) : (healthTest e raw).2 = false := by
  have hlike : ¬likeFirst (b :: t) < 640 := Nat.not_lt.mpr hn
  simp only [healthTest, h, hlike, decide_false, Bool.and_false]

/-! ### What a change of the source leaves -/

section
variable (d : Dev) (f : Entropy → Entropy)

@[simp] theorem entropy_modEntropy : (modEntropy d f).entropy = f d.entropy := rfl
@[simp] theorem blkServes_modEntropy (k : Nat) : blkServes (modEntropy d f) k = blkServes d k := rfl
@[simp] theorem modEntropy_modEntropy (g : Entropy → Entropy) :
    modEntropy (modEntropy d f) g = modEntropy d fun e => g (f e) := rfl

end

/-- A source that runs tests its raw bits. -/
theorem entropyTests_of_runs {d : Dev} (h : entropyRuns d = true) : entropyTests d = true := by
  simp only [entropyRuns, Bool.and_eq_true] at h
  obtain ⟨⟨hserves, -⟩, hgood⟩ := h
  simp only [entropyTests, hserves, hgood, Bool.or_true, Bool.and_self]

/-! ### Events (R234 to R236, R238) -/

section
variable {s : State} (hr : runs s)
include hr

/-- Raw bits that pass add 256 conditioned bits to a pool that is not full (R235). -/
theorem execEntropyCondition_pools {raw : List Byte} (hruns : entropyRuns s.dev = true)
    (hroom : s.dev.entropy.pool.length < 512) (hpass : (healthTest s.dev.entropy raw).2 = true) :
    execEntropyCondition raw s = after s (modEntropy s.dev fun e =>
      { e with runBit := (healthTest s.dev.entropy raw).1.1, runLen := (healthTest s.dev.entropy raw).1.2,
               pool := (e.pool ++ shake256 (fitBytes 128 raw) 32).take 512 }) := by
  refine act_eq hr ?_
  have htests := entropyTests_of_runs hruns
  unfold entropyRuns at hruns
  simp only [htests, hpass, entropyRuns, blkServes_modEntropy, entropy_modEntropy, hruns, hroom, decide_true, Bool.and_self,
    Bool.not_true, Bool.false_eq_true, if_false, if_true, modEntropy_modEntropy]

/-- Raw bits that do not pass fail the source (R234, R236). -/
theorem execEntropyCondition_fails {raw : List Byte} (htests : entropyTests s.dev = true)
    (hbad : (healthTest s.dev.entropy raw).2 = false) :
    execEntropyCondition raw s = after s (failHealth (modEntropy s.dev fun e =>
      { e with runBit := (healthTest s.dev.entropy raw).1.1, runLen := (healthTest s.dev.entropy raw).1.2 })) := by
  refine act_eq hr ?_
  simp only [htests, hbad, Bool.not_true, Bool.not_false, Bool.false_eq_true, if_false, if_true]

/-- A test that fails during start-up, or after it on a source that has not failed, fails the source (R236). -/
theorem execEntropyHealthFail_fails {b : Bool} (hserves : blkServes s.dev blkEntropy = true)
    (hb : s.dev.entropy.startup = b) (hgood : b = false → s.dev.entropy.failed = false) :
    execEntropyHealthFail b s = after s (failHealth s.dev) := by
  refine act_eq hr (if_pos ?_)
  cases b
  · simp [hserves, hb, hgood]
  · simp [hserves, hb]

/-- The start-up test passes (R234, R236). -/
theorem execEntropyStartupDone_passes (hserves : blkServes s.dev blkEntropy = true) (hstart : s.dev.entropy.startup = true) :
    execEntropyStartupDone s =
      after s (modEntropy s.dev fun e => { e with startup := false, restart := false, failed := false, runLen := 0 }) :=
  act_eq hr (if_pos (by rw [hserves, hstart]; rfl))

/-- The read that has waited longest takes 64 bits (R238). -/
theorem execEntropyDataDelivered_gives {r : Req} {rest : List Req} (hw : s.dev.entropy.waiting = r :: rest)
    (hgives : entropyGives s.dev = true) :
    execEntropyDataDelivered s = after s (entropyTake (modEntropy s.dev fun e => { e with waiting := rest }) r) := by
  refine act_eq hr ?_
  simp only [hw, hgives, if_true]

end

/-! ### Register accesses (R237, R238) -/

section
variable {d : Dev} {off bytes : Nat} {t : RegDef} {ix : List Nat}

/-- A read whose rule answers by itself, at once or later. -/
theorem withRead_none {e : Dev} (h : readableAt d off bytes t ix) (r : Req) {f : Dev → RegDef → List Nat → Dev × Option Nat}
    (hf : f d t ix = (e, none)) : withRead d r off bytes f = e := by
  obtain ⟨hsize, hreg, hgate, hacts⟩ := h
  have hacts' : ¬(t.actsR && decide (bytes = 4)) = true := by simpa using hacts
  unfold withRead
  simp only [hsize, hreg, hgate, hf, Bool.not_true, Bool.false_eq_true, if_false, if_neg hacts']

/-- A 1 in RESTART starts the start-up test again, unless the failure is latched (R237). -/
theorem writeEntropyStatus_restarts {v : DWord} (hw : writable d off bytes v t ix)
    (hv : bitAt (accessValue off bytes v) 3 = true) (hl : d.entropy.latched = false) (r : Req) :
    writeEntropyStatus d r off bytes v = modEntropy d fun e => { e with restart := true, startup := true, runLen := 0 } := by
  unfold writeEntropyStatus
  rw [withWrite_eq hw, hv, hl]
  rfl

/-- A read takes 64 bits where no other read waits and the source gives them, and waits otherwise (R234, R238). -/
theorem readEntropyData_eq (h : readableAt d off bytes t ix) (hgood : d.entropy.failed = false) (r : Req) :
    readEntropyData d r off bytes =
      if d.entropy.waiting = [] ∧ entropyGives d = true then entropyTake d r
      else modEntropy d fun e => { e with waiting := e.waiting ++ [r] } := by
  refine withRead_none h r ?_
  simp only [hgood, Bool.false_eq_true, if_false, Bool.and_eq_true, List.isEmpty_iff]
  split <;> rfl

end

/-- Settles O26: each event and access meets the condition that its meaning tests and has that effect. -/
theorem entropySource : Obligations.EntropySource := by
  refine ⟨?pools, ?fails, ?run, ?proportion, ?fault, ?restart, ?started, ?read, ?delivered⟩
  case pools => exact fun s raw hr hruns hroom hpass => execEntropyCondition_pools hr hruns hroom hpass
  case fails => exact fun s raw hr htests hbad => execEntropyCondition_fails hr htests hbad
  case run => exact fun e raw pre b post h => healthTest_run h
  case proportion => exact fun e raw b t h hn => healthTest_proportion h hn
  case fault => exact fun s b hr hserves hb hgood => execEntropyHealthFail_fails hr hserves hb hgood
  case restart =>
    intro s r off bytes v t hr hw hoff hv hl
    change execEntropyRestart r off bytes v s = _
    exact act_eq hr ((if_pos hoff).trans (writeEntropyStatus_restarts hw hv hl r))
  case started => exact fun s hr hserves hstart => execEntropyStartupDone_passes hr hserves hstart
  case read =>
    intro s r off bytes t hr h hoff hgood
    change execEntropyDataRead r off bytes s = _
    exact act_eq hr ((if_pos hoff).trans (readEntropyData_eq h hgood r))
  case delivered => exact fun s r rest hr hw hgives => execEntropyDataDelivered_gives hr hw hgives

end Sys2Proof.Proofs
end

section
/-! SUPPORT. Transfers (R268 to R281, R314): how MOVE.START, the MOVER record and MOVER_SUBMIT put a command that passes its
checks into the queue of its mover, and what each event of a mover does where its condition holds. -/
namespace Sys2Proof.Proofs
open Sys2Proof Sys2Proof.Machine Sys2Proof.Safety Sys2Proof.Laws

/-! ### Starts -/

/-- The operand forms of an instruction that writes one register and reads the operands of a list are valid. -/
theorem dstReg_form {dst : Nat} {ops : List Opnd} (hd : dst < 64) (hok : ops.all opndOk = true) :
    (dstOk (.reg dst) && ops.all opndOk) = true := by
  rw [hok, Bool.and_true]
  exact decide_eq_true hd

section
variable {d e : Dev} {i : Iss} {dst : Nat} {addr space mover : Opnd} {c : MoverCmd}
variable (hd : dst < 64) (hops : readable i [addr, space, mover] [i.low]) (hm : val i mover ≤ 7)
include hd hops hm

/-- MOVE.START queues the command that it reads at an aligned place of its seat's stage buffer (R274, R275). -/
theorem doMoveStart_stageBuffer (hsp : val i space % 2 = 0) (hal : val i addr % 64 = 0)
    (hsb : sbOk i.seat (val i addr) 512 = true) (hblk : blkAccepts d (blkMover (val i mover)) = true)
    (hc : let r := sbRead d i.t (val i addr) 512
      checkMover r.1 (val i mover) r.2.1 (some (tilesOf r.1 i.cv)) = .ok c) :
    doMoveStart dst addr space mover d i =
      .done (writeAll (addXfer (sbRead d i.t (val i addr) 512).1 (val i mover) .queued { c with hue := i.stage.hue }
        (.stage i.cv)).1 i (.reg dst) stOk.toNat) := by
  obtain ⟨hok, hcons⟩ := hops
  unfold val at *
  rw [doMoveStart, dstReg_form hd hok, hcons, guardOk_true, orFault_none]
  simp [hsp, hal, hsb, Nat.not_lt.mpr hm, hblk, hc]

/-- MOVE.START queues the command that it reads in device-local memory (R274, R275). -/
theorem doMoveStart_memory (hsp : val i space % 2 = 1)
    (hf : fetchMover d (val i mover) (val i addr) (some (tilesOf d i.cv)) = (e, some (.ok c))) :
    doMoveStart dst addr space mover d i =
      .done (writeAll (addXfer e (val i mover) .queued { c with hue := i.stage.hue } (.stage i.cv)).1 i (.reg dst)
        stOk.toNat) := by
  obtain ⟨hok, hcons⟩ := hops
  unfold val at *
  rw [doMoveStart, dstReg_form hd hok, hcons, guardOk_true, orFault_none]
  simp [hsp, Nat.not_lt.mpr hm, hf]

end

/-- The record names the command's address and its mover (R447), and the transfer ends the operation (R276). -/
theorem handleMover_queues {d d1 e : Dev} {w : Win} {op : Nat} {c : MoverCmd}
    (hf : fetchMover d1 (argOf d w 1) (argOf d w 0) none = (e, some (.ok c))) :
    handleMover d1 (windowRecord d w) (some op) =
      (some stOk, setOpHue (addXfer e (argOf d w 1) .queued c (.op op)).1 (some op) c.hue) := by
  unfold argOf at *
  simp only [handleMover, hf, Option.getD_some]

section
variable {d e : Dev} {m val : Nat}

/-- A submit whose command passes its checks is queued, and the receipt counts it with ST_OK (R280, R281). -/
theorem moverSubmitRule_queues {c : MoverCmd} (hf : fetchMover d m (bits val 47 0) none = (e, some (.ok c))) (r : Req) :
    moverSubmitRule d r m val = moverReceipt (addXfer e m .queued c .firmware).1 m stOk := by
  simp only [moverSubmitRule, submitMover, hf, Option.getD_none]

/-- A submit whose command read waits for the host is taken up again, and the receipt does not count it yet (R314). -/
theorem moverSubmitRule_waits (hf : fetchMover d m (bits val 47 0) none = (e, none)) (r : Req) :
    moverSubmitRule d r m val = waitFor e (.moverSubmit r m 8 (BitVec.ofNat 64 val)) := by
  simp only [moverSubmitRule, submitMover, hf]

end

theorem exec_moverSubmit {s : State} {rind bytes : Nat} {v : DWord} {t : RegDef} {ix : List Nat} (hr : runs s)
    (hw : writable s.dev (regOff .moverSubmit [rind % 8]) bytes v t ix) (r : Req) :
    exec (.moverSubmit r rind bytes v) s =
      after s (moverSubmitRule s.dev r (rind % 8) (accessValue (regOff .moverSubmit [rind % 8]) bytes v)) :=
  show execMoverSubmit r rind bytes v s = _ from act_eq hr (withWrite_eq hw r _)

/-! ### Blocks as a cue fires -/

/-- A block that is ON serves (R509). -/
theorem blkServes_of_blkOn {d : Dev} {k : Nat} (h : blkOn d k = true) : blkServes d k = true := by
  have hst : blkState d k = .on := by simpa [blkOn] using h
  unfold blkServes
  rw [hst]

/-- What leaves `rest` as it was leaves the blocks as they were. -/
theorem blkOn_of_rest {d e : Dev} (h : rest e = rest d) (k : Nat) : blkOn e k = blkOn d k :=
  show blkOn (rest e) k = blkOn (rest d) k by rw [h]

/-- A late cue is counted, and no more (R104). -/
@[simp] theorem rest_countLate (d : Dev) (u : CueUnit) (n : Nat) : rest (countLate d u n) = rest d := by
  cases u <;> exact rest_regBump ..

@[simp] theorem rest_noteFire (d : Dev) (c : Cue) : rest (noteFire d c) = rest d := by
  unfold noteFire
  dsimp only
  repeat' split
  all_goals simp

@[simp] theorem blkOn_takeCue (d : Dev) (c : Cue) (k : Nat) : blkOn (takeCue d c) k = blkOn d k :=
  blkOn_of_rest (d := d) (e := noteFire d c) (rest_noteFire d c) k

/-- The reserved transfer of a MOVER_START joins the queue where its mover is ON (R276). -/
theorem fireMover_queues {d : Dev} {r id : Nat} {c : Cue} (hx : c.xfer = some id) (hon : blkOn d (blkMover r) = true) :
    fireMover d r c = queueReserved (takeCue d c) id := by
  unfold fireMover
  simp only [hx, blkOn_takeCue, hon, if_true]

/-! ### Events -/

/-- The elements of an active transfer move outside a compute reset (R276, R279). -/
theorem moves_of_active {d : Dev} {x : Transfer} (hst : x.st = .active) (hreset : d.creset.active = false) :
    (decide (x.st ≠ .active) || d.creset.active) = false := by simp [hst, hreset]

section
variable {s : State} {rind : Nat} {x : Transfer} (hr : runs s)
include hr

/-- The oldest queued transfer takes the lowest free place, and sends at once where a side of it is a peer's (R276). -/
theorem execTransferActivate_takes {p : Nat} (hon : blkOn s.dev (blkMover rind) = true) (hreset : s.dev.creset.active = false)
    (hx : s.dev.xfers.find? (fun x => x.rind == rind && x.st == .queued) = some x) (hp : freePlace s.dev rind = some p) :
    execTransferActivate rind s =
      let y := { x with st := .active, place := p }
      let d := startNexts (modXfer s.dev x.id fun _ => y) rind
      after s (if x.cmd.peerSide = 0 then d else walkXfer d y (elemCount x.cmd)) := by
  have hserves := blkServes_of_blkOn hon
  refine act_eq hr ?_
  simp only [hon, hserves, hreset, hx, hp, Bool.true_or, Bool.and_true, Bool.not_true, Bool.or_self, Bool.false_eq_true,
    if_false]

section
variable {place : Nat} (hx : activeAt s.dev rind place = some x)
include hx

/-- A failing transfer whose accesses are done ends with the status that its error left (R276); in a compute reset only an
aborted one does (R279). -/
theorem execTransferFailed_ends (hst : x.st = .failing) (hwait : x.waiting = 0)
    (hreset : s.dev.creset.active = false ∨ x.status = stMoverAborted) :
    execTransferFailed rind place s = after s (endXfer s.dev x x.status) := by
  have hends : (x.st == .failing && x.waiting == 0 && (!s.dev.creset.active || x.status == stMoverAborted)) = true := by
    rcases hreset with h | h <;> simp [hst, hwait, h]
  refine act_eq hr ?_
  simp only [hx, hends, if_true]

variable (hst : x.st = .active) (hreset : s.dev.creset.active = false)
include hst hreset

/-- The rest of the elements move; the transfer completes when all have and nothing is unanswered (R273, R276). -/
theorem execTransferDone_walks {y : Transfer} (hy : activeAt (walkXfer s.dev x (elemCount x.cmd)) rind place = some y) :
    execTransferDone rind place s =
      let d := walkXfer s.dev x (elemCount x.cmd)
      after s (if y.st = .active ∧ elemCount y.cmd ≤ y.moved ∧ y.waiting = 0 ∧ fetched d y.cmd = true then endXfer d y stOk
        else d) := by
  refine act_eq hr ?_
  simp only [hx, moves_of_active hst hreset, hy, Bool.false_eq_true, if_false, Bool.and_eq_true, beq_iff_eq,
    decide_eq_true_eq, ge_iff_le, and_assoc]

/-- The elements before the error move, and its status then ends the transfer (R276, R278). -/
theorem execTransferError_fails {elems : Nat} {cause : XferCause} {st : Half} (hc : causeStatus x cause = some st) :
    execTransferError rind place elems cause s = after s (failXfer (walkXfer s.dev x elems) x.id st) := by
  refine act_eq hr ?_
  simp only [hx, moves_of_active hst hreset, hc, Bool.false_eq_true, if_false]
  cases cause with
  | unbacked => cases hc
  | crcFinal | peer _ | errorResponse _ => rfl

/-- An unbacked address is met by the element that names it (R276). -/
theorem execTransferError_unbacked (elems : Nat) :
    execTransferError rind place elems .unbacked s = after s (walkXfer s.dev x (elemCount x.cmd)) := by
  refine act_eq hr ?_
  simp only [hx, moves_of_active hst hreset, causeStatus, Bool.false_eq_true, if_false]

end
end

/-- Settles O27: each start by what it answers where its command passes the checks, each event by its condition. -/
theorem transfers : Obligations.Transfers := by
  refine ⟨⟨?stageBuffer, ?memory, ?record, ?submit, ?submitWaits⟩, ?activate, ?done, ?error, ?unbacked, ?failed, ?fires⟩
  case stageBuffer =>
    intro s t g dst addr space mover d i run c hi hd hops hsp hal hsb hm hblk r hc
    change execMoveStart t g dst addr space mover s = _
    exact act_issue_done hi (doMoveStart_stageBuffer hd hops hm hsp hal hsb hblk hc)
  case memory =>
    intro s t g dst addr space mover d i run d2 c hi hd hops hsp hm hf
    change execMoveStart t g dst addr space mover s = _
    exact act_issue_done hi (doMoveStart_memory hd hops hm hsp hf)
  case record =>
    intro s w d1 op h d2 c hr ha hf
    change execMover w s = _
    exact act_submitAs_long hr ha rfl (handleMover_queues hf)
  case submit =>
    intro s r rind bytes v t ix d2 c hr hw hf
    rw [exec_moverSubmit hr hw, moverSubmitRule_queues hf]
  case submitWaits =>
    intro s r rind bytes v t ix d2 hr hw a hf
    rw [exec_moverSubmit hr hw, moverSubmitRule_waits hf]
  case activate => exact fun s rind x p hr hon hreset hx hp => execTransferActivate_takes hr hon hreset hx hp
  case done => exact fun s rind place x y hr hx hst hreset hy => execTransferDone_walks hr hx hst hreset hy
  case error =>
    exact fun s rind place elems x cause st hr hx hst hreset hc => execTransferError_fails hr hx hst hreset hc
  case unbacked => exact fun s rind place elems x hr hx hst hreset => execTransferError_unbacked hr hx hst hreset elems
  case failed =>
    exact fun s rind place x hr hx hst hwait hreset => execTransferFailed_ends hr hx hst hwait hreset
  case fires =>
    intro s r c id hr hn hact hx hon
    change execMoverStartFires r s = _
    refine act_eq hr ?_
    simp only [hn, hact, ne_eq, not_true_eq_false, if_false]
    exact fireMover_queues hx hon

end Sys2Proof.Proofs
end

section
/-! SUPPORT. Homes (R287): the home slice of a line is its number within its block, XORed with the fold of the block's number,
so within one block the lines and the slices correspond one to one. -/
namespace Sys2Proof.Proofs
open Sys2Proof Sys2Proof.Machine Sys2Proof.Safety Sys2Proof.Laws

theorem homeFold_eq (b : Nat) : homeFold b = bits b 7 0 ^^^ bits b 15 8 ^^^ bits b 23 16 ^^^ bits b 29 24 :=
  (Nat.xor_assoc (bits b 7 0 ^^^ bits b 15 8) (bits b 23 16) (bits b 29 24)).symm

theorem homeFold_lt (b : Nat) : homeFold b < 256 := by
  have field {hi lo : Nat} (h : hi + 1 - lo ≤ 8) : bits b hi lo < 2 ^ 8 :=
    lt_of_lt_of_le (Nat.mod_lt _ (by positivity)) (Nat.pow_le_pow_right (by decide) h)
  rw [homeFold_eq]
  exact Nat.xor_lt_two_pow (Nat.xor_lt_two_pow (Nat.xor_lt_two_pow (field (by decide)) (field (by decide)))
    (field (by decide))) (field (by decide))

theorem homeSlice_line (block : Nat) {line : Nat} (h : line < 256) :
    homeSlice (block * 2 ^ 18 + line * 1024) = line ^^^ homeFold (block % 2 ^ 30) := by
  have hline : bits (block * 2 ^ 18 + line * 1024) 17 10 = line := by
    rw [bits, Nat.shiftRight_eq_div_pow]; omega
  have hblock : bits (block * 2 ^ 18 + line * 1024) 47 18 = block % 2 ^ 30 := by
    rw [bits, Nat.shiftRight_eq_div_pow]; omega
  rw [homeSlice, hline, hblock]
  rfl

/-- Settles O10: the formulas by `homeFold_eq`; the line of a block in a slice is the slice XORed with the block's fold. -/
theorem homesSpread : Obligations.HomesSpread := by
  refine ⟨?formulas, fun block slice hs => ?spread⟩
  case formulas =>
    intro a b f
    have hf : homeFold b = f := homeFold_eq b
    rw [← hf]
    exact ⟨rfl, rfl⟩
  case spread =>
    have hlt : slice ^^^ homeFold (block % 2 ^ 30) < 2 ^ 8 := Nat.xor_lt_two_pow hs (homeFold_lt _)
    refine ⟨slice ^^^ homeFold (block % 2 ^ 30), hlt, ?_, fun l hl h => ?_⟩
    · rw [homeSlice_line block hlt, Nat.xor_xor_cancel_right]
    · rwa [homeSlice_line block hl, xor_eq_iff_left_eq] at h

end Sys2Proof.Proofs
end

section
/-! SUPPORT. The Kreten die's own events (R290, R296, R297, R299, R307): each event under the condition that it tests. -/
namespace Sys2Proof.Proofs
open Sys2Proof Sys2Proof.Machine Sys2Proof.Safety Sys2Proof.Laws

/-- A write-back whose line the buffer still holds after its array is read goes out under the line's hue (R299, R387). -/
theorem finishWb_writes {d : Dev} {slice idx : Nat} {tl : Bool} {x : WbEntry}
    (hx : findWb (sliceOf (scrubBuffer d slice idx tl) slice) idx tl = some x) :
    finishWb d slice idx tl = dropWb (writeBackUnder (scrubBuffer d slice idx tl) x.line.hue x.line) slice idx tl := by
  simp only [finishWb, hx, Option.getD_none]

section
variable {s : State} {k : Nat} (hr : runs s) (hk : k < 256)
variable (hw : 2 ^ (regField s.dev .krThrashCfg [] 19 16 + 10) ≤ (sliceOf s.dev k).winAcc)
include hr hk hw

/-- The end of a full window zeroes its counts, and then looks whether its hits were too few (R307). -/
theorem execThrashWindowEnd_full :
    execThrashWindowEnd k s =
      let sl := sliceOf s.dev k
      let d := putSlice s.dev k { sl with winHits := 0, winAcc := 0 }
      after s (if regBit s.dev .krThrashCfg [] 0 = true ∧ sl.winHits * 256 < sl.winAcc * regField s.dev .krThrashCfg [] 31 24
        then regSetBit (if regBit d .krThrashFlag [k / 64] (k % 64) = true then d else logErr d stKrThrash ukSlice k 3)
          .krThrashFlag [k / 64] (k % 64)
        else d) := by
  have hfull : ¬(decide (k ≥ 256) || decide ((sliceOf s.dev k).winAcc <
      2 ^ (regField s.dev .krThrashCfg [] 19 16 + 10))) = true := by
    simp [Nat.not_le.mpr hk, Nat.not_lt.mpr hw]
  refine act_eq hr ?_
  dsimp only
  rw [if_neg hfull, ← ite_not]
  simp only [Bool.not_eq_true', Bool.not_eq_false, Bool.and_eq_true, decide_eq_true_eq]

end

/-- Settles O34: each event meets the condition that it tests; the write-back by `finishWb_writes`, the window by
`execThrashWindowEnd_full`. -/
theorem kretenEvents : Obligations.KretenEvents := by
  refine ⟨?fill, ?writeback, ?drained, ?window⟩
  case fill =>
    intro s slice line f hr hf
    change execFillLands slice line s = _
    exact act_eq hr (by rw [hf])
  case writeback =>
    intro s slice line w x hr hw d hx
    change execWritebackDone slice line s = _
    refine act_eq hr ?_
    rw [hw]
    exact finishWb_writes hx
  case drained =>
    intro s n hr hn hb v
    change execKrTlrDrained n s = _
    exact act_eq hr (if_neg (by simp [hn, hb]))
  case window =>
    intro s k hr hk hw sl d below
    change (¬below → execThrashWindowEnd k s = _) ∧ (below → execThrashWindowEnd k s = _)
    rw [execThrashWindowEnd_full hr hk hw]
    exact ⟨fun h => congrArg (after s) (if_neg h), fun h => congrArg (after s) (if_pos h)⟩

end Sys2Proof.Proofs
end

section
/-! SUPPORT. Tile-local regions by KR_TLR (R289, R290) and preserves (R300 to R306): what the register's rule and the handlers
of the two commands do where their checks pass. -/
namespace Sys2Proof.Proofs
open Sys2Proof Sys2Proof.Machine Sys2Proof.Safety Sys2Proof.Laws

/-! ### Tile-local regions -/

section
variable {d : Dev} {n bytes : Nat} {v : DWord} {t : RegDef} (hw : writable d (regOff .krTlr [n]) bytes v t [n])
variable (hbusy : bitAt (regGet d .krTlr [n]) 62 = false)
include hw hbusy

/-- A range that is backed and free is being set: it reads BUSY, and not yet VALID (R290). -/
theorem writeKrTlr_sets {b sz : Nat} (hspan : tlrSpan (written d t [n] (regOff .krTlr [n]) bytes v) = (b, sz))
    (hold : bitAt (regGet d .krTlr [n]) 63 = false) (hnew : bitAt (written d t [n] (regOff .krTlr [n]) bytes v) 63 = true)
    (hsz : sz ≠ 0) (hb : backed d b sz = true) (htlr : hitsTlr d b sz (some n) = false) (hsp : hitsSpill d b sz = false)
    (hpr : hitsPreserve d b sz = false) (hpip : hitsPipr d b sz = false) (hfix : hitsFixed d b sz = false) (r : Req) :
    writeKrTlr d r (regOff .krTlr [n]) bytes v =
      regPut d .krTlr [n] (putBit (putBit (written d t [n] (regOff .krTlr [n]) bytes v) 63 false) 62 true) := by
  unfold written at *
  rw [writeKrTlr, withWrite_eq hw]
  simp [hbusy, hold, hnew, hspan, hsz, hb, htlr, hsp, hpr, hpip, hfix]

/-- A write that clears VALID of a region in force begins its end, and changes nothing else (R290). -/
theorem writeKrTlr_clears (hold : bitAt (regGet d .krTlr [n]) 63 = true)
    (hnew : bitAt (written d t [n] (regOff .krTlr [n]) bytes v) 63 = false) (r : Req) :
    writeKrTlr d r (regOff .krTlr [n]) bytes v = regPut d .krTlr [n] (putBit (regGet d .krTlr [n]) 62 true) := by
  unfold written at *
  rw [writeKrTlr, withWrite_eq hw]
  simp [hbusy, hold, hnew]

end

/-! ### Preserves -/

section
variable {d : Dev} {r : CmdRec} {op : Option Nat}

/-- A create that passes its checks takes an entry and its pins (R302 to R304). `ht` is rewritten before `hc`: to drop the
outer match while `takePreserve` stands in the inner one makes the kernel run the search of R302. -/
theorem handlePreserveCreate_takes {d2 : Dev} {id : Nat} (hc : createCheck d (r.args.getD 0 0) (r.args.getD 1 0) = none)
    (ht : takePreserve d (r.args.getD 0 0) (r.args.getD 1 0) none (r.args.getD 2 0 == 1) op = some (d2, id)) :
    handlePreserveCreate d r op = (some stOk, d2) := by
  rw [handlePreserveCreate, ht, hc]

/-- A preserve of software that no release has named is released (R306). -/
theorem handlePreserveRelease_names {p : Preserve} (hp : tfind d.preserves (bits (r.args.getD 0 0) 7 0) = some p)
    (hcv : p.canvas = none) (hrel : p.releaseOp = none) :
    handlePreserveRelease d r op =
      let q := { p with releaseOp := op, mode1 := bitAt (r.args.getD 0 0) 8 }
      (some stOk, { d with preserves := tput d.preserves (bits (r.args.getD 0 0) 7 0) q }) := by
  simp only [handlePreserveRelease, hp, hcv, hrel, Option.isSome_none, Bool.or_self, Bool.false_eq_true, if_false]

end

/-- Settles O35: the register's writes by its rule, the commands by their handlers, the completions by the operation that the
entry names. -/
theorem tileLocalAndPreserves : Obligations.TileLocalAndPreserves := by
  refine ⟨⟨?set, ?clear⟩, ?create, ?createDone, ?release, ?releaseDone⟩
  case set =>
    intro s r n bytes v t hr hn hv hw hbusy hold x hnew b sz hsz hb htlr hsp hpr hpip hfix
    change execKrTlrSet r n bytes v s = _
    refine act_eq hr ((if_pos (by simp [hn, hv])).trans ?_)
    exact writeKrTlr_sets hw hbusy rfl hold hnew hsz hb htlr hsp hpr hpip hfix r
  case clear =>
    intro s r n bytes v t hr hn hv hw hbusy hold hnew
    change execKrTlrClear r n bytes v s = _
    exact act_eq hr ((if_pos (by simp [hn, hv])).trans (writeKrTlr_clears hw hbusy hold hnew r))
  case create =>
    intro s w d1 op h d2 id hr ha hc ht
    change execPreserveCreate w s = _
    exact act_submitAs_long hr ha rfl (handlePreserveCreate_takes hc ht)
  case createDone =>
    intro s id p op hr hp hop hreset
    change execPreserveCreateDone id s = _
    refine act_eq hr ?_
    simp only [hp, hop, hreset, Bool.false_eq_true, if_false]
  case release =>
    intro s w d1 op h p hr ha hp hcv hrel
    change execPreserveRelease w s = _
    exact act_submitAs_long hr ha rfl (handlePreserveRelease_names hp hcv hrel)
  case releaseDone =>
    intro s id p op hr hp hop hcreate hreset
    change execPreserveReleaseDone id s = _
    refine act_eq hr ?_
    simp only [hp, hop, hcreate, hreset, Bool.false_eq_true, if_false]

end Sys2Proof.Proofs
end

section
/-! SUPPORT. Bands (R324, R325): the interleave cuts a line's number into the digits stack, pseudo-channel, bank and row, and
turns each digit by an amount that the digits above it give. The turn of a digit can be undone, so the interleave can. -/
namespace Sys2Proof.Proofs
open Sys2Proof Sys2Proof.Machine Sys2Proof.Safety Sys2Proof.Laws

/-! ### Turned digits -/

/-- The digit of base `n` that a turn by `k` takes to `z`. -/
def turnBack (n k z : Nat) : Nat := (z + (n - k % n)) % n

theorem turnBack_lt {n : Nat} (hn : 0 < n) (k z : Nat) : turnBack n k z < n := Nat.mod_lt _ hn

theorem turn_eq_iff {n w z : Nat} (hw : w < n) (hz : z < n) (k : Nat) : (w + k) % n = z ↔ w = turnBack n k z := by
  have hk : k % n < n := Nat.mod_lt _ (by omega)
  have hback : turnBack n k z = if k % n ≤ z then z - k % n else z + (n - k % n) := by
    unfold turnBack
    split
    · rw [show z + (n - k % n) = z - k % n + n by omega, Nat.add_mod_right, Nat.mod_eq_of_lt (by omega)]
    · rw [Nat.mod_eq_of_lt (by omega)]
  have hturn : (w + k) % n = if w + k % n < n then w + k % n else w + k % n - n := by
    rw [← Nat.add_mod_mod]
    split
    · rw [Nat.mod_eq_of_lt (by omega)]
    · rw [Nat.mod_eq_sub_mod (by omega), Nat.mod_eq_of_lt (by omega)]
  rw [hback, hturn]
  split <;> split <;> omega

/-- The number whose digit above is `hi` and whose digit of base `n` turns to `z`, by an amount that `hi` gives. -/
theorem eq_turnBack_add_iff {n z : Nat} (hz : z < n) (f : Nat → Nat) (y hi : Nat) :
    y = turnBack n (f hi) z + n * hi ↔ (y % n + f (y / n)) % n = z ∧ y / n = hi := by
  have hn : 0 < n := by omega
  rw [turn_eq_iff (Nat.mod_lt _ hn) hz]
  constructor
  · intro h
    obtain ⟨hdiv, hmod⟩ := (Nat.div_mod_unique hn).mpr ⟨h.symm, turnBack_lt hn (f hi) z⟩
    exact ⟨by rw [hdiv, hmod], hdiv⟩
  · rintro ⟨hmod, rfl⟩
    rw [← hmod, Nat.mod_add_div]

/-! ### The address of a place -/

/-- A place that HBM of `n` stacks has. -/
def Placed (n : Nat) (p : Loc) : Prop := p.stack < n ∧ p.pc < 32 ∧ p.bank < 48 ∧ p.byte < 1024

/-- The numbers y, x and l of R324 of the line at a place. -/
def bankLine (p : Loc) : Nat := turnBack 48 (p.row % 48) p.bank + 48 * p.row
def pcLine (p : Loc) : Nat := turnBack 32 (fold5 (bankLine p)) p.pc + 32 * bankLine p
def stackLine (n : Nat) (p : Loc) : Nat := turnBack n (fold4 (pcLine p)) p.stack + n * pcLine p

/-- The address that the interleave puts at a place (R324). -/
def addrAt (n : Nat) (p : Loc) : Nat := p.byte + 1024 * stackLine n p

theorem line_of_lt {a : Nat} (h : a < 2 ^ 40) : bits a 39 10 = a / 1024 := by
  rw [bits, Nat.shiftRight_eq_div_pow]; omega

/-- At a place lies the address `addrAt`, and no other. -/
theorem interleave_eq_iff {n a : Nat} {p : Loc} (ha : a < 2 ^ 40) (hp : Placed n p) :
    interleave n a = p ↔ a = addrAt n p := by
  obtain ⟨hs, hpc, hb, hy⟩ := hp
  have hline : a = addrAt n p ↔ a % 1024 = p.byte ∧ a / 1024 = stackLine n p := by
    rw [addrAt]; omega
  rw [hline, stackLine, eq_turnBack_add_iff hs, pcLine, eq_turnBack_add_iff hpc, bankLine, eq_turnBack_add_iff hb (· % 48),
    interleave, line_of_lt ha]
  obtain ⟨stack, pc, bank, row, byte⟩ := p
  simp only [Loc.mk.injEq]
  tauto

/-- The address of a place of row `r` lies in band `r` (R325). -/
theorem addrAt_mem_band {n : Nat} {p : Loc} (hn : n = 12 ∨ n = 16) (hp : Placed n p) :
    p.row * (1536 * n * 1024) ≤ addrAt n p ∧ addrAt n p < (p.row + 1) * (1536 * n * 1024) := by
  obtain ⟨hs, -, -, hy⟩ := hp
  have hstack : turnBack n (fold4 (pcLine p)) p.stack < n := turnBack_lt (by omega) ..
  have hpc : turnBack 32 (fold5 (bankLine p)) p.pc < 32 := turnBack_lt (by decide) ..
  have hbank : turnBack 48 (p.row % 48) p.bank < 48 := turnBack_lt (by decide) ..
  unfold addrAt stackLine
  generalize turnBack n (fold4 (pcLine p)) p.stack = z at *
  unfold pcLine
  generalize turnBack 32 (fold5 (bankLine p)) p.pc = z at *
  unfold bankLine
  rcases hn with rfl | rfl <;> omega

/-! ### What lies above the last band -/

/-- 43,690 rows of 48 banks leave 32 numbers y of R324, whose banks are turned by 43,690 mod 48 = 10 (R325). -/
theorem interleave_above_bands {n a : Nat} (hn : n = 12 ∨ n = 16) (ha : a < n * 2 ^ 36)
    (htop : 43690 * (1536 * n * 1024) ≤ a) :
    (interleave n a).row = 43690 ∧ 10 ≤ (interleave n a).bank ∧ (interleave n a).bank < 42 := by
  rw [interleave, line_of_lt (by omega)]
  dsimp only
  rcases hn with rfl | rfl <;> omega

/-- Settles O11, by the address of a place. -/
theorem bandsFillRows : Obligations.BandsFillRows := by
  refine ⟨?fill, ?top⟩
  case fill =>
    intro n stack pc bank r byte hn hs hpc hb hr hy at_
    have hp : Placed n at_ := ⟨hs, hpc, hb, hy⟩
    obtain ⟨hlo, hhi⟩ := addrAt_mem_band hn hp
    have hrow : at_.row < 43690 := hr
    have ha : addrAt n at_ < 2 ^ 40 := by
      rcases hn with rfl | rfl <;> omega
    exact ⟨addrAt n at_, (interleave_eq_iff ha hp).mpr rfl, hlo, hhi,
      fun b hb' h => (interleave_eq_iff (by omega) hp).mp h⟩
  case top =>
    intro n a hn ha
    exact ⟨Nat.mod_lt _ (by omega), Nat.mod_lt _ (by decide), Nat.mod_lt _ (by decide), interleave_above_bands hn ha⟩

end Sys2Proof.Proofs
end

section
/-! SUPPORT. Pip-aligned regions (R328): the mapping keeps each offset of a region, which can be computed back from its place,
and a stripe, one span of every bank, moves a place by a span of rows. -/
namespace Sys2Proof.Proofs
open Sys2Proof Sys2Proof.Machine Sys2Proof.Safety Sys2Proof.Laws

/-- The offset that a region puts at a place: `pipMap` undone. -/
def pipOffset (n : Nat) (r : PipRegion) (l : Loc) : Nat :=
  let span := 2 ^ r.spanLog * 1024
  let b := (l.row - r.first) * 1024 + l.byte
  (b / span * (1536 * n) + (l.stack + n * (l.pc + 32 * l.bank))) * span + b % span

/-- The digits of a bank's number in a stripe put it together again. -/
theorem bank_digits (n k : Nat) : k % n + n * (k / n % 32 + 32 * (k / (32 * n))) = k := by
  rw [Nat.mul_comm 32 n, ← Nat.div_div_eq_div_mul, Nat.mod_add_div, Nat.mod_add_div]

/-- A place of a region tells its offset. -/
theorem pipOffset_pipMap (n : Nat) (r : PipRegion) (o : Nat) : pipOffset n r (pipMap n r o) = o := by
  have hspan : 0 < 2 ^ r.spanLog * 1024 := by positivity
  set t := o / (2 ^ r.spanLog * 1024) with ht
  set b := t / (1536 * n) * (2 ^ r.spanLog * 1024) + o % (2 ^ r.spanLog * 1024) with hb
  have hbyte : b % 1024 = o % 1024 := by
    rw [hb, ← Nat.mul_assoc, Nat.mul_add_mod_self_right, Nat.mod_mod_of_dvd _ (Nat.dvd_mul_left ..)]
  have hlocal : (r.first + b / 1024 - r.first) * 1024 + o % 1024 = b := by
    rw [Nat.add_sub_cancel_left, ← hbyte, Nat.div_add_mod']
  have hdiv : b / (2 ^ r.spanLog * 1024) = t / (1536 * n) := by
    rw [hb, Nat.mul_comm, Nat.mul_add_div hspan, Nat.div_eq_of_lt (Nat.mod_lt _ hspan), Nat.add_zero]
  have hmod : b % (2 ^ r.spanLog * 1024) = o % (2 ^ r.spanLog * 1024) := by
    rw [hb, Nat.mul_add_mod_self_right, Nat.mod_mod]
  simp only [pipOffset, pipMap, ← ht, ← hb]
  rw [hlocal, hdiv, hmod, bank_digits, Nat.div_add_mod', ht, Nat.div_add_mod']

section
variable {n : Nat} (hn : 0 < n) (r : PipRegion)
include hn

/-- A stripe further, the same bank, a span of rows below (R328). -/
theorem pipMap_add_stripe (o : Nat) :
    pipMap n r (o + 1536 * n * 1024 * 2 ^ r.spanLog) =
      { pipMap n r o with row := (pipMap n r o).row + 2 ^ r.spanLog } := by
  have hspan : 0 < 2 ^ r.spanLog * 1024 := by positivity
  have hN : 0 < 1536 * n := by omega
  have hstripe : 1536 * n * 1024 * 2 ^ r.spanLog = 2 ^ r.spanLog * 1024 * (1536 * n) := by ring
  have hrow (u x : Nat) : ((u + 1) * (2 ^ r.spanLog * 1024) + x) / 1024 =
      (u * (2 ^ r.spanLog * 1024) + x) / 1024 + 2 ^ r.spanLog := by
    rw [← Nat.add_mul_div_right _ _ (by decide)]
    congr 1
    ring
  have hbyte : (o + 2 ^ r.spanLog * 1024 * (1536 * n)) % 1024 = o % 1024 := by
    rw [show 2 ^ r.spanLog * 1024 * (1536 * n) = 2 ^ r.spanLog * (1536 * n) * 1024 by ring, Nat.add_mul_mod_self_right]
  rw [hstripe]
  simp only [pipMap, Nat.add_mul_div_left _ _ hspan, Nat.add_mul_mod_self_left, Nat.add_mod_right,
    Nat.add_div_right _ hN, hrow, hbyte, Nat.add_assoc]

/-- Every offset below the end of the bands lies in a row of the bands, where spans fill them (R328). -/
theorem pipMap_row {o : Nat} (hspans : r.bands % 2 ^ r.spanLog = 0) (ho : o < r.bands * (1536 * n * 1024)) :
    r.first ≤ (pipMap n r o).row ∧ (pipMap n r o).row < r.first + r.bands := by
  obtain ⟨c, hc⟩ := Nat.dvd_of_mod_eq_zero hspans
  have hspan : 0 < 2 ^ r.spanLog * 1024 := by positivity
  have hu : o / (2 ^ r.spanLog * 1024) / (1536 * n) < c := by
    rw [Nat.div_div_eq_div_mul, Nat.div_lt_iff_lt_mul (by positivity)]
    calc o < r.bands * (1536 * n * 1024) := ho
      _ = c * (2 ^ r.spanLog * 1024 * (1536 * n)) := by rw [hc]; ring
  have hlocal : o / (2 ^ r.spanLog * 1024) / (1536 * n) * (2 ^ r.spanLog * 1024) + o % (2 ^ r.spanLog * 1024) <
      r.bands * 1024 :=
    calc _ < o / (2 ^ r.spanLog * 1024) / (1536 * n) * (2 ^ r.spanLog * 1024) + 2 ^ r.spanLog * 1024 :=
          Nat.add_lt_add_left (Nat.mod_lt _ hspan) _
      _ = (o / (2 ^ r.spanLog * 1024) / (1536 * n) + 1) * (2 ^ r.spanLog * 1024) := (Nat.succ_mul ..).symm
      _ ≤ c * (2 ^ r.spanLog * 1024) := Nat.mul_le_mul_right _ hu
      _ = r.bands * 1024 := by rw [hc]; ring
  exact ⟨Nat.le_add_right .., Nat.add_lt_add_left ((Nat.div_lt_iff_lt_mul (by decide)).mpr hlocal) _⟩

/-- A region lies in stacks, pseudo-channels and banks that exist. -/
theorem pipMap_bank (o : Nat) : (pipMap n r o).stack < n ∧ (pipMap n r o).pc < 32 ∧ (pipMap n r o).bank < 48 := by
  refine ⟨Nat.mod_lt _ hn, Nat.mod_lt _ (by decide), Nat.div_lt_of_lt_mul ?_⟩
  rw [show 32 * n * 48 = 1536 * n by ring]
  exact Nat.mod_lt _ (by omega)

end

/-- Settles O12, by where an offset lies, how it is computed back, and where the next stripe lies. -/
theorem regionsHoldSpans : Obligations.RegionsHoldSpans := by
  intro n r hn hspans top stripe
  have hpos : 0 < n := by omega
  refine ⟨fun o ho => ?rows, fun o p _ _ h => ?apart, fun o => ?stripes⟩
  case rows =>
    obtain ⟨hstack, hpc, hbank⟩ := pipMap_bank hpos r o
    exact ⟨hstack, hpc, hbank, pipMap_row hpos r hspans ho⟩
  case apart => rw [← pipOffset_pipMap n r o, h, pipOffset_pipMap n r p]
  case stripes =>
    rw [pipMap_add_stripe hpos r o]
    exact ⟨rfl, rfl, rfl, rfl⟩

end Sys2Proof.Proofs
end

section
/-! SUPPORT. Setting and clearing pip-aligned regions by HBM_PIPR (R329, R330, log 54): what the register's rule does where its
checks pass, and how a change takes effect. -/
namespace Sys2Proof.Proofs
open Sys2Proof Sys2Proof.Machine Sys2Proof.Safety Sys2Proof.Laws

section
variable {d : Dev} {n bytes : Nat} {v : DWord} {t : RegDef} {x : Nat} (hw : writable d (regOff .hbmPipr [n]) bytes v t [n])
variable (hx : written d t [n] (regOff .hbmPipr [n]) bytes v = x)
variable (hbusy : bitAt (regGet d .hbmPipr [n]) 62 = false) (hfields : piprOk x = true)
include hw hx hbusy hfields

/-- A range that is free, and of which the host holds nothing, is being set: it reads BUSY, and not yet VALID (R330). -/
theorem writePipr_sets {b sz : Nat} (hb : bits x 15 0 * bandBytes d = b) (hsz : bits x 47 32 * bandBytes d = sz)
    (hold : bitAt (regGet d .hbmPipr [n]) 63 = false) (hnew : bitAt x 63 = true) (hpip : meetsPipr d b sz n = false)
    (htlr : hitsTlr d b sz = false) (hsp : hitsSpill d b sz = false) (hpr : hitsPreserve d b sz = false)
    (hfix : hitsFixed d b sz = false) (hhost : (hostHolds d fun i => inSpan (1024 * i) b sz) = false) (r : Req) :
    writePipr d r (regOff .hbmPipr [n]) bytes v = regPut d .hbmPipr [n] (putBit (putBit x 63 false) 62 true) := by
  unfold written at hx
  rw [writePipr, withWrite_eq hw]
  simp [hx, hbusy, hfields, hold, hnew, hb, hsz, hpip, htlr, hsp, hpr, hfix, hhost]

/-- A write that clears VALID of a region that no session names begins its end; its fields wait for that (R330, log 54). -/
theorem writePipr_clears (hold : bitAt (regGet d .hbmPipr [n]) 63 = true) (hnew : bitAt x 63 = false)
    (huse : regionInUse d n = false)
    (hhost : (hostHolds d fun i => inSpan (1024 * i) (piprSpan d n).1 (piprSpan d n).2) = false) (r : Req) :
    writePipr d r (regOff .hbmPipr [n]) bytes v =
      regPut { d with piprNext := tput d.piprNext n x } .hbmPipr [n] (putBit (regGet d .hbmPipr [n]) 62 true) := by
  unfold written at hx
  rw [writePipr, withWrite_eq hw]
  simp [hx, hbusy, hfields, hold, hnew, huse, hhost]

end

/-- Settles O37: the register's writes by its rule, the end of a change by its condition. -/
theorem pipRegions : Obligations.PipRegions := by
  refine ⟨?set, ?clear, ?drained⟩
  case set =>
    intro s r n bytes v t hr hn hv hw hbusy hold x b sz hnew hfields hpip htlr hsp hpr hfix hhost
    change execPipRegionSet r n bytes v s = _
    refine act_eq hr ((if_pos (by simp [hn, hv])).trans ?_)
    exact writePipr_sets hw rfl hbusy hfields rfl rfl hold hnew hpip htlr hsp hpr hfix hhost r
  case clear =>
    intro s r n bytes v t hr hn hv hw hbusy hold x hnew hfields huse hhost
    change execPipRegionClear r n bytes v s = _
    refine act_eq hr ((if_pos (by simp [hn, hv])).trans ?_)
    exact writePipr_clears hw rfl hbusy hfields hold hnew huse hhost r
  case drained =>
    intro s n hr hn hbusy v sp d
    change execPipRegionDrained n s = _
    exact act_eq hr (if_neg (by simp [hn, hbusy]))

end Sys2Proof.Proofs
end

section
/-! SUPPORT. Pip instructions (R334 to R339): the instruction that is next in its pseudo-channel runs in every bank of the wave,
whatever it computes. -/
namespace Sys2Proof.Proofs
open Sys2Proof Sys2Proof.Machine Sys2Proof.Safety Sys2Proof.Laws

section
variable {n stack pc op : Nat} {x : Session} {i : PipInstr}

theorem pipIssue_runs {d : Dev} (h : nextPip d n stack pc x i) (hop : i.op = op) (f : PipMeaning) :
    pipIssue d n stack pc op f = ranIn d n stack pc x i f := by
  obtain ⟨hx, hi, hwave, hpause⟩ := h
  unfold pipIssue ranIn pipAdvance
  simp [hx, hi, hwave, hpause, hop]

theorem act_pipIssue {s : State} (hr : runs s) (h : nextPip s.dev n stack pc x i) (hop : i.op = op) (f : PipMeaning) :
    act s (fun d => pipIssue d n stack pc op f) = after s (ranIn s.dev n stack pc x i f) :=
  act_eq hr (pipIssue_runs h hop f)

end

/-- Settles O36: each of the fifteen instructions is `pipIssue` at its opcode, with its own meaning. -/
theorem pipInstructions : Obligations.PipInstructions := by
  intro s n stack pc x i hr hnext ran
  have issues {op : Nat} (f : PipMeaning) (hop : i.op = op) : act s (fun d => pipIssue d n stack pc op f) = ran f :=
    act_pipIssue hr hnext hop f
  exact ⟨issues _, issues _, issues _, issues _, issues _, issues _, issues _, issues _, issues _, issues _, issues _, issues _,
    issues _, issues _, issues _⟩

end Sys2Proof.Proofs
end

section
/-! SUPPORT. Pip sessions (R340 to R351): submission and aborts by record and by register, and what each event of a session's
life does where its condition holds. -/
namespace Sys2Proof.Proofs
open Sys2Proof Sys2Proof.Machine Sys2Proof.Safety Sys2Proof.Laws

/-! ### Submitting and aborting -/

theorem handlePipSession_queues {d e : Dev} {r : CmdRec} {op : Option Nat} {n : Nat}
    (h : submitPip d (r.args.getD 0 0) op = (e, some (stOk, n))) : handlePipSession d r op = (some stOk, e) := by
  rw [handlePipSession, h]

theorem pipSubmitRule_receipts {d e : Dev} {val n : Nat} {st : Half} (h : submitPip d (bits val 47 0) none = (e, some (st, n)))
    (r : Req) :
    pipSubmitRule d r val =
      regSetField (regSetField (regBump e .pipReceipt [] 31 16 1) .pipReceipt [] 39 32 n) .pipReceipt [] 15 0 st.toNat := by
  rw [pipSubmitRule, h]

/-- The session whose operation has the handle of the record ends (R348). -/
theorem handlePipAbort_aborts {d : Dev} {r : CmdRec} {n : Nat} {x : Session}
    (h : (d.sessions.find? fun e => d.ops.any fun o => some o.id == e.2.op && o.handle.toNat == r.args.getD 0 0 &&
      r.args.getD 0 0 != 0) = some (n, x)) (op : Option Nat) :
    handlePipAbort d r op = (some stOk, abortSession d n x) := by
  unfold handlePipAbort
  simp only [h]

theorem pipAbortRule_aborts {d : Dev} {val : Nat} {x : Session} (h : tfind d.sessions (bits val 7 0) = some x) (r : Req)
    (t : RegDef) (ix : List Nat) (mask : Nat) :
    pipAbortRule d r t ix mask val = abortSession d (bits val 7 0) x := by
  rw [pipAbortRule, h]

/-! ### The life of a session -/

section
variable {s : State} {n : Nat} {x : Session} (hr : runs s) (hx : tfind s.dev.sessions n = some x)
include hr hx

/-- The session's range leaves the Kreten die as it opens (R342, R343). -/
theorem execSessionOpen_opens (hst : x.st = .queued) (hmay : mayOpen s.dev n x = true)
    (hhost : (hostHolds s.dev fun i => sessHas s.dev x (1024 * i)) = false) :
    execSessionOpen n s =
      let d := quitLines s.dev fun i => sessHas s.dev x (1024 * i)
      after s { d with sessions := tput d.sessions n { x with st := .opening, flushed := true } } := by
  refine act_eq hr ?_
  simp [hx, hst, hmay, hhost]

/-- An open session starts its first wave, or closes where it was aborted meanwhile (R344). -/
theorem execSessionRun_starts (hst : x.st = .opening) :
    execSessionRun n s = after s (if x.aborted = true then beginClosing s.dev n { x with status := stPipAborted }
      else { s.dev with sessions := tput s.dev.sessions n { freshWave x 0 with st := .running } }) := by
  refine act_eq hr ?_
  simp [hx, hst]

/-- Where every pseudo-channel is done with the wave, the next one starts, and after the last the session closes (R344). -/
theorem execWaveEnd_ends (hst : x.st = .running) (habort : x.aborted = false)
    (hdone : ∀ p ∈ selPcs x, inWave s.dev x p.1 p.2 = false ∧ (pcRun x p.1 p.2).paused = false) :
    execWaveEnd n s = after s (if anyWave s.dev (freshWave x (x.wave + 1)) = true
      then { s.dev with sessions := tput s.dev.sessions n (freshWave x (x.wave + 1)) } else beginClosing s.dev n x) := by
  have hall : ((selPcs x).all fun p => !inWave s.dev x p.1 p.2 && !(pcRun x p.1 p.2).paused) = true := by
    rw [List.all_eq_true]
    intro p hp
    obtain ⟨hwave, hpause⟩ := hdone p hp
    rw [hwave, hpause]
    rfl
  refine act_eq hr ?_
  simp [hx, hst, habort, hall]

/-- A closing session completes once the host holds no copy of its range (R345, R346). -/
theorem execSessionCloseDone_finishes (hst : x.st = .closing) (hcopies : x.flushed = false ∨ hostCopies s.dev x = []) :
    execSessionCloseDone n s = after s (finishSession s.dev n x) := by
  have hgone : (!x.flushed || (hostCopies s.dev x).isEmpty) = true := by
    rcases hcopies with h | h <;> simp [h]
  refine act_eq hr ?_
  simp [hx, hst, hgone]

end

/-- Settles O38: submissions and aborts by their handlers and rules, each event of a session by its condition. -/
theorem pipSessions : Obligations.PipSessions := by
  refine ⟨⟨?record, ?register, ?abort, ?abortRegister⟩, ?opens, ?starts, ?waves, ?closes⟩
  case record =>
    intro s w d1 op h d2 n hr ha hsub
    change execPipSession w s = _
    exact act_submitAs_long hr ha rfl (handlePipSession_queues hsub)
  case register =>
    intro s r bytes v t ix d n hr hw hsub
    change execPipSubmit r bytes v s = _
    exact act_eq hr ((withWrite_eq hw r _).trans (pipSubmitRule_receipts hsub r))
  case abort =>
    intro s w n x hr hok hfind
    change execPipAbort w s = _
    exact act_submitAs_short hr hok rfl (handlePipAbort_aborts hfind none)
  case abortRegister =>
    intro s r bytes v t ix x hr hw hx
    change execPipAbortWrite r bytes v s = _
    exact act_eq hr ((withWrite_eq hw r _).trans (pipAbortRule_aborts hx r t ix _))
  case opens => exact fun s n x hr hx hst hmay hhost => execSessionOpen_opens hr hx hst hmay hhost
  case starts => exact fun s n x hr hx hst => execSessionRun_starts hr hx hst
  case waves => exact fun s n x hr hx hst habort hdone => execWaveEnd_ends hr hx hst habort hdone
  case closes => exact fun s n x hr hx hst hcopies => execSessionCloseDone_finishes hr hx hst hcopies

end Sys2Proof.Proofs
end

section
/-! SUPPORT. Refresh of a pseudo-channel in a wave (R331, R332): when a due refresh pauses the wave, and what the end of the pause
leaves. -/
namespace Sys2Proof.Proofs
open Sys2Proof Sys2Proof.Machine Sys2Proof.Safety Sys2Proof.Laws

section
variable {s : State} {stack pc n : Nat} {x : Session} (hr : runs s)
include hr

/-- A refresh that comes due in a wave is owed, and pauses the wave where it reaches the limit of the stack's band (R332). -/
theorem execRefreshDue_owes (hx : s.dev.sessions.find? (fun e => inWave s.dev e.2 stack pc) = some (n, x)) :
    execRefreshDue stack pc s =
      let owed := (tget {} s.dev.refresh (stack * 32 + pc)).owed + 1
      let d := { s.dev with refresh := tput s.dev.refresh (stack * 32 + pc) { owed := owed } }
      let y := setPcRun x stack pc { pcRun x stack pc with paused := true, since := s.dev.tb.now }
      after s (if bandLimit (stackOf s.dev stack).band ≤ owed ∧ (pcRun x stack pc).paused = false
        then regBump { d with sessions := tput d.sessions n y } .pipStatus [] 31 16 1 else d) := by
  refine act_eq hr ?_
  rw [hx]
  exact if_congr (by simp [stackOf]) rfl rfl

/-- The end of a pause keeps the longest one, and closes an aborted session that has no other (R332, R344, log 55). -/
theorem execPipPauseEnd_resumes (hx : s.dev.sessions.find? (fun e => (pcRun e.2 stack pc).paused) = some (n, x)) :
    execPipPauseEnd stack pc s =
      let ns := min 0xFFFF ((s.dev.tb.now - (pcRun x stack pc).since) / 2)
      let d0 := { s.dev with refresh := tdel s.dev.refresh (stack * 32 + pc) }
      let d := if ns > regField d0 .pipStatus [] 47 32 then regSetField d0 .pipStatus [] 47 32 ns else d0
      let y := setPcRun x stack pc { pcRun x stack pc with paused := false }
      after s (if y.aborted = true ∧ (∀ e ∈ y.pcs, e.2.paused = false) then beginClosing d n y
        else { d with sessions := tput d.sessions n y }) := by
  refine act_eq hr ?_
  simp only [hx, Bool.and_eq_true, Bool.not_eq_true', List.any_eq_false, Bool.not_eq_true]

end

/-- Settles O39: each of the two events by its condition. -/
theorem pipRefresh : Obligations.PipRefresh :=
  ⟨fun _ _ _ _ _ hr hx => execRefreshDue_owes hr hx, fun _ _ _ _ _ hr hx => execPipPauseEnd_resumes hr hx⟩

end Sys2Proof.Proofs
end

section
/-! SUPPORT. Every command and every step: what a command can do at all, that a halted device stays, and that the levels
whose edges raise vectors are current after each step (R366, R460, R525, R594, logs 3 to 5). -/
namespace Sys2Proof.Proofs
open Sys2Proof Sys2Proof.Machine Sys2Proof.Safety Sys2Proof.Laws

/-- Settles O2: `step` gives the front command to `exec` by definition. -/
theorem frontCommandRuns : Obligations.FrontCommandRuns := fun _ _ _ => rfl

/-- The commands that act on a halted device too: the power and reset signals. -/
def PowerSignal (c : Instr) : Prop :=
  c = .coldReset ∨ (∃ r, c = .powerGoodLoss r) ∨ (∃ e, c = .powerGoodRise e) ∨ (∃ e, c = .coldResetRelease e)

/-- What a command can do: a power or reset signal has an effect that is settled, and every other command leaves a
halted device as it is and has its effect settled on one that runs. -/
theorem exec_cases (c : Instr) (s : State) :
    (PowerSignal c ∧ ∃ d, exec c s = .next { s with dev := settle d }) ∨
      ∃ d, exec c s = .next { s with dev := if halted s.dev then s.dev else settle d } := by
  cases c
  case coldReset => exact .inl ⟨.inl rfl, _, rfl⟩
  case powerGoodLoss r => exact .inl ⟨.inr (.inl ⟨r, rfl⟩), _, rfl⟩
  case powerGoodRise e => exact .inl ⟨.inr (.inr (.inl ⟨e, rfl⟩)), _, rfl⟩
  case coldResetRelease e => exact .inl ⟨.inr (.inr (.inr ⟨e, rfl⟩)), _, rfl⟩
  all_goals exact .inr ⟨_, rfl⟩

/-- Settles O3: every command but the power and reset signals leaves a halted device as it is. -/
theorem haltedDeviceStays : Obligations.HaltedDeviceStays := by
  intro c s hs
  obtain ⟨hp, -⟩ | ⟨d, hd⟩ := exec_cases c s
  · exact .inl hp
  · have hh : halted s.dev = true := by simpa [runs] using hs
    rw [hd, if_pos hh]; exact .inr rfl

/-! ### Levels -/

/-- What the levels are read from: the ring's two positions and the ports. -/
def levelView (d : Dev) : Bool × List Nat := (errNotEmpty d, activePorts d)

theorem regGet_regPut_other (d : Dev) {r q : RegId} {ix jx : List Nat} (h : regOff q jx ≠ regOff r ix) (v : Nat) :
    regGet (regPut d q jx v) r ix = regGet d r ix := by
  simp [regGet, regPut, tfind_tput, h]

theorem errNotEmpty_regPut (d : Dev) {q : RegId} {jx : List Nat} (h : regOff q jx ≠ regOff .errlogPtr []) (v : Nat) :
    errNotEmpty (regPut d q jx v) = errNotEmpty d := by
  simp only [errNotEmpty, errProd, errCons, regField, regGet_regPut_other d h]

/-- The pending bits of vectors 64 to 127 lie in a register of their own. -/
theorem levelView_sendMsix (d : Dev) {v : Nat} (hv : v / 64 = 1) : levelView (sendMsix d v) = levelView d := by
  unfold sendMsix levelView
  rw [hv]
  split
  · have h : regOff .msixPba [1] ≠ regOff .errlogPtr [] := by decide
    exact Prod.ext (errNotEmpty_regPut _ h _) rfl
  · rfl

theorem levelView_errEdge (d : Dev) : levelView (errEdge d) = levelView d := by
  unfold errEdge; split
  · exact levelView_sendMsix d (v := 64) rfl
  · rfl

theorem levelView_portEdge (d : Dev) : levelView (portEdge d) = levelView d := by
  unfold portEdge; split
  · rfl
  · exact levelView_sendMsix d (v := 66) rfl

/-- Settling ends by seeing the levels, which sending a vector leaves as they are. -/
theorem levelsCurrent_edges (d : Dev) : levelsCurrent (edges d) := by
  have h : levelView (portEdge (errEdge d)) = levelView d := by rw [levelView_portEdge, levelView_errEdge]
  exact ⟨(congrArg Prod.fst h).symm, (congrArg Prod.snd h).symm⟩

theorem levelsCurrent_settle (d : Dev) : levelsCurrent (settle d) := levelsCurrent_edges _

/-- A command leaves the levels current: its effect is settled, or nothing changed. -/
theorem levelsCurrent_exec {c : Instr} {s t : State} (hs : levelsCurrent s.dev) (h : exec c s = .next t) :
    levelsCurrent t.dev := by
  obtain ⟨-, d, hd⟩ | ⟨d, hd⟩ := exec_cases c s
  · rw [hd] at h; cases h; exact levelsCurrent_settle _
  · rw [hd] at h; cases h
    dsimp only; split
    · exact hs
    · exact levelsCurrent_settle _

theorem levelsCurrent_tickCount {d : Dev} (h : levelsCurrent d) : levelsCurrent (tickCount d) := by
  unfold tickCount; dsimp only; split <;> exact h

theorem levelsCurrent_tick {d : Dev} (h : levelsCurrent d) : levelsCurrent (tick d) := by
  unfold tick; split
  · exact h
  · split
    · exact levelsCurrent_tickCount h
    · exact levelsCurrent_settle _

theorem levelsCurrent_retry {s t : State} (hs : levelsCurrent s.dev) (h : retry s = .next t) : levelsCurrent t.dev := by
  unfold retry at h; split at h
  · cases h; exact hs
  · split at h
    · cases h; exact hs
    · exact levelsCurrent_exec (by exact hs) h

/-- Settles O4: a step is a command, or a tick with the retry of a command behind it, and each of them keeps the levels
current. -/
theorem levelsKept : Obligations.LevelsKept := by
  intro s t hs h
  unfold step at h; split at h
  · exact levelsCurrent_retry (levelsCurrent_tick hs) h
  · exact levelsCurrent_exec (by exact hs) h

end Sys2Proof.Proofs
end

section
/-! SUPPORT. The field of the word code (R355), GF(2^7) as the powers of α: multiplication by α is linear and one to one,
so two pairs of columns (α^i, α^(3i)) with one sum share an element, and no column is the sum of two. -/
namespace Sys2Proof.Proofs
open Sys2Proof Sys2Proof.Machine Sys2Proof.Safety Sys2Proof.Laws

/-! ### Powers of α -/

/-- α to the power `n`: multiplying by α is `gfStep`. -/
def alpha (n : Nat) : Nat := gfStep^[n] 1

theorem gfStep_eq {x : Nat} (h : x < 128) : gfStep x = (x <<< 1) ^^^ (if x.testBit 6 then 0x89 else 0) := by
  revert x; decide +kernel

theorem gfStep_lt {x : Nat} (h : x < 128) : gfStep x < 128 := by revert x; decide +kernel

theorem gfStep_ne_zero {x : Nat} (h : x < 128) (h0 : x ≠ 0) : gfStep x ≠ 0 := by revert x; decide +kernel

theorem gfStep_xor {x y : Nat} (hx : x < 128) (hy : y < 128) : gfStep (x ^^^ y) = gfStep x ^^^ gfStep y := by
  rw [gfStep_eq hx, gfStep_eq hy, gfStep_eq (Nat.xor_lt_two_pow (n := 7) hx hy), Nat.shiftLeft_xor_distrib, Nat.testBit_xor]
  cases x.testBit 6 <;> cases y.testBit 6 <;> simp [Nat.xor_assoc, Nat.xor_comm, Nat.xor_left_comm]

/-! Multiplication by α^k is linear and one to one on the field's elements. -/

theorem iterate_gfStep_lt {x : Nat} (k : Nat) (h : x < 128) : gfStep^[k] x < 128 := by
  induction k with
  | zero => exact h
  | succ k ih => rw [Function.iterate_succ_apply']; exact gfStep_lt ih

theorem iterate_gfStep_xor {x y : Nat} (k : Nat) (hx : x < 128) (hy : y < 128) :
    gfStep^[k] (x ^^^ y) = gfStep^[k] x ^^^ gfStep^[k] y := by
  induction k with
  | zero => rfl
  | succ k ih =>
    simp only [Function.iterate_succ_apply', ih, gfStep_xor (iterate_gfStep_lt k hx) (iterate_gfStep_lt k hy)]

theorem iterate_gfStep_ne_zero {x : Nat} (k : Nat) (h : x < 128) (h0 : x ≠ 0) : gfStep^[k] x ≠ 0 := by
  induction k with
  | zero => exact h0
  | succ k ih => rw [Function.iterate_succ_apply']; exact gfStep_ne_zero (iterate_gfStep_lt k h) ih

theorem iterate_gfStep_inj {x y : Nat} (k : Nat) (hx : x < 128) (hy : y < 128) (h : gfStep^[k] x = gfStep^[k] y) : x = y := by
  by_contra hne
  refine iterate_gfStep_ne_zero k (Nat.xor_lt_two_pow (n := 7) hx hy) (fun h0 => hne (Nat.xor_eq_zero_iff.mp h0)) ?_
  rw [iterate_gfStep_xor k hx hy, h, Nat.xor_self]

theorem iterate_alpha (k n : Nat) : gfStep^[k] (alpha n) = alpha (k + n) := (Function.iterate_add_apply ..).symm
theorem alpha_lt (n : Nat) : alpha n < 128 := iterate_gfStep_lt n (by decide)
theorem alpha_ne_zero (n : Nat) : alpha n ≠ 0 := iterate_gfStep_ne_zero n (by decide) (by decide)

/-- A sum of two powers, multiplied by α^k. -/
theorem alpha_split {i j m : Nat} (h : alpha i ^^^ alpha j = alpha m) (k : Nat) {n p q : Nat} (hn : n = k + m := by omega)
    (hp : p = k + i := by omega) (hq : q = k + j := by omega) : alpha n = alpha p ^^^ alpha q := by
  rw [hn, hp, hq, ← iterate_alpha, ← iterate_alpha, ← iterate_alpha, ← iterate_gfStep_xor k (alpha_lt i) (alpha_lt j), h]

theorem gfPowsAux_getD {n k : Nat} (x : Nat) (h : k < n) : (gfPowsAux n x).getD k 0 = gfStep^[k] x := by
  induction k generalizing n x with
  | zero => obtain ⟨n, rfl⟩ : ∃ m, n = m + 1 := ⟨n - 1, by omega⟩; rfl
  | succ k ih =>
    obtain ⟨n, rfl⟩ : ∃ m, n = m + 1 := ⟨n - 1, by omega⟩
    exact ih (gfStep x) (by omega)

theorem alpha_mod (n : Nat) : alpha (n % 127) = alpha n :=
  Function.IsPeriodicPt.iterate_mod_apply (f := gfStep) (x := 1) (n := 127) (show alpha 127 = 1 by decide +kernel) n

theorem gfPow_eq_alpha (n : Nat) : gfPow n = alpha n := by
  rw [← alpha_mod n]
  exact gfPowsAux_getD 1 (Nat.mod_lt _ (by decide))

theorem length_gfPows : gfPows.length = 127 := by decide +kernel
theorem gfPows_nodup : gfPows.Nodup := by decide +kernel

theorem alpha_inj {i j : Nat} (hi : i < 127) (hj : j < 127) (h : alpha i = alpha j) : i = j := by
  have get {k : Nat} (hk : k < 127) : gfPows[k]? = some (alpha k) := by
    have h2 : gfPows.getD k 0 = alpha k := gfPowsAux_getD 1 hk
    rw [List.getD_eq_getElem?_getD] at h2
    have h3 : k < gfPows.length := by rw [length_gfPows]; exact hk
    rw [List.getElem?_eq_getElem h3] at h2 ⊢
    exact congrArg some h2
  exact (List.getElem?_inj (by rwa [length_gfPows]) gfPows_nodup).mp (by rw [get hi, get hj, h])

/-- Every element but 0 is a power of α. -/
theorem exists_alpha {x : Nat} (h : x < 128) (h0 : x ≠ 0) : ∃ m, m < 127 ∧ alpha m = x := by
  have hx : ∀ x < 128, x ≠ 0 → x ∈ gfPows := by decide +kernel
  obtain ⟨m, hm, rfl⟩ := List.mem_iff_getElem.mp (hx x h h0)
  rw [length_gfPows] at hm
  refine ⟨m, hm, ?_⟩
  have h2 : gfPows.getD m 0 = alpha m := gfPowsAux_getD 1 hm
  rw [← h2, List.getD_eq_getElem?_getD, List.getElem?_eq_getElem (by rwa [length_gfPows])]; rfl

theorem exists_alpha_xor {i j : Nat} (h : alpha i ≠ alpha j) : ∃ m, m < 127 ∧ alpha m = alpha i ^^^ alpha j :=
  exists_alpha (Nat.xor_lt_two_pow (n := 7) (alpha_lt i) (alpha_lt j)) fun h0 => h (Nat.xor_eq_zero_iff.mp h0)

/-! ### The distance of the code: columns (α^i, α^(3i)) -/

/-- (a + b)³ = a³ + b³ + ab(a + b). -/
theorem alpha_cube_sum {i j m : Nat} (h : alpha i ^^^ alpha j = alpha m) :
    alpha (3 * i) ^^^ alpha (3 * j) = alpha (3 * m) ^^^ alpha (i + j + m) := by
  have h3 : alpha (3 * m) = alpha (i + 2 * m) ^^^ alpha (j + 2 * m) := alpha_split h (2 * m)
  have hi : alpha (i + 2 * m) = alpha (2 * i + m) ^^^ alpha (i + j + m) := alpha_split h (i + m)
  have hj : alpha (j + 2 * m) = alpha (i + j + m) ^^^ alpha (2 * j + m) := alpha_split h (j + m)
  have hii : alpha (2 * i + m) = alpha (3 * i) ^^^ alpha (2 * i + j) := alpha_split h (2 * i)
  have hij : alpha (i + j + m) = alpha (2 * i + j) ^^^ alpha (i + 2 * j) := alpha_split h (i + j)
  have hjj : alpha (2 * j + m) = alpha (i + 2 * j) ^^^ alpha (3 * j) := alpha_split h (2 * j)
  rw [h3, hi, hj, hii, hij, hjj]
  simp [Nat.xor_assoc, Nat.xor_comm, Nat.xor_left_comm]

/-- Two pairs of columns with the same sum share an element: a + b and ab give (x + a)(x + b). -/
theorem alpha_pairs_meet {i j k l : Nat} (hne : alpha i ≠ alpha j) (h1 : alpha i ^^^ alpha j = alpha k ^^^ alpha l)
    (h3 : alpha (3 * i) ^^^ alpha (3 * j) = alpha (3 * k) ^^^ alpha (3 * l)) : alpha i = alpha k ∨ alpha i = alpha l := by
  obtain ⟨m, -, hm⟩ := exists_alpha_xor hne
  have hij := hm.symm
  have hkl : alpha k ^^^ alpha l = alpha m := by rw [hm, h1]
  have hprod : alpha (i + j) = alpha (k + l) := by
    rw [alpha_cube_sum hij, alpha_cube_sum hkl] at h3
    refine iterate_gfStep_inj m (alpha_lt _) (alpha_lt _) ?_
    rw [iterate_alpha, iterate_alpha, Nat.add_comm m, Nat.add_comm m]
    exact Nat.xor_right_injective h3
  by_contra hno
  obtain ⟨hik, hil⟩ := not_or.mp hno
  obtain ⟨p, -, hp⟩ := exists_alpha_xor hik
  obtain ⟨q, -, hq⟩ := exists_alpha_xor hil
  -- (a + c)(a + d) = a² + a(c + d) + cd, where c + d = a + b and cd = ab
  have hpq : alpha (p + q) = alpha (i + p) ^^^ alpha (l + p) := alpha_split hq.symm p
  have hip : alpha (i + p) = alpha (2 * i) ^^^ alpha (i + k) := alpha_split hp.symm i
  have hlp : alpha (l + p) = alpha (i + l) ^^^ alpha (k + l) := alpha_split hp.symm l
  have him : alpha (i + m) = alpha (2 * i) ^^^ alpha (i + j) := alpha_split hij i
  have him' : alpha (i + m) = alpha (i + k) ^^^ alpha (i + l) := alpha_split hkl i
  apply alpha_ne_zero (p + q)
  have hii : alpha (2 * i) = alpha (i + k) ^^^ alpha (i + l) ^^^ alpha (k + l) := by
    rw [← him', him, hprod]; simp
  rw [hpq, hip, hlp, hii]
  simp [Nat.xor_assoc]

/-- No column is the sum of two. -/
theorem alpha_pair_ne_column {i j m : Nat} (h1 : alpha i ^^^ alpha j = alpha m) :
    alpha (3 * i) ^^^ alpha (3 * j) ≠ alpha (3 * m) := by
  rw [alpha_cube_sum h1]
  intro h
  exact alpha_ne_zero (i + j + m) (Nat.xor_right_injective (h.trans (Nat.xor_zero _).symm))

end Sys2Proof.Proofs
end

section
/-! SUPPORT. Codewords (R354): positions 0 to 78 and the parity bit give a codeword, and flipping a bit changes just that. -/
namespace Sys2Proof.Proofs
open Sys2Proof Sys2Proof.Machine Sys2Proof.Safety Sys2Proof.Laws

/-! ### Codewords: positions 0 to 78 and the parity bit -/

theorem bitAt_eq_testBit (v i : Nat) : bitAt v i = v.testBit i := by
  rw [bitAt, Nat.testBit_eq_decide_div_mod_eq, Nat.shiftRight_eq_div_pow]; rfl

theorem toNat_bitAt (v i : Nat) : (bitAt v i).toNat = v / 2 ^ i % 2 := by
  rw [bitAt, Nat.shiftRight_eq_div_pow]
  rcases Nat.mod_two_eq_zero_or_one (v / 2 ^ i) with h | h <;> rw [h] <;> rfl

theorem digit_mod {a m : Nat} (h : a < m) (b : Nat) : (a + m * b) % m = a := by
  rw [Nat.add_mul_mod_self_left, Nat.mod_eq_of_lt h]

theorem digit_div {a m : Nat} (h : a < m) (b : Nat) : (a + m * b) / m = b := by
  rw [Nat.add_mul_div_left _ _ (by omega), Nat.div_eq_of_lt h, Nat.zero_add]

/-- CHECK, DATA and POISON as positions 0 to 78 have them. -/
def posDigits (check data poison : Nat) : Nat := check + 2 ^ 14 * (data + 2 ^ 64 * poison)

/-- DATA, CHECK, POISON and PARITY as a codeword has them. -/
def wordDigits (data check poison parity : Nat) : Nat := data + 2 ^ 64 * (check + 2 ^ 14 * (poison + 2 * parity))

theorem exists_posDigits {p : Nat} (hp : p < 2 ^ 79) :
    ∃ c d x, c < 2 ^ 14 ∧ d < 2 ^ 64 ∧ x < 2 ∧ p = posDigits c d x :=
  ⟨p % 2 ^ 14, p / 2 ^ 14 % 2 ^ 64, p / 2 ^ 14 / 2 ^ 64, by omega, by omega, by omega,
    by rw [posDigits, Nat.mod_add_div, Nat.mod_add_div]⟩

theorem posDigits_lt {c d x : Nat} (hc : c < 2 ^ 14) (hd : d < 2 ^ 64) (hx : x < 2) : posDigits c d x < 2 ^ 79 := by
  unfold posDigits; omega

theorem ofPositions_digits {c d x : Nat} (hc : c < 2 ^ 14) (hd : d < 2 ^ 64) (hx : x < 2) (q : Bool) :
    (ofPositions (posDigits c d x) q).toNat = wordDigits d c x q.toNat := by
  have hq : q.toNat < 2 := Bool.toNat_lt q
  have h1 : posDigits c d x / 2 ^ 14 = d + 2 ^ 64 * x := digit_div hc _
  have e78 : (2 : Nat) ^ 78 = 2 ^ 14 * 2 ^ 64 := by norm_num
  have h2 : posDigits c d x / (2 ^ 14 * 2 ^ 64) = x := by rw [← Nat.div_div_eq_div_mul, h1, digit_div hd]
  have hdata : bits (posDigits c d x) 77 14 = d := by
    rw [bits, Nat.shiftRight_eq_div_pow, h1]; exact digit_mod hd x
  have hcheck : bits (posDigits c d x) 13 0 = c := by
    rw [bits, Nat.shiftRight_zero]; exact digit_mod hc _
  have hpoison : bits (posDigits c d x) 78 78 = x := by
    rw [bits, Nat.shiftRight_eq_div_pow, e78, h2]; exact Nat.mod_eq_of_lt hx
  rw [ofPositions, hdata, hcheck, hpoison, BitVec.toNat_ofNat]
  simp only [Nat.shiftLeft_eq, wordDigits]
  omega

/-- The fields of a stored codeword, by its digits. -/
theorem word_fields {w d k x q : Nat} (hd : d < 2 ^ 64) (hk : k < 2 ^ 14) (hx : x < 2) (h : w = wordDigits d k x q) :
    bits w 77 64 = k ∧ bits w 63 0 = d ∧ bits w 78 78 = x := by
  have e78 : (2 : Nat) ^ 78 = 2 ^ 64 * 2 ^ 14 := by norm_num
  have h1 : w / 2 ^ 64 = k + 2 ^ 14 * (x + 2 * q) := by rw [h]; exact digit_div hd _
  have h2 : w / (2 ^ 64 * 2 ^ 14) = x + 2 * q := by rw [← Nat.div_div_eq_div_mul, h1, digit_div hk]
  refine ⟨?_, ?_, ?_⟩
  · rw [bits, Nat.shiftRight_eq_div_pow, h1]; exact digit_mod hk _
  · rw [bits, Nat.shiftRight_zero, h]; exact digit_mod hd _
  · rw [bits, Nat.shiftRight_eq_div_pow, e78, h2]; exact digit_mod hx q

theorem positions_digits {c : Codeword} {d k x q : Nat} (hd : d < 2 ^ 64) (hk : k < 2 ^ 14) (hx : x < 2)
    (h : c.toNat = wordDigits d k x q) : positions c = posDigits k d x := by
  obtain ⟨hcheck, hdata, hpoison⟩ := word_fields hd hk hx h
  have e : positions c = bits c.toNat 77 64 + (bits c.toNat 63 0 <<< 14) + (bits c.toNat 78 78 <<< 78) := rfl
  rw [e, hcheck, hdata, hpoison, Nat.shiftLeft_eq, Nat.shiftLeft_eq, posDigits]
  ring

theorem parityBit_digits {c : Codeword} {d k x : Nat} {q : Bool} (hd : d < 2 ^ 64) (hk : k < 2 ^ 14) (hx : x < 2)
    (h : c.toNat = wordDigits d k x q.toNat) : bitAt c.toNat 79 = q := by
  have h1 : c.toNat / 2 ^ 79 = q.toNat := by
    rw [h, show (2 : Nat) ^ 79 = 2 ^ 64 * 2 ^ 14 * 2 from rfl, ← Nat.div_div_eq_div_mul, ← Nat.div_div_eq_div_mul, wordDigits,
      digit_div hd, digit_div hk, digit_div hx]
  rw [bitAt, Nat.shiftRight_eq_div_pow, h1]; cases q <;> rfl

theorem positions_ofPositions {p : Nat} (hp : p < 2 ^ 79) (q : Bool) : positions (ofPositions p q) = p := by
  obtain ⟨c, d, x, hc, hd, hx, rfl⟩ := exists_posDigits hp
  exact positions_digits hd hc hx (ofPositions_digits hc hd hx q)

theorem parityBit_ofPositions {p : Nat} (hp : p < 2 ^ 79) (q : Bool) : bitAt (ofPositions p q).toNat 79 = q := by
  obtain ⟨c, d, x, hc, hd, hx, rfl⟩ := exists_posDigits hp
  exact parityBit_digits hd hc hx (ofPositions_digits hc hd hx q)

/-- Every codeword is given by its positions and its parity bit. -/
theorem exists_ofPositions (c : Codeword) : ∃ p q, p < 2 ^ 79 ∧ c = ofPositions p q := by
  have hlt := c.isLt
  have hq : c.toNat / 2 ^ 64 / 2 ^ 14 / 2 < 2 := by omega
  refine ⟨posDigits (c.toNat / 2 ^ 64 % 2 ^ 14) (c.toNat % 2 ^ 64) (c.toNat / 2 ^ 64 / 2 ^ 14 % 2),
    c.toNat / 2 ^ 64 / 2 ^ 14 / 2 == 1, posDigits_lt (by omega) (by omega) (by omega), BitVec.eq_of_toNat_eq ?_⟩
  rw [ofPositions_digits (by omega) (by omega) (by omega)]
  have hb : (c.toNat / 2 ^ 64 / 2 ^ 14 / 2 == 1).toNat = c.toNat / 2 ^ 64 / 2 ^ 14 / 2 := by
    generalize c.toNat / 2 ^ 64 / 2 ^ 14 / 2 = q at hq
    interval_cases q <;> rfl
  rw [hb, wordDigits, Nat.mod_add_div, Nat.mod_add_div, Nat.mod_add_div]

theorem flipAt_position {p i : Nat} (hp : p < 2 ^ 79) (hi : i < 79) (q : Bool) :
    flipAt (ofPositions p q) i = ofPositions (p ^^^ 2 ^ i) q := by
  rw [flipAt, if_neg (by omega), positions_ofPositions hp, parityBit_ofPositions hp]; rfl

theorem xor_two_pow_79 {v : Nat} (hv : v < 2 ^ 79) (q : Bool) : (v + 2 ^ 79 * q.toNat) ^^^ 2 ^ 79 = v + 2 ^ 79 * (!q).toNat := by
  have h : ∀ r : Bool, v + 2 ^ 79 * r.toNat = v ^^^ (if r then 2 ^ 79 else 0) := by
    rintro (_ | _)
    · simp
    · refine Nat.eq_of_testBit_eq fun i => ?_
      rw [Nat.add_comm, Nat.testBit_two_pow_mul_add _ hv, if_pos rfl, Nat.testBit_xor, Nat.testBit_two_pow]
      by_cases hi : i < 79
      · simp [hi, Nat.ne_of_gt hi]
      · rw [Nat.testBit_lt_two_pow (Nat.lt_of_lt_of_le hv (Nat.pow_le_pow_right (by decide) (Nat.le_of_not_lt hi)))]
        obtain ⟨k, rfl⟩ : ∃ k, i = 79 + k := ⟨i - 79, by omega⟩
        cases k <;> simp [Nat.testBit_succ]
  rw [h, h]; cases q <;> simp

theorem flipAt_parity {p : Nat} (hp : p < 2 ^ 79) (q : Bool) : flipAt (ofPositions p q) 79 = ofPositions p (!q) := by
  obtain ⟨c, d, x, hc, hd, hx, rfl⟩ := exists_posDigits hp
  apply BitVec.eq_of_toNat_eq
  have h : ∀ r : Nat, wordDigits d c x r = wordDigits d c x 0 + 2 ^ 79 * r := fun r => by unfold wordDigits; omega
  have hlt : wordDigits d c x 0 < 2 ^ 79 := by unfold wordDigits; omega
  rw [flipAt, if_pos rfl, BitVec.toNat_xor, ofPositions_digits hc hd hx, ofPositions_digits hc hd hx, h q.toNat,
    h (!q).toNat, BitVec.toNat_ofNat, Nat.mod_eq_of_lt (by decide)]
  exact xor_two_pow_79 hlt q

end Sys2Proof.Proofs
end

section
/-! SUPPORT. Syndromes (R355): they are linear, and those of a codeword are 0, since its check bits are the remainder modulo
the generator. -/
namespace Sys2Proof.Proofs
open Sys2Proof Sys2Proof.Machine Sys2Proof.Safety Sys2Proof.Laws

/-! ### Syndromes are linear -/

theorem syndrome_xor (k p q n : Nat) : syndrome k (p ^^^ q) n = syndrome k p n ^^^ syndrome k q n := by
  induction n with
  | zero => exact (Nat.xor_self 0).symm
  | succ n ih =>
    simp only [syndrome, bitAt_eq_testBit, Nat.testBit_xor, ih]
    change (if (p.testBit n ^^ q.testBit n) = true then (syndrome k p n ^^^ syndrome k q n) ^^^ gfPow (k * n) else _) =
      (if p.testBit n = true then syndrome k p n ^^^ gfPow (k * n) else _) ^^^
        (if q.testBit n = true then syndrome k q n ^^^ gfPow (k * n) else _)
    cases p.testBit n <;> cases q.testBit n <;> simp [Nat.xor_assoc, Nat.xor_comm, Nat.xor_left_comm]

theorem syndrome_zero (k n : Nat) : syndrome k 0 n = 0 := by
  induction n with
  | zero => rfl
  | succ n ih => simp [syndrome, ih, bitAt_eq_testBit]

theorem syndrome_two_pow (k i n : Nat) : syndrome k (2 ^ i) n = if i < n then alpha (k * i) else 0 := by
  induction n with
  | zero => rfl
  | succ n ih =>
    rw [syndrome, ih, bitAt_eq_testBit, Nat.testBit_two_pow]
    rcases Nat.lt_trichotomy i n with h | rfl | h
    · rw [if_neg (by simp; omega), if_pos h, if_pos (by omega)]
    · rw [if_pos (by simp), if_neg (by omega), if_pos (by omega), gfPow_eq_alpha]; exact Nat.zero_xor _
    · rw [if_neg (by simp; omega), if_neg (by omega), if_neg (by omega)]

theorem parityOf_xor (n p q : Nat) : parityOf n (p ^^^ q) = xor (parityOf n p) (parityOf n q) := by
  induction n generalizing p q with
  | zero => rfl
  | succ n ih =>
    have h : ((p ^^^ q) % 2 == 1) = xor (p % 2 == 1) (q % 2 == 1) := by
      have hbit (v : Nat) : (v % 2 == 1) = v.testBit 0 := by rw [Nat.testBit_zero]; rfl
      rw [hbit, hbit, hbit, Nat.testBit_xor]
    simp only [parityOf, Nat.xor_div_two, ih, h]
    cases p % 2 == 1 <;> cases q % 2 == 1 <;> cases parityOf n (p / 2) <;> cases parityOf n (q / 2) <;> rfl

theorem parityOf_zero (n : Nat) : parityOf n 0 = false := by
  induction n with
  | zero => rfl
  | succ n ih => simp [parityOf, ih]

theorem parityOf_two_pow (n i : Nat) : parityOf n (2 ^ i) = decide (i < n) := by
  induction n generalizing i with
  | zero => rfl
  | succ n ih =>
    cases i with
    | zero => simp [parityOf, parityOf_zero]
    | succ i =>
      have h2 : 2 ^ (i + 1) / 2 = 2 ^ i := by rw [Nat.pow_succ]; omega
      have h1 : (2 ^ (i + 1) % 2 == 1) = false := by rw [Nat.pow_succ]; simp
      rw [parityOf, h2, h1, ih]; simp

/-- The parity of two fields. -/
theorem parityOf_digits (n m : Nat) {a : Nat} (h : a < 2 ^ n) (b : Nat) :
    parityOf (n + m) (a + 2 ^ n * b) = xor (parityOf n a) (parityOf m b) := by
  induction n generalizing a with
  | zero =>
    obtain rfl : a = 0 := by simpa using h
    simp [parityOf]
  | succ n ih =>
    have h1 : (a + 2 ^ (n + 1) * b) / 2 = a / 2 + 2 ^ n * b := by rw [Nat.pow_succ, Nat.mul_right_comm]; omega
    have h2 : (a + 2 ^ (n + 1) * b) % 2 = a % 2 := by rw [Nat.pow_succ, Nat.mul_right_comm]; omega
    rw [Nat.succ_add, parityOf, h1, h2, ih (by rw [Nat.pow_succ] at h; omega), parityOf, Bool.xor_assoc]

/-- PARITY is the parity bit of the rest (R355), in whichever order the bits stand. -/
theorem parityOf_ofPositions {p : Nat} (hp : p < 2 ^ 79) (q : Bool) :
    parityOf 80 (ofPositions p q).toNat = xor (parityOf 79 p) q := by
  obtain ⟨c, d, x, hc, hd, hx, rfl⟩ := exists_posDigits hp
  have hq : parityOf 2 (x + 2 * q.toNat) = xor (parityOf 1 x) q := by
    interval_cases x <;> cases q <;> rfl
  rw [ofPositions_digits hc hd hx, posDigits, wordDigits,
    parityOf_digits 64 16 hd, parityOf_digits 14 2 hc, hq, parityOf_digits 14 65 hc, parityOf_digits 64 1 hd]
  cases parityOf 64 d <;> cases parityOf 14 c <;> cases parityOf 1 x <;> cases q <;> rfl

/-! ### Check bits -/

theorem syndrome_bchGen {n : Nat} (h : n < 65) : syndrome 1 (bchGen <<< n) 79 = 0 ∧ syndrome 3 (bchGen <<< n) 79 = 0 := by
  revert n; decide +kernel

theorem syndrome_bchRem {n : Nat} (h : n ≤ 65) (p : Nat) :
    syndrome 1 (bchRem n p) 79 = syndrome 1 p 79 ∧ syndrome 3 (bchRem n p) 79 = syndrome 3 p 79 := by
  induction n generalizing p with
  | zero => exact ⟨rfl, rfl⟩
  | succ n ih =>
    obtain ⟨h1, h3⟩ := syndrome_bchGen (n := n) (by omega)
    obtain ⟨i1, i3⟩ := ih (by omega) (if bitAt p (14 + n) then p ^^^ bchGen <<< n else p)
    refine ⟨i1.trans ?_, i3.trans ?_⟩
    · split
      · rw [syndrome_xor, h1, Nat.xor_zero]
      · rfl
    · split
      · rw [syndrome_xor, h3, Nat.xor_zero]
      · rfl

theorem bchRem_lt {n p : Nat} (h : p < 2 ^ (14 + n)) : bchRem n p < 2 ^ 14 := by
  induction n generalizing p with
  | zero => exact h
  | succ n ih =>
    refine ih ?_
    have top {v : Nat} (hv : v < 2 ^ (14 + n + 1)) (hb : v.testBit (14 + n) = false) : v < 2 ^ (14 + n) := by
      refine Nat.lt_pow_two_of_testBit v fun i hi => ?_
      rcases Nat.eq_or_lt_of_le hi with rfl | hi
      · exact hb
      · exact Nat.testBit_lt_two_pow (Nat.lt_of_lt_of_le hv (Nat.pow_le_pow_right (by decide) hi))
    split
    · rename_i hb
      rw [bitAt_eq_testBit] at hb
      have hg : bchGen <<< n < 2 ^ (14 + n + 1) := by
        rw [Nat.shiftLeft_eq, show 14 + n + 1 = 15 + n by omega, Nat.pow_add]
        exact Nat.mul_lt_mul_of_pos_right (by decide) (Nat.two_pow_pos n)
      have hgb : (bchGen <<< n).testBit (14 + n) = true := by
        rw [Nat.testBit_shiftLeft, Nat.add_sub_cancel]; simp; decide
      exact top (Nat.xor_lt_two_pow h hg) (by
        change (p ^^^ bchGen <<< n).testBit (14 + n) = false
        rw [Nat.testBit_xor, hb, hgb]; rfl)
    · rename_i hb
      rw [bitAt_eq_testBit] at hb
      exact top h (by simpa using hb)

/-- Positions 0 to 78 of the codeword of data and poison. -/
def codePositions (data : DWord) (poison : Bool) : Nat :=
  posDigits (checkBits data.toNat poison) data.toNat poison.toNat

theorem checkBits_lt (data : DWord) (poison : Bool) : checkBits data.toNat poison < 2 ^ 14 := by
  refine bchRem_lt ?_
  have := data.isLt
  have := Bool.toNat_lt poison
  rw [Nat.shiftLeft_eq, Nat.shiftLeft_eq]; omega

theorem codePositions_lt (data : DWord) (poison : Bool) : codePositions data poison < 2 ^ 79 :=
  posDigits_lt (checkBits_lt ..) data.isLt (Bool.toNat_lt _)

theorem encodeWord_eq (data : DWord) (poison : Bool) :
    encodeWord data poison = ofPositions (codePositions data poison) (parityOf 79 (codePositions data poison)) := by
  have h : checkBits data.toNat poison + (data.toNat <<< 14) + (poison.toNat <<< 78) = codePositions data poison := by
    simp only [codePositions, posDigits, Nat.shiftLeft_eq]; ring
  simp only [encodeWord, h]

theorem xor_digits {a n : Nat} (h : a < 2 ^ n) (b : Nat) : a + 2 ^ n * b = a ^^^ (2 ^ n * b) := by
  refine Nat.eq_of_testBit_eq fun i => ?_
  rw [Nat.add_comm, Nat.testBit_two_pow_mul_add _ h, Nat.testBit_xor, Nat.testBit_two_pow_mul]
  by_cases hi : i < n
  · simp [hi, Nat.not_le_of_lt hi]
  · rw [Nat.testBit_lt_two_pow (Nat.lt_of_lt_of_le h (Nat.pow_le_pow_right (by decide) (Nat.le_of_not_lt hi)))]
    simp [hi, Nat.le_of_not_lt hi]

/-- A codeword is a multiple of the generator: its check bits are the remainder. -/
theorem syndrome_codePositions (data : DWord) (poison : Bool) :
    syndrome 1 (codePositions data poison) 79 = 0 ∧ syndrome 3 (codePositions data poison) 79 = 0 := by
  have hx := xor_digits (checkBits_lt data poison) (data.toNat + 2 ^ 64 * poison.toNat)
  have hp : 2 ^ 14 * (data.toNat + 2 ^ 64 * poison.toNat) = (data.toNat <<< 14) + (poison.toNat <<< 78) := by
    simp only [Nat.shiftLeft_eq]; ring
  obtain ⟨h1, h3⟩ := syndrome_bchRem (le_refl 65) ((data.toNat <<< 14) + (poison.toNat <<< 78))
  rw [hp] at hx
  rw [codePositions, posDigits, hp, hx, syndrome_xor, syndrome_xor]
  exact ⟨by rw [checkBits, h1, Nat.xor_self], by rw [checkBits, h3, Nat.xor_self]⟩

end Sys2Proof.Proofs
end

section
/-! SUPPORT. Decoding (R356): the syndromes of one or two flipped bits name them, and those of three match no pattern. -/
namespace Sys2Proof.Proofs
open Sys2Proof Sys2Proof.Machine Sys2Proof.Safety Sys2Proof.Laws

/-! ### Flips -/

/-- What flipping bit `i` adds to positions 0 to 78. -/
def flipMask (i : Nat) : Nat := if i = 79 then 0 else 2 ^ i

theorem flipMask_lt {i : Nat} (h : i < 80) : flipMask i < 2 ^ 79 := by
  unfold flipMask; split
  · decide
  · exact Nat.pow_lt_pow_right (by decide) (by omega)

theorem flipAt_eq {p i : Nat} (hp : p < 2 ^ 79) (hi : i < 80) (q : Bool) :
    flipAt (ofPositions p q) i = ofPositions (p ^^^ flipMask i) (xor q (decide (i = 79))) := by
  unfold flipMask; split
  · rename_i h; rw [h, flipAt_parity hp, Nat.xor_zero]; simp
  · rename_i h; rw [flipAt_position hp (by omega)]; simp [h]

theorem flipAt_flipAt (c : Codeword) {i : Nat} (hi : i < 80) : flipAt (flipAt c i) i = c := by
  obtain ⟨p, q, hp, rfl⟩ := exists_ofPositions c
  rw [flipAt_eq hp hi, flipAt_eq (Nat.xor_lt_two_pow hp (flipMask_lt hi)) hi, Nat.xor_xor_cancel_right, Bool.xor_assoc,
    Bool.xor_self, Bool.xor_false]

/-- The syndrome `k` of one flipped bit. -/
def column (k i : Nat) : Nat := if i = 79 then 0 else alpha (k * i)

theorem syndrome_flipMask (k : Nat) {i : Nat} (hi : i < 80) : syndrome k (flipMask i) 79 = column k i := by
  unfold flipMask column; split
  · exact syndrome_zero k 79
  · rw [syndrome_two_pow, if_pos (by omega)]

theorem parityOf_flipMask {i : Nat} (hi : i < 80) : parityOf 79 (flipMask i) = !decide (i = 79) := by
  unfold flipMask; split
  · rename_i h; simp [h, parityOf_zero]
  · rename_i h; rw [parityOf_two_pow]; simp [h]; omega

theorem syndromes_ofPositions {p : Nat} (hp : p < 2 ^ 79) (q : Bool) : syndromes (ofPositions p q) =
    { s1 := syndrome 1 p 79, s3 := syndrome 3 p 79, par := xor (parityOf 79 p) q } := by
  simp only [syndromes, positions_ofPositions hp, parityOf_ofPositions hp]

theorem syndromes_encodeWord (data : DWord) (poison : Bool) :
    syndromes (encodeWord data poison) = { s1 := 0, s3 := 0, par := false } := by
  obtain ⟨h1, h3⟩ := syndrome_codePositions data poison
  rw [encodeWord_eq, syndromes_ofPositions (codePositions_lt ..), h1, h3, Bool.xor_self]

/-- A flipped bit adds its column and turns the parity. -/
theorem syndromes_flipAt (c : Codeword) {i : Nat} (hi : i < 80) : syndromes (flipAt c i) =
    { s1 := (syndromes c).s1 ^^^ column 1 i, s3 := (syndromes c).s3 ^^^ column 3 i, par := !(syndromes c).par } := by
  obtain ⟨p, q, hp, rfl⟩ := exists_ofPositions c
  rw [flipAt_eq hp hi, syndromes_ofPositions (Nat.xor_lt_two_pow hp (flipMask_lt hi)), syndromes_ofPositions hp]
  simp only [syndrome_xor, parityOf_xor, syndrome_flipMask _ hi, parityOf_flipMask hi, Syndromes.mk.injEq, true_and]
  cases parityOf 79 p <;> cases q <;> cases decide (i = 79) <;> rfl

/-! ### The data and the mark of a codeword -/

/-- DATA and POISON of the codeword of data and poison. -/
theorem encodeWord_fields (data : DWord) (poison : Bool) :
    bits (encodeWord data poison).toNat 63 0 = data.toNat ∧ bits (encodeWord data poison).toNat 78 78 = poison.toNat := by
  have hw := ofPositions_digits (checkBits_lt data poison) data.isLt (Bool.toNat_lt poison)
    (parityOf 79 (codePositions data poison))
  rw [encodeWord_eq]
  exact (word_fields data.isLt (checkBits_lt data poison) (Bool.toNat_lt poison) hw).2

theorem codeData_encodeWord (data : DWord) (poison : Bool) : codeData (encodeWord data poison) = data := by
  rw [codeData, (encodeWord_fields data poison).1, BitVec.ofNat_toNat, BitVec.setWidth_eq]

theorem codePoison_encodeWord (data : DWord) (poison : Bool) : codePoison (encodeWord data poison) = poison := by
  have h : (codePoison (encodeWord data poison)).toNat = poison.toNat := by
    rw [codePoison, toNat_bitAt, ← (encodeWord_fields data poison).2, bits, Nat.shiftRight_eq_div_pow]; rfl
  cases hc : codePoison (encodeWord data poison) <;> cases poison <;> simp_all

/-! ### Decoding (R356) -/

theorem alpha_of_gfLog {x m : Nat} (h : gfLog x = some m) : m < 127 ∧ alpha m = x := by
  have h1 := List.find?_some h
  rw [beq_iff_eq, gfPow_eq_alpha] at h1
  exact ⟨List.mem_range.mp (List.mem_of_find?_eq_some h), h1⟩

theorem gfLog_alpha {i : Nat} (h : i < 127) : gfLog (alpha i) = some i := by
  cases hg : gfLog (alpha i) with
  | none =>
    have := List.find?_eq_none.mp hg i (List.mem_range.mpr h)
    simp [gfPow_eq_alpha] at this
  | some m =>
    obtain ⟨hm, he⟩ := alpha_of_gfLog hg
    rw [alpha_inj hm h he]

/-- The single position that the syndromes name, if any. -/
def oneFlip (s1 s3 : Nat) : Option Nat := match gfLog s1 with
  | some i => if gfPow (3 * i) == s3 && i ≤ 78 then some i else none
  | none => none

theorem flipsOf_eq (s : Syndromes) : flipsOf s =
    if s.s1 = 0 ∧ s.s3 = 0 then some (if s.par then [79] else [])
    else match oneFlip s.s1 s.s3 with
      | some i => some (if s.par then [i] else [i, 79])
      | none => if s.par then none
        else match findPair s.s1 s.s3 127 with
          | some (i, j) => if j ≤ 78 then some [i, j] else none
          | none => none := rfl

theorem oneFlip_column {i : Nat} (h : i < 79) : oneFlip (alpha i) (alpha (3 * i)) = some i := by
  unfold oneFlip
  rw [gfLog_alpha (by omega)]
  simp [gfPow_eq_alpha]; omega

theorem oneFlip_none {s1 s3 : Nat} (h : ∀ m, alpha m = s1 → alpha (3 * m) ≠ s3) : oneFlip s1 s3 = none := by
  unfold oneFlip; split
  · rename_i i hi
    have := h i (alpha_of_gfLog hi).2
    rw [if_neg (by simp [gfPow_eq_alpha, this])]
  · rfl

/-- The two columns of a pair of flipped positions are found, since no other pair of columns has their sum. -/
theorem findPair_finds {i j : Nat} (hi : i < 127) (hj : j < i) {n : Nat} (hn : n ≤ 127) (hjn : 127 ≤ n + j) :
    findPair (alpha i ^^^ alpha j) (alpha (3 * i) ^^^ alpha (3 * j)) n = some (j, i) := by
  induction n with
  | zero => omega
  | succ n ih =>
    rw [findPair]
    rcases Nat.lt_or_ge (126 - n) j with ha | ha
    · have hrest := ih (by omega) (by omega)
      split
      · rename_i b hb
        obtain ⟨hb127, hb⟩ := alpha_of_gfLog hb
        rw [if_neg, hrest]
        rw [Bool.and_eq_true, beq_iff_eq, gfPow_eq_alpha, gfPow_eq_alpha, decide_eq_true_eq]
        rintro ⟨h3, -⟩
        have h1 : alpha (126 - n) ^^^ alpha b = alpha i ^^^ alpha j := by
          rw [hb, gfPow_eq_alpha]
          change alpha (126 - n) ^^^ (alpha i ^^^ alpha j ^^^ alpha (126 - n)) = _
          rw [Nat.xor_comm (alpha i ^^^ alpha j), Nat.xor_xor_cancel_left]
        have hne : alpha (126 - n) ≠ alpha b := fun h => by
          rw [h, Nat.xor_self] at h1
          have := alpha_inj hi (by omega) (Nat.xor_eq_zero_iff.mp h1.symm); omega
        rcases alpha_pairs_meet hne h1 h3 with h | h
        · have := alpha_inj (by omega) hi h; omega
        · have := alpha_inj (by omega) (by omega) h; omega
      · exact hrest
    · obtain rfl : j = 126 - n := by omega
      have hlog : Nat.xor (alpha i ^^^ alpha (126 - n)) (gfPow (126 - n)) = alpha i := by
        rw [gfPow_eq_alpha]; exact Nat.xor_xor_cancel_right ..
      rw [hlog, gfLog_alpha hi]
      dsimp only
      rw [if_pos]
      rw [Bool.and_eq_true, beq_iff_eq, gfPow_eq_alpha, gfPow_eq_alpha, decide_eq_true_eq]
      exact ⟨Nat.xor_comm .., hj⟩

/-- A pair of columns is no column, and is not 0. -/
theorem pair_alone {i j : Nat} (hi : i < 127) (hj : j < i) : ¬(alpha i ^^^ alpha j = 0 ∧ alpha (3 * i) ^^^ alpha (3 * j) = 0) ∧
    oneFlip (alpha i ^^^ alpha j) (alpha (3 * i) ^^^ alpha (3 * j)) = none := by
  refine ⟨fun h => ?_, oneFlip_none fun m hm h => alpha_pair_ne_column hm.symm h.symm⟩
  have := alpha_inj hi (by omega) (Nat.xor_eq_zero_iff.mp h.1); omega

/-- Three columns are no column and not 0. -/
theorem triple_alone {i j k : Nat} (hi : i < 127) (hj : j < i) (hk : k < j) :
    ¬(alpha i ^^^ alpha j ^^^ alpha k = 0 ∧ alpha (3 * i) ^^^ alpha (3 * j) ^^^ alpha (3 * k) = 0) ∧
      oneFlip (alpha i ^^^ alpha j ^^^ alpha k) (alpha (3 * i) ^^^ alpha (3 * j) ^^^ alpha (3 * k)) = none := by
  have hij : alpha i ≠ alpha j := fun h => by have := alpha_inj hi (by omega) h; omega
  have hik : alpha i ≠ alpha k := fun h => by have := alpha_inj hi (by omega) h; omega
  have hjk : alpha j ≠ alpha k := fun h => by have := alpha_inj (by omega) (by omega) h; omega
  refine ⟨fun h => alpha_pair_ne_column (Nat.xor_eq_zero_iff.mp h.1) (Nat.xor_eq_zero_iff.mp h.2), oneFlip_none fun m hm h => ?_⟩
  have h1 : alpha i ^^^ alpha j = alpha k ^^^ alpha m := by rw [hm, Nat.xor_comm (alpha k), Nat.xor_xor_cancel_right]
  have h3 : alpha (3 * i) ^^^ alpha (3 * j) = alpha (3 * k) ^^^ alpha (3 * m) := by
    rw [h, Nat.xor_comm (alpha (3 * k)), Nat.xor_xor_cancel_right]
  rcases alpha_pairs_meet hij h1 h3 with h | h
  · exact hik h
  · rw [← h, Nat.xor_comm] at h1
    exact hjk (Nat.xor_left_injective h1)

theorem column_of_lt (k : Nat) {i : Nat} (h : i < 79) : column k i = alpha (k * i) := if_neg (by omega)
theorem column_parity (k : Nat) : column k 79 = 0 := if_pos rfl

theorem decodeWord_corrected {c : Codeword} {i : Nat} {l : List Nat} (h : flipsOf (syndromes c) = some (i :: l)) :
    decodeWord c = .corrected (codeData ((i :: l).foldl flipAt c)) (codePoison ((i :: l).foldl flipAt c)) := by
  unfold decodeWord; rw [h]

theorem flipsOf_one {i : Nat} (hi : i < 80) : flipsOf { s1 := column 1 i, s3 := column 3 i, par := true } = some [i] := by
  rw [flipsOf_eq]
  by_cases h : i = 79
  · subst h; rfl
  · rw [column_of_lt 1 (by omega), column_of_lt 3 (by omega), Nat.one_mul]
    dsimp only
    rw [if_neg (fun h => alpha_ne_zero _ h.1), oneFlip_column (by omega)]; rfl

theorem flipsOf_two {i j : Nat} (hi : i < 80) (hj : j < i) :
    flipsOf { s1 := column 1 i ^^^ column 1 j, s3 := column 3 i ^^^ column 3 j, par := false } =
      some [j, i] := by
  rw [flipsOf_eq, column_of_lt 1 (i := j) (by omega), column_of_lt 3 (i := j) (by omega), Nat.one_mul]
  dsimp only
  by_cases h : i = 79
  · subst h
    rw [column_parity, column_parity, Nat.zero_xor, Nat.zero_xor, if_neg (fun h => alpha_ne_zero _ h.1),
      oneFlip_column (by omega)]; rfl
  · rw [column_of_lt 1 (i := i) (by omega), column_of_lt 3 (i := i) (by omega), Nat.one_mul]
    obtain ⟨h0, h1⟩ := pair_alone (i := i) (j := j) (by omega) hj
    rw [if_neg h0, h1, findPair_finds (by omega) hj (le_refl _) (by omega)]
    dsimp only
    rw [if_neg (by decide), if_pos (by omega)]

theorem flipsOf_three {i j k : Nat} (hi : i < 80) (hj : j < i) (hk : k < j) :
    flipsOf { s1 := column 1 i ^^^ column 1 j ^^^ column 1 k, s3 := column 3 i ^^^ column 3 j ^^^ column 3 k, par := true } =
      none := by
  rw [flipsOf_eq, column_of_lt 1 (i := j) (by omega), column_of_lt 3 (i := j) (by omega), column_of_lt 1 (i := k) (by omega),
    column_of_lt 3 (i := k) (by omega), Nat.one_mul, Nat.one_mul]
  dsimp only
  by_cases h : i = 79
  · subst h
    obtain ⟨h0, h1⟩ := pair_alone (i := j) (j := k) (by omega) hk
    rw [column_parity, column_parity, Nat.zero_xor, Nat.zero_xor, if_neg h0, h1]; rfl
  · obtain ⟨h0, h1⟩ := triple_alone (i := i) (by omega) hj hk
    rw [column_of_lt 1 (i := i) (by omega), column_of_lt 3 (i := i) (by omega), Nat.one_mul, if_neg h0, h1]; rfl

/-- Settles O14: the syndromes of one or two flipped bits name them, and flipping them back gives the codeword. -/
theorem twoFlipsAreCorrected : Obligations.TwoFlipsAreCorrected := by
  intro data poison
  have hd := codeData_encodeWord data poison
  have hp := codePoison_encodeWord data poison
  have hs := syndromes_encodeWord data poison
  generalize encodeWord data poison = c at hd hp hs
  subst hd hp
  refine ⟨?clean, fun i hi => ?one, fun i j hi hj => ?two⟩
  case clean => unfold decodeWord; rw [hs]; rfl
  case one =>
    have h : flipsOf (syndromes (flipAt c i)) = some [i] := by
      rw [syndromes_flipAt c hi, hs, Nat.zero_xor, Nat.zero_xor]; exact flipsOf_one hi
    rw [decodeWord_corrected h]
    simp only [List.foldl_cons, List.foldl_nil, flipAt_flipAt c hi]
  case two =>
    have hj80 : j < 80 := by omega
    have h : flipsOf (syndromes (flipAt (flipAt c i) j)) = some [j, i] := by
      rw [syndromes_flipAt _ hj80, syndromes_flipAt c hi, hs, Nat.zero_xor, Nat.zero_xor]
      exact flipsOf_two hi hj
    rw [decodeWord_corrected h]
    simp only [List.foldl_cons, List.foldl_nil, flipAt_flipAt _ hj80, flipAt_flipAt c hi]

/-- Settles O15: the syndromes of three flipped bits have the parity of one, and match no single bit. -/
theorem threeFlipsAreFound : Obligations.ThreeFlipsAreFound := by
  intro data poison i j k hi hj hk c
  have h : flipsOf (syndromes c) = none := by
    rw [syndromes_flipAt _ (by omega), syndromes_flipAt _ (by omega), syndromes_flipAt _ hi, syndromes_encodeWord,
      Nat.zero_xor, Nat.zero_xor]
    exact flipsOf_three hi hj hk
  unfold decodeWord; rw [h]

end Sys2Proof.Proofs
end

section
/-! SUPPORT. Bytes of numbers (R17): a list of bytes spells a number whose bytes they are, and a masked merge takes each byte
from the new or the old value. -/
namespace Sys2Proof.Proofs
open Sys2Proof Sys2Proof.Machine Sys2Proof.Safety Sys2Proof.Laws

/-- Byte `k` of a number. -/
def byteAt (v k : Nat) : Byte := BitVec.ofNat 8 (v >>> (8 * k))

theorem byteAt_succ (v k : Nat) : byteAt v (k + 1) = byteAt (v / 256) k := by
  rw [byteAt, byteAt, Nat.mul_add, Nat.add_comm, Nat.shiftRight_add, Nat.shiftRight_eq_div_pow v]

theorem byteAt_zero (v : Nat) : byteAt v 0 = BitVec.ofNat 8 v := rfl

/-- A list of bytes is the bytes of the number it spells. -/
theorem byteAt_leNat (l : List Byte) (k : Nat) : byteAt (leNat l) k = l.getD k 0 := by
  induction l generalizing k with
  | nil => simp [leNat, byteAt]
  | cons b t ih =>
    have hb : b.toNat < 256 := b.isLt
    cases k with
    | zero =>
      apply BitVec.eq_of_toNat_eq
      rw [byteAt_zero, leNat, BitVec.toNat_ofNat, List.getD_cons_zero]; omega
    | succ k =>
      have hdiv : leNat (b :: t) / 256 = leNat t := by rw [leNat]; omega
      rw [byteAt_succ, hdiv, ih, List.getD_cons_succ]

/-- The bytes of a number spell it. -/
theorem leNat_byteAt (n v : Nat) : leNat ((List.range n).map (byteAt v)) = v % 256 ^ n := by
  induction n generalizing v with
  | zero => simp [leNat, Nat.mod_one]
  | succ n ih =>
    have hmap : (List.range n).map (byteAt v ∘ Nat.succ) = (List.range n).map (byteAt (v / 256)) :=
      List.map_congr_left fun k _ => byteAt_succ v k
    rw [List.range_succ_eq_map, List.map_cons, List.map_map, leNat, hmap, ih, byteAt_zero, BitVec.toNat_ofNat,
      pow_succ' 256 n, Nat.mod_mul]

theorem leNat_lt (l : List Byte) : leNat l < 256 ^ l.length := by
  induction l with
  | nil => simp [leNat]
  | cons b t ih =>
    have hb : b.toNat < 256 := b.isLt
    rw [leNat, List.length_cons, Nat.pow_succ]; omega

theorem leNat_append_byte (l : List Byte) (b : Byte) : leNat (l ++ [b]) = leNat l + b.toNat * 256 ^ l.length := by
  induction l with
  | nil => simp [leNat]
  | cons c t ih => rw [List.cons_append, leNat, ih, leNat, List.length_cons, Nat.pow_succ]; ring

theorem byteAt_ofNat_leNat {l : List Byte} (h : l.length = 8) (k : Nat) :
    byteAt (BitVec.ofNat 64 (leNat l)).toNat k = l.getD k 0 := by
  have hlt := leNat_lt l
  rw [h] at hlt
  rw [BitVec.toNat_ofNat, Nat.mod_eq_of_lt (by omega), byteAt_leNat]

theorem getD_map_range {α : Type} (f : Nat → α) (d : α) {n k : Nat} (h : k < n) : ((List.range n).map f).getD k d = f k := by
  simp [List.getD_eq_getElem?_getD, h]

/-! ### Masks of bytes -/

/-- Byte `k` of a merged word is the new one where the mask has a 1. -/
theorem byteAt_mergeBytes (old new : DWord) (mask : Nat) {k : Nat} (h : k < 8) :
    byteAt (mergeBytes old new mask).toNat k = byteAt (if bitAt mask k then new.toNat else old.toNat) k := by
  have hfold (g : Nat → Nat) (n : Nat) :
      (List.range n).foldl (fun acc i => acc + (bits (g i) (8 * i + 7) (8 * i) <<< (8 * i))) 0 =
        leNat ((List.range n).map fun i => byteAt (g i) i) := by
    induction n with
    | zero => rfl
    | succ n ih =>
      have hb : bits (g n) (8 * n + 7) (8 * n) = (byteAt (g n) n).toNat := by
        rw [bits, byteAt, BitVec.toNat_ofNat, show 8 * n + 7 + 1 - 8 * n = 8 by omega]
      rw [List.range_succ, List.foldl_append, List.foldl_cons, List.foldl_nil, ih, List.map_append, List.map_cons,
        List.map_nil, leNat_append_byte, hb, Nat.shiftLeft_eq, Nat.pow_mul, List.length_map, List.length_range]
  rw [mergeBytes, hfold, byteAt_ofNat_leNat (by simp), getD_map_range _ _ h]

theorem testBit_add_two_pow {v j : Nat} (h : v.testBit j = false) (i : Nat) :
    (v + 2 ^ j).testBit i = (v.testBit i || decide (i = j)) := by
  have hlt : v % 2 ^ j < 2 ^ j := Nat.mod_lt _ (Nat.two_pow_pos j)
  have heven : v / 2 ^ j = 2 * (v / 2 ^ j / 2) := by
    rw [Nat.testBit_eq_decide_div_mod_eq, decide_eq_false_iff_not] at h; omega
  have hv : v = 2 ^ j * (2 * (v / 2 ^ j / 2)) + v % 2 ^ j := by rw [← heven, Nat.div_add_mod]
  generalize v / 2 ^ j / 2 = h2 at hv
  generalize v % 2 ^ j = lo at hv hlt
  subst hv
  rw [Nat.add_right_comm, ← Nat.mul_succ, Nat.testBit_two_pow_mul_add _ hlt, Nat.testBit_two_pow_mul_add _ hlt]
  by_cases hi : i < j
  · simp [hi, Nat.ne_of_lt hi]
  · obtain ⟨k, rfl⟩ : ∃ k, i = j + k := ⟨i - j, by omega⟩
    cases k with
    | zero => simp [Nat.testBit_zero]
    | succ k => simp [Nat.testBit_succ, Nat.add_div_of_dvd_right]

theorem bitAt_ofBitList (l : List Nat) (i : Nat) : bitAt (ofBitList l) i = decide (i ∈ l) := by
  suffices h : ∀ v, bitAt (l.foldl (fun v i => if bitAt v i then v else v + 2 ^ i) v) i = (bitAt v i || decide (i ∈ l)) by
    rw [ofBitList, h]; simp [bitAt]
  induction l with
  | nil => simp
  | cons j t ih =>
    intro v
    have hset : bitAt (if bitAt v j then v else v + 2 ^ j) i = (bitAt v i || decide (i = j)) := by
      split
      · rename_i hv
        by_cases hij : i = j
        · rw [hij, hv]; rfl
        · simp [hij]
      · rename_i hv
        rw [bitAt_eq_testBit] at hv
        rw [bitAt_eq_testBit, bitAt_eq_testBit, testBit_add_two_pow (by simpa using hv)]
    rw [List.foldl_cons, ih, hset, Bool.or_assoc, ← Bool.decide_or]
    simp

theorem bitAt_mod (v : Nat) {k : Nat} (h : k < 8) : bitAt (v % 256) k = bitAt v k := by
  rw [bitAt_eq_testBit, bitAt_eq_testBit, show 256 = 2 ^ 8 from rfl, Nat.testBit_mod_two_pow]; simp [h]

end Sys2Proof.Proofs
end

section
/-! SUPPORT. Words of a memory of canonical form (R354, R356): what a word that is put or written reads as, and that every other
word reads as before. -/
namespace Sys2Proof.Proofs
open Sys2Proof Sys2Proof.Machine Sys2Proof.Safety Sys2Proof.Laws

/-! ### Sorted lists -/

theorem sortedBy_key_above {α : Type} {p : α → Prop} {lo : Option Nat} {t : List (Nat × α)} (h : SortedBy p lo t) {e : Nat × α}
    (he : e ∈ t) : ∀ l, lo = some l → l < e.1 := by
  induction t generalizing lo with
  | nil => cases he
  | cons x t ih =>
    obtain ⟨hx, -, ht⟩ := h
    rcases List.mem_cons.mp he with rfl | he
    · exact hx
    · exact fun l hl => Nat.lt_trans (hx l hl) (ih ht he _ rfl)

theorem rising_of_sortedBy {α : Type} {p : α → Prop} {lo : Option Nat} {t : List (Nat × α)} (h : SortedBy p lo t) : Rising lo t := by
  induction t generalizing lo with
  | nil => trivial
  | cons x t ih => exact ⟨h.1, ih h.2.2⟩

/-! ### Marks and flipped bits -/

theorem mem_ndel {lo : Option Nat} {l : List Nat} (h : risingFrom lo l = true) (k y : Nat) :
    y ∈ ndel k l ↔ y ∈ l ∧ y ≠ k := by
  induction l generalizing lo with
  | nil => simp [ndel]
  | cons j t ih =>
    simp only [risingFrom, Bool.and_eq_true] at h
    have above : ∀ z ∈ t, j < z := by
      have hs := (risingFrom_iff _ _).mp h.2
      intro z hz
      have hmem : (z, ()) ∈ t.map fun k => (k, ()) := List.mem_map.mpr ⟨z, hz, rfl⟩
      exact sortedBy_key_above hs hmem j rfl
    unfold ndel; split
    · rename_i hk; subst hk
      constructor
      · intro hy; exact ⟨List.mem_cons_of_mem _ hy, Nat.ne_of_gt (above y hy)⟩
      · rintro ⟨hy, hne⟩; exact (List.mem_cons.mp hy).resolve_left hne
    · rename_i hk
      rw [List.mem_cons, List.mem_cons, ih h.2]
      constructor
      · rintro (rfl | ⟨hy, hne⟩)
        · exact ⟨.inl rfl, fun h => hk h.symm⟩
        · exact ⟨.inr hy, hne⟩
      · rintro ⟨rfl | hy, hne⟩
        · exact .inl rfl
        · exact .inr ⟨hy, hne⟩

theorem memPoison_memSetPoison {m : Mem} (h : Memory.wf m = true) (w x : Nat) (p : Bool) :
    memPoison (memSetPoison m w p) x = if w = x then p else memPoison m x := by
  obtain ⟨-, hp, -⟩ := (wf_iff m).mp h
  rw [Bool.eq_iff_iff, memPoison, nmem_iff]
  cases p
  · change x ∈ ndel w m.poison ↔ _
    rw [mem_ndel hp, ← nmem_iff]
    split
    · simp_all
    · rename_i hx; simp [memPoison, Ne.symm hx]
  · change x ∈ nadd w m.poison ↔ _
    rw [mem_nadd, ← nmem_iff]
    split
    · simp_all
    · rename_i hx; simp [memPoison, Ne.symm hx]

theorem memErr_memSetErr {m : Mem} (h : Memory.wf m = true) (w x : Nat) (e : Codeword) :
    memErr (memSetErr m w e) x = if w = x then e else memErr m x := by
  obtain ⟨-, -, he⟩ := (wf_iff m).mp h
  unfold memErr memSetErr
  dsimp only
  split
  · rename_i h0
    rw [tget, tfind_tdel _ _ (rising_of_sortedBy he)]
    split
    · exact h0.symm
    · rfl
  · split
    · rename_i hx; rw [hx]; exact tget_tput_same ..
    · rename_i hx; exact tget_tput_other _ _ hx _

/-! ### A word that is put -/

theorem memByte_foldl_put {m : Mem} (h : Memory.wf m = true) (b : Nat) (g : Nat → Byte) (n x : Nat) :
    memByte ((List.range n).foldl (fun m i => memPutByte m (b + i) (g i)) m) x =
      if b ≤ x ∧ x < b + n then g (x - b) else memByte m x := by
  induction n with
  | zero => rw [if_neg (by omega)]; rfl
  | succ n ih =>
    rw [List.range_succ, List.foldl_append, List.foldl_cons, List.foldl_nil,
      memByte_memPutByte (wf_foldl _ (fun _ _ h => wf_memPutByte h _ _) _ h), ih]
    split
    · rename_i hx; subst hx
      rw [if_pos (by omega), Nat.add_sub_cancel_left]
    · rename_i hx
      have hiff : (b ≤ x ∧ x < b + n) ↔ (b ≤ x ∧ x < b + (n + 1)) := by omega
      simp only [hiff]

/-- The bytes, the mark and the flipped bits of a memory in which a word is put. -/
theorem memByte_memPutWord {m : Mem} (h : Memory.wf m = true) (w x : Nat) (data : DWord) (p : Bool) :
    memByte (memPutWord m w data p) x = if w = x / 8 then byteAt data.toNat (x % 8) else memByte m x := by
  have e : memByte (memPutWord m w data p) x =
      memByte ((List.range 8).foldl (fun m i => memPutByte m (8 * w + i) (byteAt data.toNat i)) m) x := rfl
  rw [e, memByte_foldl_put h]
  split <;> split
  · congr 1; omega
  · omega
  · omega
  · rfl

theorem memPoison_memPutWord {m : Mem} (h : Memory.wf m = true) (w x : Nat) (data : DWord) (p : Bool) :
    memPoison (memPutWord m w data p) x = if w = x then p else memPoison m x := by
  have hf : Memory.wf ((List.range 8).foldl (fun m i => memPutByte m (8 * w + i) (byteAt data.toNat i)) m) = true :=
    wf_foldl _ (fun _ _ h => wf_memPutByte h _ _) _ h
  have e (l : List Nat) (n : Mem) : (l.foldl (fun m i => memPutByte m (8 * w + i) (byteAt data.toNat i)) n).poison = n.poison := by
    induction l generalizing n with
    | nil => rfl
    | cons a t ih => exact ih _
  refine (memPoison_memSetPoison hf w x p).trans ?_
  rw [memPoison, e, ← memPoison]

theorem memErr_memPutWord {m : Mem} (h : Memory.wf m = true) (w x : Nat) (data : DWord) (p : Bool) :
    memErr (memPutWord m w data p) x = if w = x then 0 else memErr m x := by
  have hf : Memory.wf (memSetPoison ((List.range 8).foldl (fun m i => memPutByte m (8 * w + i) (byteAt data.toNat i)) m) w p)
      = true := wf_memSetPoison (wf_foldl _ (fun _ _ h => wf_memPutByte h _ _) _ h) w p
  have e (l : List Nat) (n : Mem) : (l.foldl (fun m i => memPutByte m (8 * w + i) (byteAt data.toNat i)) n).errs = n.errs := by
    induction l generalizing n with
    | nil => rfl
    | cons a t ih => exact ih _
  refine (memErr_memSetErr hf w x 0).trans ?_
  rw [memErr, memSetPoison, e, ← memErr]

theorem memData_memPutWord {m : Mem} (h : Memory.wf m = true) (w x : Nat) (data : DWord) (p : Bool) :
    memData (memPutWord m w data p) x = if w = x then data else memData m x := by
  unfold memData memBytes
  split
  · rename_i hx; subst hx
    have hmap : (List.range 8).map (fun i => memByte (memPutWord m w data p) (8 * w + i)) = (List.range 8).map (byteAt data.toNat) := by
      refine List.map_congr_left fun i hi => ?_
      rw [List.mem_range] at hi
      rw [memByte_memPutWord h, if_pos (by omega)]; congr 1; omega
    rw [hmap, leNat_byteAt]
    apply BitVec.eq_of_toNat_eq
    have := data.isLt
    rw [BitVec.toNat_ofNat]; omega
  · rename_i hx
    congr 2
    refine List.map_congr_left fun i hi => ?_
    rw [List.mem_range] at hi
    rw [memByte_memPutWord h, if_neg (by omega)]

/-- A word that is put reads back with its mark; every other word reads as before. -/
theorem memVal_memPutWord {m : Mem} (h : Memory.wf m = true) (w x : Nat) (data : DWord) (p : Bool) :
    memVal (memPutWord m w data p) x = if w = x then (data, p) else memVal m x := by
  unfold memVal memDecode memStored
  rw [memErr_memPutWord h, memData_memPutWord h, memPoison_memPutWord h]
  split <;> rfl

/-! ### A word that is written -/

/-- What a write of the bytes of `mask` makes of a word (R173, R298, R363). -/
def overwritten (old : DWord × Bool) (data : DWord) (mask : Nat) (p : Bool) : DWord × Bool :=
  if mask % 256 = 255 then (data, p) else if mask % 256 = 0 then old else (mergeBytes old.1 data mask, old.2 || p)

theorem memVal_memWriteWord {m : Mem} (h : Memory.wf m = true) (w x : Nat) (data : DWord) (mask : Nat) (p : Bool) :
    memVal (memWriteWord m w data mask p) x = if w = x then overwritten (memVal m w) data mask p else memVal m x := by
  unfold memWriteWord overwritten
  split
  · exact memVal_memPutWord h ..
  · split
    · split
      · rename_i hx; rw [hx]
      · rfl
    · exact memVal_memPutWord h ..

theorem byteAt_overwritten (old : DWord × Bool) (data : DWord) (mask : Nat) (p : Bool) {k : Nat} (hk : k < 8) :
    byteAt (overwritten old data mask p).1.toNat k = byteAt (if bitAt mask k then data.toNat else old.1.toNat) k := by
  have hbit := bitAt_mod mask hk
  unfold overwritten
  split
  · rename_i h
    have h1 : bitAt 255 k = true := by interval_cases k <;> rfl
    rw [h, h1] at hbit
    rw [← hbit]; rfl
  · split
    · rename_i h
      rw [h] at hbit
      rw [← hbit]; simp [bitAt]
    · exact byteAt_mergeBytes _ _ _ hk

end Sys2Proof.Proofs
end

section
/-! SUPPORT. Ranges of bytes (R354, R356): a written range is a list of words, each with the mask of its bytes, so each byte reads
as the written one within the range and as the old one elsewhere. -/
namespace Sys2Proof.Proofs
open Sys2Proof Sys2Proof.Machine Sys2Proof.Safety Sys2Proof.Laws

/-! ### The words of a range -/

/-- The bytes of word `w` that bytes `a` to `a + n − 1` touch. -/
def byteMask (a n w : Nat) : Nat := ofBitList ((List.range 8).filter fun k => decide (a ≤ 8 * w + k ∧ 8 * w + k < a + n))

theorem bitAt_byteMask (a n w : Nat) {k : Nat} (hk : k < 8) :
    bitAt (byteMask a n w) k = decide (a ≤ 8 * w + k ∧ 8 * w + k < a + n) := by
  rw [byteMask, bitAt_ofBitList]; simp [hk]

theorem wordsOf_eq {n : Nat} (hn : n ≠ 0) (a : Nat) : wordsOf a n =
    (List.range ((a + n - 1) / 8 - a / 8 + 1)).map fun i => (a / 8 + i, byteMask a n (a / 8 + i)) := by
  unfold wordsOf; rw [if_neg hn]; rfl

theorem mem_wordsOf {a n w k : Nat} : (w, k) ∈ wordsOf a n ↔ n ≠ 0 ∧ a / 8 ≤ w ∧ w ≤ (a + n - 1) / 8 ∧ k = byteMask a n w := by
  by_cases hn : n = 0
  · simp [wordsOf, hn]
  · rw [wordsOf_eq hn, List.mem_map]
    constructor
    · rintro ⟨i, hi, he⟩
      obtain ⟨rfl, rfl⟩ := Prod.mk.inj he
      rw [List.mem_range] at hi
      exact ⟨hn, by omega, by omega, rfl⟩
    · rintro ⟨-, h1, h2, rfl⟩
      refine ⟨w - a / 8, List.mem_range.mpr (by omega), ?_⟩
      rw [Nat.add_sub_cancel' h1]

theorem wordsOf_nodup (a n : Nat) : ((wordsOf a n).map (·.1)).Nodup := by
  by_cases hn : n = 0
  · simp [wordsOf, hn]
  · rw [wordsOf_eq hn, List.map_map]
    exact List.nodup_range.map_on fun i _ j _ h => Nat.add_left_cancel h

/-- A byte at an address, after correction. -/
def byteVal (m : Mem) (x : Nat) : Byte := byteAt (memVal m (x / 8)).1.toNat (x % 8)

theorem memRead_bytes (m : Mem) (a n : Nat) : (memRead m a n).1 = (List.range n).map fun i => byteVal m (a + i) := by
  refine List.map_congr_left fun i hi => ?_
  rw [List.mem_range] at hi
  cases hf : ((wordsOf a n).map fun e => (e.1, memVal m e.1)).find? fun v => v.1 == (a + i) / 8 with
  | none =>
    have hmem : ((a + i) / 8, byteMask a n ((a + i) / 8)) ∈ wordsOf a n :=
      mem_wordsOf.mpr ⟨by omega, by omega, by omega, rfl⟩
    have := List.find?_eq_none.mp hf _ (List.mem_map.mpr ⟨_, hmem, rfl⟩)
    simp at this
  | some v =>
    obtain ⟨e, -, rfl⟩ := List.mem_map.mp (List.mem_of_find?_eq_some hf)
    have hw : e.1 = (a + i) / 8 := by simpa using List.find?_some hf
    dsimp only; rw [hf]
    dsimp only; rw [hw]; rfl

theorem memRead_mark (m : Mem) (a n : Nat) : (memRead m a n).2 = (wordsOf a n).any fun e => (memVal m e.1).2 := by
  unfold memRead; dsimp only; rw [List.any_map]; rfl

/-! ### A range that is written -/

section
variable (f : Nat → DWord) (p : Bool)

/-- The words of a list are written one after the other, each with the bytes of its mask. -/
def writeWords (m : Mem) (l : List (Nat × Nat)) : Mem := l.foldl (fun m e => memWriteWord m e.1 (f e.1) e.2 p) m

theorem memVal_writeWords_other {m : Mem} (h : Memory.wf m = true) {l : List (Nat × Nat)} {x : Nat} (hx : x ∉ l.map (·.1)) :
    memVal (writeWords f p m l) x = memVal m x := by
  induction l generalizing m with
  | nil => rfl
  | cons e t ih =>
    simp only [List.map_cons, List.mem_cons, not_or] at hx
    refine (ih (wf_memWriteWord h ..) hx.2).trans ?_
    rw [memVal_memWriteWord h, if_neg (Ne.symm hx.1)]

theorem memVal_writeWords {m : Mem} (h : Memory.wf m = true) {l : List (Nat × Nat)} (hl : (l.map (·.1)).Nodup) {x k : Nat}
    (hx : (x, k) ∈ l) : memVal (writeWords f p m l) x = overwritten (memVal m x) (f x) k p := by
  induction l generalizing m with
  | nil => cases hx
  | cons e t ih =>
    obtain ⟨hne, hnd⟩ := List.nodup_cons.mp hl
    rcases List.mem_cons.mp hx with rfl | hx
    · refine (memVal_writeWords_other f p (wf_memWriteWord h ..) hne).trans ?_
      rw [memVal_memWriteWord h, if_pos rfl]
    · refine (ih (wf_memWriteWord h ..) hnd hx).trans ?_
      have hex : e.1 ≠ x := fun he => hne (List.mem_map.mpr ⟨_, hx, he.symm⟩)
      rw [memVal_memWriteWord h, if_neg hex]

end

theorem memWrite_eq (m : Mem) (a : Nat) (bs : List Byte) (p : Bool) :
    memWrite m a bs p = writeWords (spreadWord a bs) p m (wordsOf a bs.length) := rfl

/-- A word outside a written range reads as before. -/
theorem memVal_memWrite_outside {m : Mem} (h : Memory.wf m = true) (a : Nat) (bs : List Byte) (p : Bool) {w : Nat}
    (hw : 8 * w + 8 ≤ a ∨ a + bs.length ≤ 8 * w) : memVal (memWrite m a bs p) w = memVal m w := by
  rw [memWrite_eq]
  refine memVal_writeWords_other _ _ h fun hmem => ?_
  obtain ⟨⟨x, k⟩, he, rfl⟩ := List.mem_map.mp hmem
  obtain ⟨hn, h1, h2, -⟩ := mem_wordsOf.mp he
  dsimp only at hw; omega

theorem memVal_memWrite_inside {m : Mem} (h : Memory.wf m = true) (a : Nat) {bs : List Byte} (hbs : bs ≠ []) (p : Bool) {w : Nat}
    (h1 : a / 8 ≤ w) (h2 : w ≤ (a + bs.length - 1) / 8) :
    memVal (memWrite m a bs p) w = overwritten (memVal m w) (spreadWord a bs w) (byteMask a bs.length w) p := by
  rw [memWrite_eq]
  exact memVal_writeWords _ _ h (wordsOf_nodup ..)
    (mem_wordsOf.mpr ⟨fun h0 => hbs (List.length_eq_zero_iff.mp h0), h1, h2, rfl⟩)

theorem byteAt_spreadWord (a : Nat) (bs : List Byte) (w : Nat) {k : Nat} (hk : k < 8) (ha : a ≤ 8 * w + k) :
    byteAt (spreadWord a bs w).toNat k = bs.getD (8 * w + k - a) 0 := by
  rw [spreadWord, byteAt_ofNat_leNat (by simp), getD_map_range _ _ hk, if_pos ha]

/-- Each byte after a write: the written one within the range, the old one elsewhere. -/
theorem byteVal_memWrite {m : Mem} (h : Memory.wf m = true) (a : Nat) (bs : List Byte) (p : Bool) (x : Nat) :
    byteVal (memWrite m a bs p) x = if a ≤ x ∧ x < a + bs.length then bs.getD (x - a) 0 else byteVal m x := by
  have hk : x % 8 < 8 := Nat.mod_lt _ (by decide)
  have hx : 8 * (x / 8) + x % 8 = x := Nat.div_add_mod x 8
  by_cases hbs : bs = []
  · subst hbs
    rw [if_neg (by simp)]; rfl
  have hpos := List.length_pos_iff.mpr hbs
  unfold byteVal
  by_cases hout : 8 * (x / 8) + 8 ≤ a ∨ a + bs.length ≤ 8 * (x / 8)
  · rw [memVal_memWrite_outside h a bs p hout, if_neg (by omega)]
  · rw [memVal_memWrite_inside h a hbs p (by omega) (by omega), byteAt_overwritten _ _ _ _ hk, bitAt_byteMask _ _ _ hk, hx]
    simp only [decide_eq_true_eq]
    split
    · rename_i hin
      rw [byteAt_spreadWord a bs _ hk (by omega), hx]
    · rfl

theorem byteMask_full {a n w : Nat} (h1 : a ≤ 8 * w) (h2 : 8 * w + 8 ≤ a + n) : byteMask a n w = 255 := by
  have hall : (List.range 8).filter (fun k => decide (a ≤ 8 * w + k ∧ 8 * w + k < a + n)) = List.range 8 := by
    refine List.filter_eq_self.mpr fun k hk => ?_
    rw [List.mem_range] at hk
    rw [decide_eq_true_eq]; omega
  rw [byteMask, hall]; rfl

/-- Whole words read back with the mark they are written with. -/
theorem memRead_memWrite_mark {m : Mem} (h : Memory.wf m = true) {a : Nat} {bs : List Byte} (hbs : bs ≠ []) (ha : a % 8 = 0)
    (hl : bs.length % 8 = 0) (p : Bool) : (memRead (memWrite m a bs p) a bs.length).2 = p := by
  have hpos := List.length_pos_iff.mpr hbs
  have hval : ∀ e ∈ wordsOf a bs.length, (memVal (memWrite m a bs p) e.1).2 = p := by
    rintro ⟨w, k⟩ he
    obtain ⟨-, h1, h2, -⟩ := mem_wordsOf.mp he
    rw [memVal_memWrite_inside h a hbs p h1 h2, byteMask_full (by omega) (by omega)]; rfl
  have hmem : (a / 8, byteMask a bs.length (a / 8)) ∈ wordsOf a bs.length := mem_wordsOf.mpr ⟨by omega, by omega, by omega, rfl⟩
  rw [memRead_mark]
  cases p
  · exact List.any_eq_false.mpr fun e he => by simp [hval e he]
  · exact List.any_eq_true.mpr ⟨_, hmem, hval _ hmem⟩

/-- Settles O13: each byte after a write is the written one within the range and the old one elsewhere. -/
theorem writesReadBack : Obligations.WritesReadBack := by
  intro m a bs p h
  refine ⟨?_, fun hbs ha hl => memRead_memWrite_mark h hbs ha hl p, fun x hx => ?_,
    fun w hw => memVal_memWrite_outside h a bs p hw⟩
  · rw [memRead_bytes]
    refine List.ext_getElem (by simp) fun i h1 h2 => ?_
    rw [List.getElem_map, List.getElem_range, byteVal_memWrite h, if_pos (by omega), Nat.add_sub_cancel_left,
      List.getD_eq_getElem _ _ h2]
  · rw [memRead_bytes, memRead_bytes]
    refine List.map_congr_left fun i hi => ?_
    obtain rfl : i = 0 := by simpa using hi
    rw [byteVal_memWrite h, if_neg (by omega)]

end Sys2Proof.Proofs
end

section
/-! SUPPORT. Internal links (R358 to R361, R384): a sector passes, is sent again, tests its lanes or is lost. -/
namespace Sys2Proof.Proofs
open Sys2Proof Sys2Proof.Machine Sys2Proof.Safety Sys2Proof.Laws

theorem links_crcSmudge (d : Dev) (u : Sender) : (crcSmudge d u).1.links = d.links := by
  have htake (r : RegId) (ix : List Nat) : (if bitAt (regGet d r ix) 17 = true
      then (regClearBit d r ix 17, BitVec.ofNat 32 (bits (regGet d r ix) 63 32)) else (d, (0 : Word))).1.links = d.links := by
    split <;> rfl
  cases u with
  | hbm c =>
    unfold crcSmudge
    dsimp only
    split
    · exact htake ..
    · rfl
  | slice s =>
    unfold crcSmudge
    dsimp only
    split
    · exact htake ..
    · rfl
  | other => rfl

theorem linkOf_crcSmudge {d d1 : Dev} {u : Sender} {mask : Word} (h : crcSmudge d u = (d1, mask)) (l : LinkId) :
    linkOf d1 l = linkOf d l := by
  have hl := links_crcSmudge d u
  rw [h] at hl
  rw [linkOf, linkOf, hl]

section
variable {s : State} {l : LinkId} (hr : runs s)
include hr

section
variable {sender : Sender} {x : Sector} {u : SectorUse} {d : Dev} {mask : Word} (ht : (linkOf s.dev l).testing = false)
variable (hs : crcSmudge s.dev sender = (d, mask))
include ht hs

/-- A sector whose CRC is the one received is acknowledged, and its words are dealt with (R358 to R360). -/
theorem execSectorReceived_passes (hcrc : crc32c (sectorString x.words) = x.crc ^^^ mask) :
    execSectorReceived l sender x u s =
      let passed := (x.words.mapIdx fun i w => (i, w)).foldl (fun d e => noteEscape d l e)
        { d with links := tdel d.links (linkKey l) }
      after s (if badMask x.words = 0 then passed else loseWords passed u (badMask x.words)) := by
  refine act_eq hr ?_
  dsimp only
  rw [ht, hs, if_neg (by decide)]
  exact if_pos hcrc

/-- Another is sent again, and the fourth failure starts the lane test (R360, R361). -/
theorem execSectorReceived_fails (hcrc : crc32c (sectorString x.words) ≠ x.crc ^^^ mask) :
    execSectorReceived l sender x u s =
      let n := (linkOf s.dev l).attempts + 1
      let failed := { d with links := tput d.links (linkKey l) { attempts := n, testing := decide (n ≥ 4) } }
      after s (if n < 4 then emit (countResends failed 1) (.linkResend l) else failed) := by
  refine act_eq hr ?_
  dsimp only
  rw [ht, hs, if_neg (by decide)]
  exact if_neg hcrc

end

/-- The end of a lane test spares faulty bonds and tries further where there were some, and loses the sector where there were
none or the tries fail (R361). -/
theorem execLinkLaneTestDone_ends {badBonds : List Nat} {retryOk recovered : Bool} {u : SectorUse}
    (ht : (linkOf s.dev l).testing = true) :
    execLinkLaneTestDone l badBonds retryOk recovered u s =
      let d := { s.dev with links := tdel s.dev.links (linkKey l) }
      let spared := if l.kind = 0 ∧ l.no < 512
        then swapWaiting (failBonds d (l.no / 2) (l.no % 2) badBonds) (l.no / 2) (l.no % 2) else d
      let r := furtherTries spared retryOk
      after s (if badBonds = [] then loseSector d l 4 recovered u
        else if retryOk = true then countResends r.2 r.1 else loseSector (countResends r.2 r.1) l 8 recovered u) := by
  refine act_eq hr ?_
  simp [ht]

/-- A buffered line that is sent again ends in the buffer once it passes; a failure is counted and logged (R361). -/
theorem execWritebackRetry_tries {slice line : Nat} {failed : Option LinkId} {w : WbEntry}
    (hw : (sliceOf s.dev slice).wbuf.find? (fun w => w.line.idx == line) = some w) :
    execWritebackRetry slice line failed s = after s (match failed with
      | none => finishWb s.dev slice line (isTl w.line.kind)
      | some l => logErr (regBump s.dev .integUe [] 31 16 1) stCrcFinal ukSlice slice 2 (1024 * line) (linkDetail l 4)) := by
  refine act_eq hr ?_
  cases failed <;> simp only [hw]

end

/-- Settles O40: a received sector by its CRC, the end of a lane test by its faulty bonds, a repeated line by its failure. -/
theorem internalLinks : Obligations.InternalLinks := by
  refine ⟨?received, ?tested, ?retried⟩
  case received =>
    intro s l sender x u d mask hr ht hs passed n failed
    exact ⟨fun hcrc => execSectorReceived_passes hr ht hs hcrc,
      fun hcrc => ⟨linkOf_crcSmudge hs l, execSectorReceived_fails hr ht hs hcrc⟩⟩
  case tested => exact fun s l badBonds retryOk recovered u hr ht => execLinkLaneTestDone_ends hr ht
  case retried =>
    intro s slice line failed w hr hw
    exact execWritebackRetry_tries hr hw

end Sys2Proof.Proofs
end

section
/-! SUPPORT. The error log's registers and merge timer (R369 to R372). -/
namespace Sys2Proof.Proofs
open Sys2Proof Sys2Proof.Machine Sys2Proof.Safety Sys2Proof.Laws

section
variable {d : Dev} {off bytes : Nat} {v : DWord} {t : RegDef} {ix : List Nat} (hw : writable d off bytes v t ix) (r : Req)
include hw

/-- A base of 0, or one in backed memory that meets no placed region, empties the ring (R370). -/
theorem writeErrlogBase_places {x a : Nat} (hx : written d t ix off bytes v = x) (ha : bits x 47 12 <<< 12 = a)
    (hplace : a = 0 ∨ (backed d a (4096 * 2 ^ bits x 3 0) = true ∧ hitsPlaced d a (4096 * 2 ^ bits x 3 0) = false)) :
    writeErrlogBase d r bytes off v = regPut (regPut d .errlogBase [] x) .errlogPtr [] 0 := by
  subst hx ha
  unfold writeErrlogBase
  rw [withWrite_eq hw]
  refine if_neg ?_
  rcases hplace with h0 | ⟨hb, hh⟩
  · rw [written] at h0; simp [h0]
  · rw [written] at hb hh; simp [hb, hh]

/-- A write of the upper half moves the consumer position within the ring, and marks any other as bad (R371, R372). -/
theorem writeErrlogPtr_consumes (hm : bits (accessMask off bytes) 63 32 ≠ 0) :
    writeErrlogPtr d r off bytes v =
      let cons := bits (written d t ix off bytes v) 63 32
      if (errProd d + 2 ^ 32 - cons) % 2 ^ 32 ≤ (errRing d).2 then regSetField d .errlogPtr [] 63 32 cons
      else regSetBit d .errlogStatus [] 1 := by
  unfold writeErrlogPtr
  rw [withWrite_eq hw]
  exact if_neg hm

end

/-- Settles O41: the timer by what its unit has corrected since, the two registers by their rules. -/
theorem errorLogRegisters : Obligations.ErrorLogRegisters := by
  refine ⟨?timer, ?base, ?cons⟩
  case timer =>
    intro s kind unit m hr hm k r
    change execCorrectedMergeTimer kind unit s = _
    refine act_eq hr ?_
    dsimp only
    rw [hm]
  case base =>
    intro s r off bytes v t ix hr hw hoff x a hplace
    change execErrlogBaseWrite r off bytes v s = _
    exact act_eq hr ((if_pos hoff).trans (writeErrlogBase_places hw r rfl rfl hplace))
  case cons =>
    intro s r off bytes v t ix hr hw hoff hm cons
    change execErrlogConsWrite r off bytes v s = _
    exact act_eq hr ((if_pos hoff).trans (writeErrlogPtr_consumes hw r hm))

end Sys2Proof.Proofs
end

section
/-! SUPPORT. The gleaners of the stacks and the slices (R373 to R377). -/
namespace Sys2Proof.Proofs
open Sys2Proof Sys2Proof.Machine Sys2Proof.Safety Sys2Proof.Laws

/-- The gleaner of a stack reads and corrects its next sector while a pass or its period runs (R373, R375). -/
theorem execGleanSector_reads {s : State} {k : Nat} {flips : List (Nat × Codeword)} {late : Bool} (hr : runs s)
    (hk : k ∈ popStacks s.dev) (hat : (stackOf s.dev k).gleanAt < stackSectors)
    (hrest : (stackOf s.dev k).resting = false)
    (hon : (∃ j ∈ popStacks s.dev, (stackOf s.dev j).gleanAt ≠ 0) ∨ regField s.dev .gleanCfg [] 47 32 ≠ 0) :
    execGleanSector k flips late s =
      let p := gleanPlace (stackOf s.dev k).gleanAt
      let a := locAddr s.dev k p.1 p.2.1 p.2.2.1 + 128 * p.2.2.2
      let st := { stackOf s.dev k with gleanAt := (stackOf s.dev k).gleanAt + 1 }
      let d := { s.dev with stks := tput s.dev.stks k st }
      after s (endHbmPass (if backed d a 128 = true then gleanSectorAt (withHue (upsetHbm d a flips) (gleanHue d)) a else d) late) := by
  have hmem : nmem k (popStacks s.dev) = true := (nmem_iff ..).mpr hk
  have hgo : ((popStacks s.dev).all (fun j => (stackOf s.dev j).gleanAt == 0) &&
      decide (regField s.dev .gleanCfg [] 47 32 = 0)) = false := by
    rcases hon with ⟨j, hj, h0⟩ | h0
    · rw [List.all_eq_false.mpr ⟨j, hj, by simpa using h0⟩, Bool.false_and]
    · simp [h0]
  refine act_eq hr (if_neg ?_)
  simp only [hmem, hgo, hrest, Nat.not_le.mpr hat, decide_false, Bool.not_true, Bool.or_false, Bool.false_eq_true,
    not_false_eq_true]

/-- The slices' gleaner is at work while a pass or its period runs (R374, R375). -/
theorem krGlean_on {d : Dev} {k : Nat} (hk : k < 256)
    (hon : (∃ e ∈ d.slices, e.2.gleanAt ≠ 0) ∨ regField d .gleanCfg [] 15 0 ≠ 0) :
    ¬(decide (k ≥ 256) || (d.slices.all (fun e => e.2.gleanAt == 0) && decide (regField d .gleanCfg [] 15 0 = 0))) = true := by
  have hgo : (d.slices.all (fun e => e.2.gleanAt == 0) && decide (regField d .gleanCfg [] 15 0 = 0)) = false := by
    rcases hon with ⟨e, he, h0⟩ | h0
    · rw [List.all_eq_false.mpr ⟨e, he, by simpa using h0⟩, Bool.false_and]
    · simp [h0]
  rw [hgo]; simp [hk]

/-- Settles O42: each gleaner is at work, and reads the next sector that its unit holds, or ends its pass. -/
theorem gleaners : Obligations.Gleaners := by
  refine ⟨?hbm, ?slice⟩
  case hbm => exact fun s k flips late hr hk hat hrest hon => execGleanSector_reads hr hk hat hrest hon
  case slice =>
    intro s k flips late hr hk hon
    have hgo := krGlean_on hk hon
    refine ⟨fun hnone => ?_, fun i hi => ?_⟩
    · change execKretenGleanSector k flips late s = _
      exact act_eq hr ((if_neg hgo).trans (by rw [hnone]))
    · change execKretenGleanSector k flips late s = _
      exact act_eq hr ((if_neg hgo).trans (by rw [hi]))

end Sys2Proof.Proofs
end

section
/-! SUPPORT. Sweeps, smudge masks and hue windows (R381 to R385, R392, R393). -/
namespace Sys2Proof.Proofs
open Sys2Proof Sys2Proof.Machine Sys2Proof.Safety Sys2Proof.Laws

/-- A sweep that passes its checks takes the lowest free place (R381). -/
theorem handleSweep_takes {d : Dev} {r : CmdRec} {op : Option Nat}
    (hc : sweepCheck d (r.args.getD 0 0) (r.args.getD 1 0) (r.args.getD 2 0) (r.args.getD 3 0) = none) :
    handleSweep d r op =
      let n := ((List.range 4).find? fun k => (tfind d.sweeps k).isNone).getD 0
      let x : Sweep := { base := r.args.getD 0 0, size := r.args.getD 1 0, mode := bits (r.args.getD 3 0) 0 0,
                         summary := r.args.getD 2 0, hue := bits (r.args.getD 3 0) 15 8, started := d.tb.now, op := op,
                         held := blkState d blkSweep == .onPending }
      (some stOk, setOpHue { d with sweeps := tput d.sweeps n x } op x.hue) := by
  rw [handleSweep, hc]

/-- A sweep whose summary is written is done (R382, R383). -/
theorem execSweepDone_completes {s : State} {n : Nat} {x : Sweep} {d1 : Dev} (hr : runs s) (hx : tfind s.dev.sweeps n = some x)
    (hheld : x.held = false) (hb : blkServes s.dev blkSweep = true)
    (hwr : devWrite (sweepRange s.dev x).d (.core 0) x.summary (sweepSummary x (sweepRange s.dev x) s.dev.tb.now) = (d1, true)) :
    execSweepDone n s = after s (completeOpt { d1 with
      sweeps := tdel d1.sweeps n, lost := d1.lost.filter fun e => e.who != .sweep } x.op stOk) := by
  refine act_eq hr ?_
  rw [hx]
  dsimp only
  rw [hheld, hb, if_neg (by decide), hwr]

/-- With testing enabled a SMUDGE_CTL register takes what is written (R384, R385). -/
theorem armSmudge_arms {d : Dev} {off bytes : Nat} {v : DWord} {t : RegDef} {ix : List Nat} (hw : writable d off bytes v t ix)
    (ht : t.id = .smudgeCtlHbm ∨ t.id = .smudgeCtlKr) (htest : d.board.testEn = true) (r : Req) {b : Nat}
    (hb : bitAt (accessValue off bytes v) b = true) :
    armSmudge d r off bytes v b = plainWrite d t ix (accessMask off bytes) (accessValue off bytes v) := by
  have hreg : regAt (off / 8 * 8) = some (t, ix) := hw.2.1
  have hid : ((t.id == .smudgeCtlHbm || t.id == .smudgeCtlKr) && bitAt (accessValue off bytes v) b) = true := by
    rcases ht with h | h <;> simp [h, hb]
  unfold armSmudge
  rw [hreg]
  dsimp only
  rw [if_pos hid, withWrite_eq hw]
  unfold smudgeRule
  exact if_neg (by simp [htest])

/-- Settles O43: the sweep's handler, its end, and the rule of SMUDGE_CTL; a window's start is `rollWindow` itself. -/
theorem sweepsAndMasks : Obligations.SweepsAndMasks := by
  refine ⟨?sweep, ?done, ?mask, ?window⟩
  case sweep =>
    intro s w d1 op h hr ha hc n x
    change execSweep w s = _
    exact act_submitAs_long hr ha rfl (handleSweep_takes hc)
  case done => exact fun s n x d1 hr hx hheld hb hwr => execSweepDone_completes hr hx hheld hb hwr
  case mask =>
    intro s r off bytes v t ix hr hw ht htest d
    refine ⟨fun hb => ?_, fun hb => ?_⟩
    · change execSmudgeArmWord r off bytes v s = _
      exact act_eq hr (armSmudge_arms hw ht htest r hb)
    · change execSmudgeArmCrc r off bytes v s = _
      exact act_eq hr (armSmudge_arms hw ht htest r hb)
  case window =>
    intro s hr
    change execHueWindowStart s = _
    exact act_eq hr rfl

end Sys2Proof.Proofs
end

section
/-! SUPPORT. Xeost switches, XP_CTL, and the ways out of ACTIVE (R403, R405, R412, R423, R431). -/
namespace Sys2Proof.Proofs
open Sys2Proof Sys2Proof.Machine Sys2Proof.Safety Sys2Proof.Laws

/-! ### Switches and XP_CTL -/

/-- The switch of a pair whose wanted position differs follows it (R403). -/
theorem execBypassSwitchChange_moves {s : State} {pair : Nat} (hr : runs s) (hp : pair < 32) {want : Bool}
    (hwant : (portEnabled s.dev (2 * pair) || portEnabled s.dev (2 * pair + 1)) = want) (hne : want ≠ nmem pair s.dev.switches) :
    execBypassSwitchChange pair s = after s (
      if want = true then wakePort (wakePort { s.dev with switches := nadd pair s.dev.switches } (2 * pair)) (2 * pair + 1)
      else stopPort (stopPort { s.dev with switches := ndel pair s.dev.switches } (2 * pair) .bypassed) (2 * pair + 1)
        .bypassed) := by
  subst hwant
  exact act_eq hr ((if_neg (by omega)).trans (if_neg (by simpa using hne)))

section
variable {d : Dev} {p off bytes : Nat} {v : DWord} {t : RegDef} {ix : List Nat} (hw : writable d off bytes v t ix)
variable (hoff : off / 8 * 8 = regOff .xpCtl (portIx p)) {x : Nat} (hx : written d t ix off bytes v = x)
variable (h2 : bits x 10 8 ≤ 2) (hmax : d.limits.maxRate ≤ bits x 10 8) (r : Req)
include hw hoff hx h2 hmax

/-- A write of XP_CTL with a permitted rate enables or disables the port, and retrains a failed one (R431). -/
theorem writeXpCtl_takes : writeXpCtl d r p off bytes v =
    let d1 := regPut d .xpCtl ix (putBit x 2 false)
    let d2 := if bitAt x 0 = true then wakePort d1 p
      else if (portOf d1 p).st == .bypassed then d1 else stopPort d1 p .disabled
    if (bitAt (accessValue off bytes v) 2 && (portOf d2 p).st == .failed) = true then enterDetect d2 p else d2 := by
  subst hx
  unfold writeXpCtl
  rw [if_neg (not_not_intro hoff), withWrite_eq hw]
  refine if_neg ?_
  rw [written] at h2 hmax
  simp [h2, hmax]

theorem writeXpCtl_enables (hv2 : bitAt (accessValue off bytes v) 2 = false) (hx0 : bitAt x 0 = true) :
    writeXpCtl d r p off bytes v = wakePort (regPut d .xpCtl ix (putBit x 2 false)) p := by
  rw [writeXpCtl_takes hw hoff hx h2 hmax]
  simp [hv2, hx0]

theorem writeXpCtl_disables (hv2 : bitAt (accessValue off bytes v) 2 = false) (hx0 : bitAt x 0 = false) :
    writeXpCtl d r p off bytes v =
      let d1 := regPut d .xpCtl ix (putBit x 2 false)
      if (portOf d1 p).st = .bypassed then d1 else stopPort d1 p .disabled := by
  rw [writeXpCtl_takes hw hoff hx h2 hmax]
  simp [hv2, hx0]

theorem writeXpCtl_retrains (hv2 : bitAt (accessValue off bytes v) 2 = true) (hx0 : bitAt x 0 = true)
    (hst : (portOf (wakePort (regPut d .xpCtl ix (putBit x 2 false)) p) p).st = .failed) :
    writeXpCtl d r p off bytes v = enterDetect (wakePort (regPut d .xpCtl ix (putBit x 2 false)) p) p := by
  rw [writeXpCtl_takes hw hoff hx h2 hmax]
  simp [hv2, hx0, hst]

end

/-! ### Events that test the state of the port -/

/-- An event of a port that acts in one state. -/
theorem act_inState {s : State} {p : Nat} {st : PortSt} (hr : runs s) (h : (portOf s.dev p).st = st) (f : Dev → Dev) :
    act s (fun d => if (portOf d p).st == st then f d else d) = after s (f s.dev) :=
  act_eq hr (if_pos (by simp [h]))

/-- Settles O44: the switch by its wanted position, XP_CTL by `writeXpCtl_takes`, each event by the state it acts in. -/
theorem portStates : Obligations.PortStates := by
  refine ⟨⟨?switch, ?control, ?retry⟩, ?signal, ?timeout, ?resend, ?done⟩
  case switch =>
    intro s pair hr hp a want hne
    exact execBypassSwitchChange_moves hr hp rfl hne
  case control =>
    intro s r p off bytes v t ix hr hw hoff x d h2 hmax
    refine ⟨fun hv0 hv2 hx0 => ?_, fun hv0 hv2 hx0 => ?_, fun hv2 hx0 hst => ?_⟩
    · change execPortEnable r p off bytes v s = _
      exact act_eq hr ((if_pos (by simp [hv0, hv2])).trans (writeXpCtl_enables hw hoff rfl h2 hmax r hv2 hx0))
    · change execPortDisable r p off bytes v s = _
      exact act_eq hr ((if_pos (by simp [hv0, hv2])).trans (writeXpCtl_disables hw hoff rfl h2 hmax r hv2 hx0))
    · change execPortRetrainWrite r p off bytes v s = _
      exact act_eq hr ((if_pos hv2).trans (writeXpCtl_retrains hw hoff rfl h2 hmax r hv2 hx0 hst))
  case retry =>
    intro s p hr h
    change execFailedRetryTimer p s = _
    exact act_inState hr h fun d => enterDetect d p
  case signal =>
    intro s p hr h
    change execSignalLoss p s = _
    exact act_inState hr h fun d => downAndTrain d p
  case timeout =>
    intro s p hr h
    change execRetrainTimeout p s = _
    exact act_inState hr h fun d => downAndTrain d p
  case resend =>
    intro s p hr h
    change execResendTimeout p s = _
    exact act_inState hr h fun d => resendFrom d p (oldestSeq d p)
  case done =>
    intro s p hr h d
    change execRetrainDone p s = _
    exact act_eq hr (if_neg (not_not_intro h))

end Sys2Proof.Proofs
end

section
/-! SUPPORT. Training of a Xeost port (R405 to R408, R411, R432 to R434). -/
namespace Sys2Proof.Proofs
open Sys2Proof Sys2Proof.Machine Sys2Proof.Safety Sys2Proof.Laws

/-! ### TRAIN frames -/

/-- A TRAIN frame passes the decoder, its header and its slot CRCs; in DETECT the CRC of slot 0 is what counts (R411). -/
def trainSound (d : Dev) (p : Nat) (f : Frame) : Prop := frameOk f (headerOf f) = true ∧
  (if (portOf d p).st = .detect then slotOk f (headerOf f) 0 else slotsOk f (headerOf f)) = true

section
variable {s : State} {p : Nat} {f : Frame} (hr : runs s) (hp : p < 64) (hk : (headerOf f).kind = 3)
variable (hh : hears (portOf s.dev p).st = true)
include hr hp hk hh

/-- A TRAIN frame is counted, and is then a frame error or a training record (R406, R411, R434). -/
theorem execTrainFrame_eq : execTrainFrame p f s = after s (
    if (!frameOk f (headerOf f) || !(if (portOf s.dev p).st == .detect then slotOk f (headerOf f) 0 else slotsOk f (headerOf f)))
        = true
    then frameError (countCorrected s.dev p f) p else takeTraining (countCorrected s.dev p f) p f) := by
  refine act_eq hr (if_neg ?_)
  simp [Nat.not_le.mpr hp, hk, hh]

theorem execTrainFrame_error (hbad : ¬ trainSound s.dev p f) :
    execTrainFrame p f s = after s (frameError (countCorrected s.dev p f) p) := by
  rw [execTrainFrame_eq hr hp hk hh, if_pos]
  rw [trainSound, not_and_or, Bool.not_eq_true, Bool.not_eq_true] at hbad
  rcases hbad with h | h
  · simp [h]
  · simp [h]

theorem execTrainFrame_record (hgood : trainSound s.dev p f) :
    execTrainFrame p f s = after s (takeTraining (countCorrected s.dev p f) p f) := by
  obtain ⟨hframe, hslots⟩ := hgood
  rw [execTrainFrame_eq hr hp hk hh, if_neg]
  simp [hframe, hslots]

end

/-! ### Training records without reserved bits, by the state of the port (R405 to R408) -/

section
variable {d : Dev} {p : Nat} {f : Frame} (hrsv : (trainOf f).rsv = false)
include hrsv

/-- In DETECT the rate is the greater of the two proposals. -/
theorem takeTraining_detect (hst : (portOf d p).st = .detect) (hprop : (trainOf f).proposed ≤ 2) :
    takeTraining d p f =
      let x := trainOf f
      let e := noteRecord d p f x
      sendTrain (setRate (enterPort (notePartner e p x) p .equalize) p (max (ownProposal e p) x.proposed) (bandPreset e p)) p := by
  unfold takeTraining
  dsimp only
  rw [hrsv, hst]
  exact if_neg (Nat.not_lt.mpr hprop)

/-- MEASURE ends after 64 exchanges. -/
theorem takeTraining_measure (hst : (portOf d p).st = .measure) :
    takeTraining d p f =
      let e := noteExchange (noteRecord d p f (trainOf f)) p f (trainOf f)
      sendTrain (if 64 ≤ (portOf e p).exchanges.length then enterPort (recordMeasure e p) p .negotiate else e) p := by
  unfold takeTraining
  dsimp only
  rw [hrsv, hst]; rfl

theorem takeTraining_negotiate (hst : (portOf d p).st = .negotiate) :
    takeTraining d p f = negotiate (notePartner (noteRecord d p f (trainOf f)) p (trainOf f)) p (trainOf f) := by
  unfold takeTraining
  dsimp only
  rw [hrsv, hst]; rfl

theorem takeTraining_retrain (hst : (portOf d p).st = .retrain) :
    takeTraining d p f = sendTrain (noteExchange (noteRecord d p f (trainOf f)) p f (trainOf f)) p := by
  unfold takeTraining
  dsimp only
  rw [hrsv, hst]; rfl

/-- At an ACTIVE port a record takes the link down. -/
theorem takeTraining_active (hst : (portOf d p).st = .active) :
    takeTraining d p f = enterDetect (linkDown (noteRecord d p f (trainOf f)) p .disabled) p := by
  unfold takeTraining
  dsimp only
  rw [hrsv, hst]; rfl

end

/-! ### Equalization -/

/-- An equalization that times out tries the next slower rate, and fails after the slowest (R405). -/
theorem execEqualizeTimeout_slower {s : State} {p : Nat} (hr : runs s) (hst : (portOf s.dev p).st = .equalize) :
    execEqualizeTimeout p s =
      let r := (portOf s.dev p).rate
      after s (if r < 2 then sendTrain (setRate (modPort s.dev p fun x => { x with triedRate := x.rate + 1 }) p (r + 1)
          (bandPreset s.dev p)) p
        else enterPort (putXpStatus (logErr s.dev stLinkTrain ukXeost p 3) p 31 16 stLinkTrain.toNat) p .failed) :=
  act_eq hr (if_neg (not_not_intro hst))

/-- Settles O45: a TRAIN frame by its checks, a record by the state of the port, and the two ends of an equalization. -/
theorem training : Obligations.Training := by
  refine ⟨?frame, ?equalized, ?slower⟩
  case frame =>
    intro s p f hr hp hk hh x good d0 d
    refine ⟨fun hbad => ?error, fun hgood hrsv => ?record⟩
    case error =>
      change execTrainFrame p f s = _
      exact execTrainFrame_error hr hp hk hh hbad
    case record =>
      have h {e : Dev} (he : takeTraining (countCorrected s.dev p f) p f = e) : execTrainFrame p f s = after s e :=
        (execTrainFrame_record hr hp hk hh hgood).trans (congrArg (after s) he)
      exact ⟨fun hst hprop => h (takeTraining_detect hrsv hst hprop), fun hst => h (takeTraining_measure hrsv hst),
        fun hst => h (takeTraining_negotiate hrsv hst), fun hst => h (takeTraining_retrain hrsv hst),
        fun hst => h (takeTraining_active hrsv hst)⟩
  case equalized =>
    intro s p hr h
    change execEqualizeDone p s = _
    exact act_inState hr h fun d => sendTrain (enterPort (modPort d p fun x => { x with exchanges := [] }) p .measure) p
  case slower => exact fun s p hr h => execEqualizeTimeout_slower hr h

end Sys2Proof.Proofs
end

section
/-! SUPPORT. Xeost frames and time stamps (R410 to R415, R428, R429). -/
namespace Sys2Proof.Proofs
open Sys2Proof Sys2Proof.Machine Sys2Proof.Safety Sys2Proof.Laws

section
variable {s : State} {p : Nat} {f : Frame} (hr : runs s) (hp : p < 64) (hst : (portOf s.dev p).st = .active)
variable (hk : (headerOf f).kind ≠ 3)
include hr hp hst hk

/-- A frame at an ACTIVE port is counted and then meets the checks of R411 in order. -/
theorem execFrameReceived_eq : execFrameReceived p f s =
    let h := headerOf f
    let d := countCorrected s.dev p f
    after s (
      if (!frameOk f h) = true then frameError d p
      else if isIdle h = true then takeHeader d p f h
      else if h.seq ≠ (portOf s.dev p).expectSeq then d
      else if (!slotsOk f h || nmem 3 h.codes) = true then frameError d p
      else acceptFrame d p f h) := by
  refine act_eq hr ?_
  dsimp only
  rw [hst, if_neg (by simp [Nat.not_le.mpr hp, hk, hears])]
  refine if_congr Iff.rfl rfl ?_
  exact if_neg (not_not_intro rfl)

theorem execFrameReceived_corrupt (hf : frameOk f (headerOf f) = false) :
    execFrameReceived p f s = after s (frameError (countCorrected s.dev p f) p) := by
  rw [execFrameReceived_eq hr hp hst hk]
  simp [hf]

variable (hf : frameOk f (headerOf f) = true)
include hf

/-- An idle frame takes no place in sequence (R410). -/
theorem execFrameReceived_idle (hi : isIdle (headerOf f) = true) :
    execFrameReceived p f s = after s (takeHeader (countCorrected s.dev p f) p f (headerOf f)) := by
  rw [execFrameReceived_eq hr hp hst hk]
  simp [hf, hi]

theorem execFrameReceived_outOfSequence (hi : isIdle (headerOf f) = false)
    (hseq : (headerOf f).seq ≠ (portOf s.dev p).expectSeq) :
    execFrameReceived p f s = after s (countCorrected s.dev p f) := by
  rw [execFrameReceived_eq hr hp hst hk]
  simp [hf, hi, hseq]

/-- The next frame in sequence is accepted where its slots are sound, and is a frame error otherwise (R411, log 65). -/
theorem execFrameReceived_inSequence (hi : isIdle (headerOf f) = false) (hseq : (headerOf f).seq = (portOf s.dev p).expectSeq) :
    (¬(slotsOk f (headerOf f) = true ∧ 3 ∉ (headerOf f).codes) →
      execFrameReceived p f s = after s (frameError (countCorrected s.dev p f) p)) ∧
    (slotsOk f (headerOf f) = true ∧ 3 ∉ (headerOf f).codes →
      execFrameReceived p f s = after s (acceptFrame (countCorrected s.dev p f) p f (headerOf f))) := by
  have hbad : (!slotsOk f (headerOf f) || nmem 3 (headerOf f).codes) = true ↔
      ¬(slotsOk f (headerOf f) = true ∧ 3 ∉ (headerOf f).codes) := by
    rw [Bool.or_eq_true, Bool.not_eq_true', nmem_iff, not_and_or, Bool.not_eq_true, not_not]
  rw [execFrameReceived_eq hr hp hst hk]
  simp only [hf, hi, hseq, Bool.not_true, Bool.false_eq_true, if_false, ne_eq, not_true, hbad]
  exact ⟨fun h => by rw [if_pos h], fun h => by rw [if_neg (not_not_intro h)]⟩

end

/-- Settles O46: a received frame by the checks of R411 in order, the two events of stamps by their conditions. -/
theorem frames : Obligations.Frames := by
  refine ⟨?received, ?sent, ?timeout⟩
  case received =>
    intro s p f hr hp hst hk h d sound
    refine ⟨fun hf => execFrameReceived_corrupt hr hp hst hk hf, fun hf hi => execFrameReceived_idle hr hp hst hk hf hi,
      fun hf hi hseq => execFrameReceived_outOfSequence hr hp hst hk hf hi hseq, fun hf hi hseq hbad => ?_,
      fun hf hi hseq hgood => ?_⟩
    · exact (execFrameReceived_inSequence hr hp hst hk hf hi hseq).1 hbad
    · exact (execFrameReceived_inSequence hr hp hst hk hf hi hseq).2 hgood
  case sent =>
    intro s p frac hr hst hlock
    change execStampSend p frac s = _
    exact act_eq hr (if_pos (by simp [hst, hlock]))
  case timeout =>
    intro s hr hrole
    change execStampTimeout s = _
    exact act_eq hr (if_pos hrole)

end Sys2Proof.Proofs
end

section
/-! SUPPORT. Messages at a Xeost port (R417, R418, R420, R422, R430). -/
namespace Sys2Proof.Proofs
open Sys2Proof Sys2Proof.Machine Sys2Proof.Safety Sys2Proof.Laws

/-! ### Forwarding and requests -/

/-- A message for another device goes on by the route's port with one hop more (R418). -/
theorem execMessageForward_goesOn {s : State} {p n q : Nat} {m : XMsg} {v : Nat} {d1 : Dev} (hr : runs s)
    (hm : inboxAt s.dev p n = some m) (hdst : m.dst ≠ ownNo s.dev) (hop : m.op ≠ xoRelay) (hhops : m.hops < 31)
    (hcfg : regBit s.dev .xrCfg [] 16 = true) (hroute : routeEntry s.dev (p / 8) m.dst = (d1, some v))
    (hport : choosePort d1 v m.addr m.src = some q) :
    execMessageForward p n s = after s
      (queueMsg (eraseMsg d1 p n) q { m with hops := m.hops + 1, channel := dateline v m.channel }) := by
  have hmine : ¬(m.dst = ownNo s.dev ∨ m.op = xoRelay) := not_or.mpr ⟨hdst, hop⟩
  refine act_eq hr ?_
  simp [hm, hmine, hcfg, hroute, hport, Nat.not_le.mpr hhops]

section
variable {d : Dev} {p n : Nat} {m : XMsg} {mine : Nat → Bool} {write : Bool}
variable {f : Dev → XMsg → Option (Dev × Half × List Byte)}
variable (hm : inboxAt d p n = some m) (hdst : m.dst = ownNo d) (hmine : mine m.op = true)
include hm hdst hmine

/-- A request that fails a check is answered with its status (R420). -/
theorem serveRequest_rejects {st : Half} (hc : requestCheck d m = some st) :
    serveRequest d p n mine write f = answerTake d d p n m st [] := by
  unfold serveRequest
  rw [hm]
  dsimp only
  rw [if_neg (by simp [hdst, hmine]), hc]

/-- One that passes is performed under its hue and answered; a poisoned one is logged (R364, R420). -/
theorem serveRequest_serves {d1 : Dev} {bad : Bool} {data : List Byte} (hc : requestCheck d m = none)
    (hf : f (withHue d m.hue) m = some (d1, if bad then stPoison else stOk, data)) :
    serveRequest d p n mine write f = answerTake d (withHue (if bad then logPeerPoison d1 p m else d1) d.hue) p n m
      (if bad then stPoison else stOk) data := by
  have hbad : ((if bad then stPoison else stOk : Half) = stPoison) ↔ bad = true := by cases bad <;> decide
  unfold serveRequest
  rw [hm]
  dsimp only
  rw [if_neg (by simp [hdst, hmine]), hc]
  dsimp only
  rw [hf]
  simp only [hbad]

end

/-! ### Responses (R417, R422) -/

/-- Taking a message changes no register: what its slots free goes out in a frame. -/
theorem regs_takeMsg (d : Dev) (p n : Nat) : (takeMsg d p n).regs = d.regs := by
  have hidle (e : Dev) (q : Nat) : (sendIdle e q).regs = e.regs := by
    unfold sendIdle
    dsimp only
    split <;> rfl
  unfold takeMsg
  split
  · unfold freeHold
    split
    · exact hidle ..
    · rfl
  · rfl

section
variable {s : State} {p n : Nat} {m : XMsg} (hr : runs s) (hm : inboxAt s.dev p n = some m)
include hr hm

section
variable (hdst : m.dst = ownNo s.dev) (hop : m.op = xoWriteAck)
include hdst hop

theorem execWriteAck_ends {q : XReq} (hq : requestOf s.dev m.tag false = some q) :
    execWriteAck p n s = after s (pumpAll (if respStatus m = 0 then dropRequest (takeMsg s.dev p n) q
      else endRequest (takeMsg s.dev p n) q (BitVec.ofNat 16 (respStatus m)))) := by
  refine act_eq hr ?_
  rw [hm]
  exact (if_neg (by simp [hdst, hop])).trans (by rw [hq])

theorem execWriteAck_late (hq : requestOf s.dev m.tag false = none) :
    execWriteAck p n s = after s (lateResponse s.dev p n) := by
  refine act_eq hr ?_
  rw [hm]
  exact (if_neg (by simp [hdst, hop])).trans (by rw [hq])

end

section
variable (hdst : m.dst = ownNo s.dev) (hop : m.op = xoReadData) (hres : s.dev.creset.active = false)
include hdst hop hres

theorem execReadData_late (hq : requestOf s.dev m.tag true = none) :
    execReadData p n s = after s (lateResponse s.dev p n) := by
  refine act_eq hr ?_
  rw [hm]
  exact (if_neg (by simp [hdst, hop, hres])).trans (by rw [hq])

variable {q : XReq} (hq : requestOf s.dev m.tag true = some q)
include hq

theorem execReadData_fails (hst : respStatus m ≠ 0) :
    execReadData p n s = after s (pumpAll (endRequest (takeMsg s.dev p n) q (BitVec.ofNat 16 (respStatus m)))) := by
  refine act_eq hr ?_
  rw [hm]
  refine (if_neg (by simp [hdst, hop, hres])).trans ?_
  rw [hq]
  exact if_pos hst

/-- The data of a response lands at the transfer's destination. -/
theorem execReadData_lands {x : Transfer} {d1 : Dev} (hst : respStatus m = 0)
    (hx : s.dev.xfers.find? (fun x => x.id == q.xfer && x.st == .active) = some x)
    (hland : landRead s.dev x q (fun i => ((rangeBytes { m with addr := q.addr, len := q.len }).getD i 0).toNat)
      (fun i => wordPoison { m with addr := q.addr } i) = some d1) :
    execReadData p n s = after s (pumpAll (dropRequest (takeMsg d1 p n) q)) := by
  refine act_eq hr ?_
  rw [hm]
  refine (if_neg (by simp [hdst, hop, hres])).trans ?_
  rw [hq]
  refine (if_neg (not_not_intro hst)).trans ?_
  dsimp only
  rw [hx]
  dsimp only
  rw [hland]

end

/-- RELAY is handed to the stem die where the port takes it (R430, log 67). -/
theorem execRelay_handsOver (hop : m.op = xoRelay) : execRelay p n s = after s (
    if regBit s.dev .xpCtl (portIx p) 1 = true ∧ m.rsv = false
    then grapevineChunk (takeMsg s.dev p n) p m.tag m.addr (rangeBytes m) else undelivered (takeMsg s.dev p n)) := by
  have hbit : regBit (takeMsg s.dev p n) .xpCtl (portIx p) 1 = regBit s.dev .xpCtl (portIx p) 1 := by
    simp only [regBit, regField, regGet, regs_takeMsg]
  refine act_eq hr ?_
  rw [hm]
  refine (if_neg (not_not_intro hop)).trans ?_
  simp only [hbit, Bool.and_eq_true, Bool.not_eq_true']

end

/-- A request that gets no response in time ends its transfer (R422). -/
theorem execRequestTimeout_ends {s : State} {tag : Nat} {q : XReq} (hr : runs s)
    (hq : s.dev.requests.find? (fun q => q.tag == tag) = some q)
    (ht : q.sent + usTicks * regField s.dev .xrTimeout [] 19 0 ≤ s.dev.tb.now) :
    execRequestTimeout tag s = after s (pumpAll (endRequest s.dev q stLinkTimeout)) := by
  refine act_eq hr ?_
  rw [hq]
  exact if_neg (Nat.not_lt.mpr ht)

/-- Settles O47: a forwarded message, a request by its checks, a response by its request, a relay chunk, a request's timeout. -/
theorem messages : Obligations.Messages := by
  refine ⟨?forward, ?rejected, ?served, ?responses, ?relay, ?timeout⟩
  case forward =>
    exact fun s p n m q v d1 hr hm hdst hop hhops hcfg hroute hport =>
      execMessageForward_goesOn hr hm hdst hop hhops hcfg hroute hport
  case rejected =>
    intro s p n m st hr hm hdst hc
    refine ⟨fun hop => ?_, fun hop => ?_, fun hop => ?_⟩
    · change execWrite p n s = _
      exact act_eq hr (serveRequest_rejects hm hdst (by rw [hop]; rfl) hc)
    · change execCombine p n s = _
      exact act_eq hr (serveRequest_rejects hm hdst (by rw [hop]; rfl) hc)
    · change execRead p n s = _
      exact act_eq hr (serveRequest_rejects hm hdst (by rw [hop]; rfl) hc)
  case served =>
    intro s p n m d1 hr hm hdst hc d told
    refine ⟨fun d2 hop hw hcoll => ?write, fun bad d2 hop hw hcoll => ?combine, fun bs bad hop hread => ?read⟩
    case write =>
      change execWrite p n s = _
      refine act_eq hr (serveRequest_serves (bad := false) hm hdst (by rw [hop]; rfl) hc ?_)
      change (performWrite d m).bind _ = _
      rw [hw, Option.bind_some, hcoll]; rfl
    case combine =>
      change execCombine p n s = _
      refine act_eq hr (serveRequest_serves hm hdst (by rw [hop]; rfl) hc ?_)
      change (performCombine d m).bind _ = _
      rw [hw, Option.bind_some]
      exact congrArg (Option.map _) hcoll
    case read =>
      change execRead p n s = _
      refine act_eq hr (serveRequest_serves hm hdst (by rw [hop]; rfl) hc ?_)
      rw [hread]
  case responses =>
    intro s p n m hr hm hdst
    exact ⟨fun q hop hq => execWriteAck_ends hr hm hdst hop hq, fun hop hq => execWriteAck_late hr hm hdst hop hq,
      fun hop hres hq => execReadData_late hr hm hdst hop hres hq,
      fun q hop hres hq hst => execReadData_fails hr hm hdst hop hres hq hst,
      fun q x d1 hop hres hq hst hx hland => execReadData_lands hr hm hdst hop hres hq hst hx hland⟩
  case relay => exact fun s p n m hr hm hop => execRelay_handsOver hr hm hop
  case timeout => exact fun s tag q hr hq ht => execRequestTimeout_ends hr hq ht

end Sys2Proof.Proofs
end

section
/-! SUPPORT. Collective entries and cached routes (R425, R427, R435). -/
namespace Sys2Proof.Proofs
open Sys2Proof Sys2Proof.Machine Sys2Proof.Safety Sys2Proof.Laws

section
variable {d : Dev} {r : Req} {t : RegDef} {k n mask x : Nat} (hblk : blkAccepts d (blkColl k) = true)
include hblk

/-- ARM alone ends with the entry as the arming leaves it (R425). -/
theorem xcCtlRule_arms {d1 : Dev} (h0 : bitAt x 0 = true) (h1 : bitAt x 1 = false) (h2 : bitAt x 2 = false)
    (harm : armColl d k n = (d1, some none)) : xcCtlRule d r t [k, n] mask x = d1 := by
  simp [xcCtlRule, hblk, h0, h1, h2, harm]

/-- OPEN alone ends with the entry as the opening leaves it (R425). -/
theorem xcCtlRule_opens {d1 : Dev} (h0 : bitAt x 0 = false) (h1 : bitAt x 1 = true) (h2 : bitAt x 2 = false)
    (hopen : openColl d k n = (d1, true)) : xcCtlRule d r t [k, n] mask x = d1 := by
  simp [xcCtlRule, hblk, h0, h1, h2, hopen]

omit hblk in
/-- DISARM alone makes an armed or open entry idle, and takes back what waits for its unit (R425). -/
theorem xcCtlRule_disarms (h0 : bitAt x 0 = false) (h1 : bitAt x 1 = false) (h2 : bitAt x 2 = true) :
    xcCtlRule d r t [k, n] mask x =
      if (collOf d k n).st = .armed ∨ (collOf d k n).st = .openSt
      then putColl d k n { collOf d k n with st := .idle, next := none, held := none }
      else putColl d k n { collOf d k n with held := none } := by
  simp [xcCtlRule, h0, h1, h2]

end

/-- INVAL with a table in place stores the register and empties the routes that the rind dies hold (R435). -/
theorem writeXrRoute_invalidates {d : Dev} {off bytes : Nat} {v : DWord} {t : RegDef} {ix : List Nat} (r : Req)
    (hw : writable d off bytes v t ix) (hoff : off / 8 * 8 = regOff .xrRoute []) {x : Nat}
    (hx : written d t ix off bytes v = x) (h0 : bitAt (accessValue off bytes v) 0 = true)
    (hback : backed d (bits x 47 19 <<< 19) 0x80000 = true)
    (hover : overlapsRegions d (bits x 47 19 <<< 19) 0x80000 = false) :
    writeXrRoute d r off bytes v = { regPut d .xrRoute ix (putBit x 0 false) with routes := [] } := by
  subst hx
  rw [written] at hback hover ⊢
  unfold writeXrRoute
  rw [if_neg (not_not_intro hoff), withWrite_eq hw]
  exact (if_neg (by simp [hback, hover])).trans (if_pos h0)

/-- Settles O48: each bit of XC_CTL by its `xcCtlRule` lemma, INVAL by `writeXrRoute_invalidates`. -/
theorem collectiveEntries : Obligations.CollectiveEntries := by
  refine ⟨?control, ?inval⟩
  case control =>
    intro s r rind entry bytes v t hr k n hw x hblk
    have hrule : writeXcCtl s.dev r rind entry bytes v = xcCtlRule s.dev r t [k, n] (accessMask _ bytes) x :=
      withWrite_eq hw r _
    refine ⟨fun d1 hv0 h0 h1 h2 harm => ?_, fun d1 hv0 hv1 h0 h1 h2 hopen => ?_, fun hv0 hv1 h0 h1 h2 => ?_⟩
    · change execXcCtlArm r rind entry bytes v s = _
      exact act_eq hr ((if_pos hv0).trans (hrule.trans (xcCtlRule_arms hblk h0 h1 h2 harm)))
    · change execXcCtlOpen r rind entry bytes v s = _
      exact act_eq hr ((if_pos (by simp [hv0, hv1])).trans (hrule.trans (xcCtlRule_opens hblk h0 h1 h2 hopen)))
    · change execXcCtlDisarm r rind entry bytes v s = _
      exact act_eq hr ((if_pos (by simp [hv0, hv1])).trans (hrule.trans (xcCtlRule_disarms h0 h1 h2)))
  case inval =>
    intro s r off bytes v t ix hr hw hoff h0 x base hback hover
    change execRouteInval r off bytes v s = _
    exact act_eq hr ((if_pos h0).trans (writeXrRoute_invalidates r hw hoff rfl h0 hback hover))

end Sys2Proof.Proofs
end

section
/-! SUPPORT. The host link, its decoder, the completion logs and the management port (R437, R440, R457, R459, R462, R537). -/
namespace Sys2Proof.Proofs
open Sys2Proof Sys2Proof.Machine Sys2Proof.Safety Sys2Proof.Laws

/-- The link comes up, or the host configures the function of a link that is up anew (R437, R439, R462). -/
theorem execHostLinkUp_configures {s : State} (hr : runs s) (hp : s.dev.phase = .running) (rate width : Nat)
    (en : LinkEnables) (b0 b2 : DWord) :
    let r := if s.dev.link.up = true then s.dev.link.rate else min rate 3
    let w := if s.dev.link.up = true then s.dev.link.width else min width 3
    execHostLinkUp rate width en b0 b2 s = after s { leaveDeep s.dev with link := { s.dev.link with
      up := true, rate := r, width := w, bar0 := b0, bar2 := b2, memEn := decide (r < 3) && en.mem,
      cacheEn := decide (r < 3) && en.cache, biEn := decide (r < 3) && en.bi } } := by
  refine act_eq hr ((if_neg (by simp [hp])).trans ?_)
  simp only [leaveDeep_link]

/-- The decoder commits with back-invalidation, where bring-up allows it (R440). -/
theorem execHdmCommit_answers {s : State} (hr : runs s) (hup : s.dev.link.up = true) (base : DWord) :
    execHdmCommit base s = after s (
      if s.dev.link.biEn = true ∧ s.dev.noHdm = false
      then { s.dev with link := { s.dev.link with committed := true, hdmBase := base, notCommitted := false } }
      else { s.dev with link := { s.dev.link with committed := false, notCommitted := true } }) := by
  refine act_eq hr ((if_neg (by simp [hup])).trans ?_)
  by_cases h : s.dev.link.biEn = true ∧ s.dev.noHdm = false
  · exact (if_pos (by simp [h])).trans (if_pos h).symm
  · exact (if_neg (by simpa using h)).trans (if_neg h).symm

/-- A write that enables a log sets PROD to 0, and the head of the log reads TAKEN afresh (R459, R484). -/
theorem writeLogCtl_enables {d : Dev} {off bytes : Nat} {v : DWord} {t : RegDef} {ix : List Nat} (r : Req)
    (hw : writable d off bytes v t ix) {x n : Nat} (hx : written d t ix off bytes v = x)
    (hn : (if t.id = .complogCtl then ix.headD 0 else 8 + ix.headD 0) = n)
    (h15 : bitAt x 15 = true) (hsize : bits x 3 0 ≤ 10) (hoff : bitAt (regGet d t.id ix) 15 = false)
    (hbase : enableBad d (if n < 8 then regGet d .complogBase ix else regGet d .cwLogBase ix) x = false) :
    writeLogCtl d r off bytes v = regPut { d with
      held := lmod (fun h => logOf d h.op.win == n) (fun h => { h with waited := false }) d.held } t.id ix
      (putBits x 63 32 0) := by
  subst hx
  rw [written] at h15 hsize hbase ⊢
  unfold writeLogCtl
  rw [withWrite_eq hw]
  simp only [beq_iff_eq, hn, hoff, h15, hbase, Nat.not_lt.mpr hsize, decide_false, Bool.false_and, Bool.or_false,
    Bool.not_false, Bool.and_self, Bool.false_eq_true, if_true, if_false]

/-- The head of a log that found its entry filled reads TAKEN again (R457). -/
theorem execComplogRetry_reads {s : State} {log : Nat} {h : Held} (hr : runs s) (hh : headOf s.dev log = some h)
    (hon : logEnabled s.dev log = true) (hwait : h.waited = true) (taken : Bool) :
    execComplogRetry log taken s = after s (tryHead s.dev log h (some taken)).1 := by
  refine act_eq hr ?_
  rw [hh]
  exact if_pos (by simp [hon, hwait])

/-- Settles O50: one lemma for the link, the decoder, the log's control register and its retry; the management port
answers each protocol by its `match`. -/
theorem hostPortEvents : Obligations.HostPortEvents := by
  refine ⟨?up, ?commit, ?enable, ?retry, ?management⟩
  case up => exact fun s rate width en b0 b2 hr hp => execHostLinkUp_configures hr hp rate width en b0 b2
  case commit => exact fun s base hr hup => execHdmCommit_answers hr hup base
  case enable =>
    intro s r log off bytes v t ix hr hlog hoff hv hw x n h15 hsize hold hbase
    change execComplogEnable r log off bytes v s = _
    exact act_eq hr ((if_pos (by simp [hlog, ← hoff, hv])).trans (writeLogCtl_enables r hw rfl rfl h15 hsize hold hbase))
  case retry => exact fun s log taken h hr hh hon hwait => execComplogRetry_reads hr hh hon hwait taken
  case management =>
    refine fun s payload hr => ⟨?_, fun hp => ?_⟩
    · change execManagementRequest .mctpControl payload s = _
      exact act_eq hr rfl
    · change execManagementRequest .pldm payload s = _
      exact act_eq hr (if_pos (by simp [hp]))

end Sys2Proof.Proofs
end

section
/-! SUPPORT. RESET by its kind, the steps of the compute reset, and the host's resets (R463, R553 to R557). -/
namespace Sys2Proof.Proofs
open Sys2Proof Sys2Proof.Machine Sys2Proof.Safety Sys2Proof.Laws

/-! ### RESET -/

/-- Acceptance of a command leaves the registers, and takes the next number. -/
theorem acceptOp_facts {d d1 : Dev} {w : Win} {o op h : Nat} {user : DWord} {quiet : Bool}
    (ha : acceptOp d w o user quiet = (d1, op, h)) : d1.regs = d.regs ∧ op = d.nextOp ∧ d1.nextOp = d.nextOp + 1 := by
  cases w <;> cases ha <;> exact ⟨rfl, rfl, rfl⟩

theorem receipted_nextOp (d : Dev) (w : Win) (o h : Nat) : (receipted d w o h).nextOp = d.nextOp := by
  cases w <;> rfl

section
variable {d d1 : Dev} {w : Win} {op h : Nat} (ha : accepted d w 0x30 d1 op h)
include ha

/-- The compute kind begins its reset at acceptance, once bring-up has ended (R537, R555). -/
theorem submitReset_compute (hk : bits (argOf d w 0) 7 0 = 1) (hboot : regBit d .bootStatus [] 4 = true) :
    submitReset d w = receipted (startReset d1 (bitAt (argOf d w 0) 8) (some op) false) w 0x30 h := by
  rw [argOf, ← List.headD_eq_getD] at hk ⊢
  have hboot1 : regBit d1 .bootStatus [] 4 = true := by
    rw [← hboot]; simp only [regBit, regField, regGet, (acceptOp_facts ha.2.2).1]
  have hsub := submitAs_long ha (f := handleReset) (by decide) (by unfold handleReset; rw [if_pos hk, if_pos hboot1])
  unfold submitReset
  rw [hsub]
  exact if_pos (by rw [Bool.or_eq_true]; exact Or.inr (decide_eq_true hk))

/-- The other kinds act once their receipt is returned, and their handle never completes (R463, R554). -/
theorem submitReset_afterReceipt (hk : bits (argOf d w 0) 7 0 ≠ 1) :
    submitReset d w = afterReceipt (bits (argOf d w 0) 7 0) op (receipted d1 w 0x30 h) := by
  rw [argOf, ← List.headD_eq_getD] at hk ⊢
  obtain ⟨-, hop, hnext⟩ := acceptOp_facts ha.2.2
  have hsub := submitAs_long ha (f := handleReset) (by decide) (by unfold handleReset; rw [if_neg hk])
  have hpass : ¬((receipted d1 w 0x30 h).nextOp = d.nextOp ∨ bits ((windowRecord d w).args.headD 0) 7 0 = 1) := by
    rw [receipted_nextOp, hnext]; omega
  unfold submitReset
  rw [hsub, ← hop]
  rw [← hop] at hpass
  exact if_neg (by rw [Bool.or_eq_true, decide_eq_true_eq, decide_eq_true_eq]; exact hpass)

theorem submitReset_hostPort (hk : bits (argOf d w 0) 7 0 = 0) :
    submitReset d w = hostPortReset { receipted d1 w 0x30 h with
      ops := (receipted d1 w 0x30 h).ops.filter fun o => o.id != op } false := by
  rw [submitReset_afterReceipt ha (by omega), hk, afterReceipt, if_pos rfl]

theorem submitReset_cold (hk : bits (argOf d w 0) 7 0 = 2) :
    submitReset d w = coldReset (receipted d1 w 0x30 h) := by
  rw [submitReset_afterReceipt ha (by omega), hk, afterReceipt, if_neg (by decide)]
  simp only [coldReset]

end

/-! ### Compute reset -/

/-- Steps 3 to 5 in one go, where the host's answers let them (R555). -/
theorem execComputeReset_steps {s : State} {d4 d5 : Dev} (hr : runs s) (hact : s.dev.creset.active = true)
    (hph : s.dev.creset.phase ≤ 3) (hw : tileAccessWaits s.dev = false)
    (h4 : resetStep4 (setPhase (abortXfers (s.dev.canvases.foldl (fun d e => eachTile d e.1 haltEasel) s.dev)) 4) = (d4, true))
    (h5 : resetStep5 (setPhase d4 5) = (d5, true)) : execComputeReset s = after s (setPhase d5 6) := by
  refine act_eq hr ((if_neg (by simp [hact]; omega)).trans ((if_neg (by simp [hw])).trans ?_))
  simp only [hph, if_true]
  rw [show ∀ d, (setPhase d 4).creset.phase = 4 from fun _ => rfl]
  simp only [h4, h5, if_true, Bool.not_true, Bool.false_eq_true, if_false]

/-- Settles O51: RESET by its two lemmas, the steps of the compute reset by theirs; the host's resets test one condition
each. -/
theorem resets : Obligations.Resets := by
  refine ⟨?command, ?waits, ?steps, ?complete, ?perst, ?function⟩
  case command =>
    intro s w d1 op h hr ha a
    refine ⟨fun hk hboot => ?_, fun hk => ?_, fun hk => ?_⟩ <;> change execReset w s = _ <;> refine act_eq hr ?_
    · exact submitReset_compute ha hk hboot
    · exact submitReset_hostPort ha hk
    · exact submitReset_cold ha hk
  case waits =>
    intro s hr hact hph hw
    change execComputeReset s = _
    exact act_eq hr ((if_neg (by simp [hact]; omega)).trans (if_pos (by simp [hph, hw])))
  case steps => exact fun s d4 d5 hr hact hph hw h4 h5 => execComputeReset_steps hr hact hph hw h4 h5
  case complete =>
    intro s f hr hact hph hseed d1 d2 d3 d4 d5
    change execComputeResetComplete f s = _
    exact act_eq hr (if_neg (by simp [hact, hph, hseed]))
  case perst =>
    intro s hr
    change execPerst s = _
    exact act_runs hr _
  case function =>
    refine fun s hr hup => ⟨?_, ?_⟩
    · change execFunctionLevelReset s = _
      exact act_eq hr (if_pos hup)
    · change execCxlReset s = _
      exact act_eq hr (if_pos hup)

end Sys2Proof.Proofs
end

section
/-! SUPPORT. The power and reset signals, and the end of bring-up (R536 to R538, R594). -/
namespace Sys2Proof.Proofs
open Sys2Proof Sys2Proof.Machine Sys2Proof.Safety Sys2Proof.Laws

/-- What a power or reset signal does, in any state. -/
theorem actAlways_eq {s : State} {f : Dev → Dev} {d : Dev} (h : f s.dev = d) : actAlways s f = after s d := by
  subst h; rfl

/-- Settles O52: each signal by the condition that it tests. -/
theorem bringUp : Obligations.BringUp := by
  refine ⟨?reset, ?loss, ?release, ?rise, ?xeost⟩
  case reset =>
    intro s
    change ∃ d, _ ∧ execColdReset s = _
    by_cases ht : s.dev.thermTrip = true
    · exact ⟨_, Or.inr rfl, actAlways_eq (by rw [if_pos ht])⟩
    · exact ⟨_, Or.inl rfl, actAlways_eq (by rw [if_neg ht])⟩
  case loss =>
    intro s rail
    change execPowerGoodLoss rail s = _
    exact actAlways_eq rfl
  case release =>
    intro s env hp hl
    change execColdResetRelease env s = _
    exact actAlways_eq (if_pos (by simp [hp, hl]))
  case rise =>
    intro s env hp hl
    change execPowerGoodRise env s = _
    exact actAlways_eq (if_neg (by simp [hp, hl]))
  case xeost =>
    intro s e hr hp d
    change execXeostStepEnd e s = _
    exact act_eq hr (if_neg (by simp [hp]))

end Sys2Proof.Proofs
end

section
/-! SUPPORT. Staging, activation and FW_CTL (R570 to R574, R582 to R584, R587). -/
namespace Sys2Proof.Proofs
open Sys2Proof Sys2Proof.Machine Sys2Proof.Safety Sys2Proof.Laws

/-! ### Commands and registers -/

section
variable {d : Dev} {t : Nat} (hst : (fwSlot d (inactiveSlot d)).st = .staged)
include hst

/-- A staged image becomes pending for the next cold reset (R574). -/
theorem activate_atColdReset (ht : t = 0) (op : Option Nat) :
    activate d t op = (stOk, completeOpt (changeSlot (modFw d fun f => { f with actT := t }) (inactiveSlot d)
      fun x => { x with st := .pendingSt }) op stOk) := by
  simp [activate, hst, ht]

/-- A staged image becomes pending for a time that is far enough ahead (R574). -/
theorem activate_atTime (ht : d.tb.now + msTicks ≤ t) (op : Option Nat) :
    activate d t op = (stOk, modFw (changeSlot (modFw d fun f => { f with actT := t }) (inactiveSlot d)
      fun x => { x with st := .pendingSt }) fun f => { f with actOp := op }) := by
  have h0 : t ≠ 0 := by rintro rfl; simp [msTicks] at ht
  simp [activate, hst, h0, Nat.not_lt.mpr ht]

end

/-- FW_ACTIVATE answers what `activate` answers. -/
theorem handleFwActivate_eq {d d1 : Dev} {c : CmdRec} {op : Option Nat} {st : Half}
    (h : activate d (c.args.getD 0 0) op = (st, d1)) : handleFwActivate d c op = (some st, d1) := by
  unfold handleFwActivate
  rw [h]

/-- A staging whose bytes are all at hand ends (R577). -/
theorem execStagingComplete_finishes {s : State} {x : Staging} (hr : runs s) (hx : s.dev.fw.staging = some x)
    (hsrc : x.src = none) (hn : x.size ≤ x.image.length) :
    execStagingComplete s = after s (finishStaging s.dev x (x.image.take x.size)) := by
  refine act_eq hr ?_
  simp only [hx, hsrc, hn, if_true]

/-- A staging from device memory ends with what a read of the whole image gives (R570). -/
theorem execStagingComplete_reads {s : State} {x : Staging} {a : Nat} {d1 : Dev} {l : List Byte} {bad : Bool} (hr : runs s)
    (hx : s.dev.fw.staging = some x) (hsrc : x.src = some a)
    (hl : readWhole (withHue s.dev (coreHue s.dev)) (.core 0) a x.size = (d1, some (l, bad))) :
    execStagingComplete s = after s (finishStaging d1 x l) := by
  refine act_eq hr ?_
  simp only [hx, hsrc, hl]

/-! ### FW_CTL -/

section
variable {s : State} {off bytes : Nat} {v : DWord} {t : RegDef} {ix : List Nat}
variable (hw : writable s.dev off bytes v t ix)
include hw

/-- Any requester but core 0 is refused (R582). -/
theorem writeFwCtl_refuses {r : Req} (hcore : r ≠ .core 0) :
    writeFwCtl s.dev r off bytes v = emit (logAccess s.dev r stFwAccess off false true bytes) (.regError r off) :=
  (withWrite_eq hw r _).trans (if_pos hcore)

section
variable {x : Nat} (hx : accessValue off bytes v = x)
include hx

theorem writeFwCtl_confirms (h0 : bitAt x 0 = true) (h1 : bitAt x 1 = false) (h2 : bitAt x 2 = false)
    (ht : inTrial s.dev = true) : writeFwCtl s.dev (.core 0) off bytes v = confirm s.dev := by
  subst hx
  refine (withWrite_eq hw _ _).trans ?_
  simp [h0, h1, h2, ht]

theorem writeFwCtl_cancels (h0 : bitAt x 0 = false) (h1 : bitAt x 1 = true) (h2 : bitAt x 2 = false)
    (hst : (fwSlot s.dev (inactiveSlot s.dev)).st = .pendingSt) :
    writeFwCtl s.dev (.core 0) off bytes v = cancelActivation s.dev := by
  subst hx
  refine (withWrite_eq hw _ _).trans ?_
  simp [h0, h1, h2, hst]

theorem writeFwCtl_unwraps (h0 : bitAt x 0 = false) (h1 : bitAt x 1 = false) (h2 : bitAt x 2 = true) :
    writeFwCtl s.dev (.core 0) off bytes v = unwrapKeys s.dev := by
  subst hx
  refine (withWrite_eq hw _ _).trans ?_
  simp [h0, h1, h2]

end
end

/-- A write of FW_CTL acts where the bit of its command is set. -/
theorem fwCtlBit_eq {off bytes : Nat} {v : DWord} (hoff : off / 8 * 8 = regOff .fwCtl []) (b : Nat) :
    fwCtlBit off bytes v b = bitAt (accessValue off bytes v) b := by
  simp [fwCtlBit, hoff]

/-- Settles O53: the commands by `stageFrom` and the `activate` lemmas, a whole body by its source, FW_CTL bit by bit. -/
theorem firmwareCommands : Obligations.FirmwareCommands := by
  refine ⟨?stage, ?activate, ?stageAddr, ?act, ?complete, ?ctl⟩
  case stage =>
    intro s w d1 op h d2 hr ha hstage
    change execFwStage w s = _
    exact act_submitAs_long hr ha rfl hstage
  case activate =>
    intro s w d1 op h hr ha hst t d
    refine ⟨fun ht => ?_, fun ht => ?_⟩ <;> change execFwActivate w s = _
    · exact act_submitAs_long hr ha rfl (handleFwActivate_eq (activate_atColdReset hst ht (some op)))
    · exact act_submitAs_long hr ha rfl (handleFwActivate_eq (activate_atTime hst ht (some op)))
  case stageAddr =>
    intro s r bytes v t ix hr hw x st d1 hstage
    change execFwStageAddrWrite r bytes v s = _
    refine act_eq hr ((withWrite_eq hw r _).trans ?_)
    unfold writeFwStageAddr
    rw [hstage]
  case act =>
    intro s r bytes v t ix st d1 hr hw hact
    change execFwActWrite r bytes v s = _
    refine act_eq hr ((withWrite_eq hw r _).trans ?_)
    unfold writeFwAct
    rw [hact]
  case complete =>
    exact fun s x hr hx => ⟨fun hsrc hn => execStagingComplete_finishes hr hx hsrc hn,
      fun a d1 l bad hsrc hl => execStagingComplete_reads hr hx hsrc hl⟩
  case ctl =>
    intro s off bytes v t ix hr hw hoff x
    refine ⟨fun h0 h1 h2 ht => ?_, fun h0 h1 h2 hst => ?_, fun h0 h1 h2 => ?_, fun r h0 hcore => ?_⟩
    · change execFwConfirm (.core 0) off bytes v s = _
      exact act_eq hr ((if_pos ((fwCtlBit_eq hoff 0).trans h0)).trans (writeFwCtl_confirms hw rfl h0 h1 h2 ht))
    · change execFwCancel (.core 0) off bytes v s = _
      exact act_eq hr ((if_pos ((fwCtlBit_eq hoff 1).trans h1)).trans (writeFwCtl_cancels hw rfl h0 h1 h2 hst))
    · change execKeyReload (.core 0) off bytes v s = _
      exact act_eq hr ((if_pos ((fwCtlBit_eq hoff 2).trans h2)).trans (writeFwCtl_unwraps hw rfl h0 h1 h2))
    · change execFwConfirm r off bytes v s = _
      exact act_eq hr ((if_pos ((fwCtlBit_eq hoff 0).trans h0)).trans (writeFwCtl_refuses hw hcore))

end Sys2Proof.Proofs
end

section
/-! SUPPORT. Image starts, trials, offers and abandoned receptions (R576 to R579). -/
namespace Sys2Proof.Proofs
open Sys2Proof Sys2Proof.Machine Sys2Proof.Safety Sys2Proof.Laws

/-- At its time the pending image starts on trial; where it does not start, the other one does (R576, R577). -/
theorem execCoreRestart_starts {s : State} (hr : runs s) (hst : (fwSlot s.dev (inactiveSlot s.dev)).st = .pendingSt)
    (h0 : s.dev.fw.actT ≠ 0) (hnow : s.dev.fw.actT ≤ s.dev.tb.now) :
    let n := inactiveSlot s.dev
    let r := startImage (beginTrial (stopCores s.dev) n) n
    let fell := completeOpt (endTrial (modFw r.1 fun f => { f with actOp := none }) n) r.1.fw.actOp stFwFallback
    execCoreRestart s = after s (
      if r.2 = true then moveSvcs r.1
      else if (startImage fell (1 - n)).2 = true then moveSvcs (startImage fell (1 - n)).1
      else fwFail (startImage fell (1 - n)).1 stFwNone) := by
  intro n r fell
  refine act_eq hr ((if_neg (by simp [hst, h0, Nat.not_lt.mpr hnow])).trans ?_)
  rcases hstart : startImage (beginTrial (stopCores s.dev) n) n with ⟨d, _ | _⟩
  · have hr1 : r = (d, false) := hstart
    simp only [fell, hr1, Bool.false_eq_true, if_false]
    rcases startImage (completeOpt (endTrial (modFw d fun f => { f with actOp := none }) n) d.fw.actOp stFwFallback) (1 - n)
      with ⟨e, _ | _⟩ <;> rfl
  · have hr1 : r = (d, true) := hstart
    simp only [hr1, if_true]

section
variable {s : State} (hr : runs s) (hleft : s.dev.fw.offersLeft ≠ 0) (hnow : s.dev.fw.offerAt ≤ s.dev.tb.now)
include hr hleft hnow

/-- A slot that holds no staged image any more is offered no longer (R578). -/
theorem execGrapevineOffer_ends (h1 : (fwSlot s.dev (inactiveSlot s.dev)).st ≠ .staged)
    (h2 : (fwSlot s.dev (inactiveSlot s.dev)).st ≠ .pendingSt) :
    execGrapevineOffer s = after s (modFw s.dev fun f => { f with offersLeft := 0 }) :=
  act_eq hr ((if_neg (by simp [hleft, Nat.not_lt.mpr hnow])).trans (if_pos (by simp [h1, h2])))

/-- A staged image is offered in its transit form through every active Grapevine port but the one it came by (R578). -/
theorem execGrapevineOffer_sends (hst : (fwSlot s.dev (inactiveSlot s.dev)).st = .staged ∨
    (fwSlot s.dev (inactiveSlot s.dev)).st = .pendingSt) :
    let n := inactiveSlot s.dev
    let d := modFw s.dev fun f => { f with offersLeft := f.offersLeft - 1, offerAt := f.offerAt + 60000 * msTicks }
    execGrapevineOffer s = after s ((transitForm d n).elim d fun l =>
      (d.ports.filter fun e => e.2.st == .active && e.2.grapevine && d.fw.fromPort != some e.1).foldl
        (fun d e => (relayMsgs d e.1 l).foldl (fun d m => queueMsg d e.1 m) d) d) := by
  intro n d
  have hd : d = modFw s.dev fun f => { f with offersLeft := f.offersLeft - 1, offerAt := f.offerAt + 60 * 1000 * msTicks } :=
    rfl
  have hgo : ¬(!((fwSlot s.dev n).st == .staged || (fwSlot s.dev n).st == .pendingSt)) = true := by
    rcases hst with h | h <;> simp [n, h]
  refine act_eq hr ((if_neg (by simp [hleft, Nat.not_lt.mpr hnow])).trans ((if_neg hgo).trans ?_))
  rw [← hd]
  clear_value d
  dsimp only [n]
  cases transitForm d (inactiveSlot s.dev) <;> rfl

end

/-- A reception of which no chunk came for 10 s is abandoned (R579). -/
theorem execReceptionTimeout_abandons {s : State} {x : Staging} {p : Nat} (hr : runs s) (hx : s.dev.fw.staging = some x)
    (hp : x.port = some p) (hn : x.image.length < x.size) (ht : x.heard + 10000 * msTicks ≤ s.dev.tb.now) :
    execReceptionTimeout s = after s (abandon s.dev) := by
  refine act_eq hr ?_
  rw [hx]
  exact if_pos (by simp [hp, hn, ht])

/-- Settles O54: one lemma per event; the end of a trial tests one condition. -/
theorem firmwareLife : Obligations.FirmwareLife := by
  refine ⟨?restart, ?health, ?offer, ?reception⟩
  case restart => exact fun s hr hst h0 hnow => execCoreRestart_starts hr hst h0 hnow
  case health =>
    intro s hr hst ht
    change execHealthTimeout s = _
    exact act_eq hr (if_pos (by simp [hst, ht]))
  case offer =>
    exact fun s hr hleft hnow => ⟨fun h1 h2 => execGrapevineOffer_ends hr hleft hnow h1 h2,
      fun hst => execGrapevineOffer_sends hr hleft hnow hst⟩
  case reception => exact fun s x p hr hx hp hn ht => execReceptionTimeout_abandons hr hx hp hn ht

end Sys2Proof.Proofs
end

section
/-! SUPPORT. Attestation requests (R563 to R565). -/
namespace Sys2Proof.Proofs
open Sys2Proof Sys2Proof.Machine Sys2Proof.Safety Sys2Proof.Laws

/-- A request of an attestation that the device is ready for joins the transcript and has its answer (R537, R565). -/
theorem act_spdm {s : State} (hr : runs s) (h : spdmReady s.dev = true) (code : Nat) (payload : List Byte) (f : Dev → Dev) :
    act s (fun d => spdm d code payload f) = after s (f (spdmHear s.dev code payload)) :=
  act_eq hr (if_pos h)

/-- Settles O55: each request by `act_spdm`; hearing it changes neither the chain nor the measurements. -/
theorem attestation : Obligations.Attestation := by
  intro s hr h
  exact ⟨⟨act_spdm hr h 0x84 [] _, rfl⟩, act_spdm hr h 0xE1 [] _, act_spdm hr h 0xE3 [] _, act_spdm hr h 0x81 [] _,
    fun off len => act_spdm hr h 0x82 _ _, fun nonce => act_spdm hr h 0x83 nonce _,
    fun index nonce signed => act_spdm hr h 0xE0 _ _, fun code => act_spdm hr h code [] _⟩

end Sys2Proof.Proofs
end

section
/-! SUPPORT. Service loads, START and STOP, and faulted service canvases (R477, R478, R485). -/
namespace Sys2Proof.Proofs
open Sys2Proof Sys2Proof.Machine Sys2Proof.Safety Sys2Proof.Laws

@[simp] theorem canvasOf_modSvc (d : Dev) (n : Nat) (f : Svc → Svc) (k : Nat) : canvasOf (modSvc d n f) k = canvasOf d k := by
  unfold modSvc
  cases svcOf d n <;> rfl

/-! ### Loads -/

section
variable {s : State} {n : Nat} {v : Svc} {e : LoadEnt} (hr : runs s) (hv : svcOf s.dev n = some v) (hl : loading v = some e)
include hr hv hl

/-- The copy from the flash lands in device memory (R477). -/
theorem execServiceLoadDone_lands (hsrc : e.src = 0) (hf : s.dev.flashOk = true) (hb : backed s.dev e.dstAddr e.size = true)
    {r : Dev × Bool}
    (hw : devWrite (withHue s.dev (coreHue s.dev)) (.core v.core) e.dstAddr (nvmBytes s.dev e.srcAddr e.size) = r)
    (hok : r.2 = true) : execServiceLoadDone n true s = after s (loadDone r.1 n) := by
  obtain ⟨d, _⟩ := r
  obtain rfl : _ = true := hok
  refine act_eq hr ?_
  simp only [hv, hl, hsrc, hf, hb, hw, Bool.not_true, Bool.or_self, Bool.false_eq_true, if_true, if_false]

theorem execServiceLoadDone_noFlash (hsrc : e.src = 0) :
    execServiceLoadDone n false s = after s (loadFailed s.dev n stNvm) := by
  refine act_eq hr ?_
  simp only [hv, hl, hsrc, Bool.not_false, Bool.true_or, if_true]

/-- A load from a peer ends as its transfer did (R477). -/
theorem execServiceLoadDone_peer (ok : Bool) {st : Half} (hsrc : e.src = 1) (hend : v.xferEnd = some (v.xfer, st)) :
    execServiceLoadDone n ok s = after s (if st = stOk then loadDone s.dev n else loadFailed s.dev n st) := by
  refine act_eq hr ?_
  simp only [hv, hl, hsrc, hend, one_ne_zero, ne_eq, not_true_eq_false, if_true, if_false]

/-- A WAIT load ends when the word holds its value (R477). -/
theorem execWaitPoll_reads {d1 : Dev} {l : List Byte} (hsrc : e.src = 2) (hread : svcRead s.dev v e.srcAddr 8 = (d1, some l)) :
    execWaitPoll n s = after s (if leNat l = e.size then loadDone d1 n else d1) := by
  refine act_eq hr ?_
  simp only [hv, hl, hsrc, hread, ne_eq, not_true_eq_false, if_false]

end

/-! ### START and STOP -/

section
variable {d : Dev} {r : Req} {n bytes : Nat} {v : DWord} {t : RegDef} {x : Svc}
variable (hw : writable d (regOff .svcCtl [n]) bytes v t [n]) (hfw : d.fw.running = true) (hx : svcOf d n = some x)
variable {c : Nat} (hc : accessValue (regOff .svcCtl [n]) bytes v = c)
include hw hfw hx hc

/-- START alone, in a state that lists it (R478). -/
theorem writeSvcCtl_starts {e : Dev} (h1 : bitAt c 1 = true) (h0 : bitAt c 0 = false)
    (he : svcStart d n x (bitAt c 2) = some e) : writeSvcCtl d r (regOff .svcCtl [n]) bytes v = e := by
  subst hc
  refine (withWrite_eq hw r _).trans ?_
  simp [h1, h0, hfw, hx, he]

/-- STOP alone, in a state that lists it (R478). -/
theorem writeSvcCtl_stops {e : Dev} (h1 : bitAt c 1 = false) (h0 : bitAt c 0 = true) (he : svcStop d n x = some e) :
    writeSvcCtl d r (regOff .svcCtl [n]) bytes v = e := by
  subst hc
  refine (withWrite_eq hw r _).trans ?_
  simp [h1, h0, hfw, hx, he]

end

section
variable {d : Dev} {n : Nat} {v : Svc}

/-- START of a stopped service takes its stopped canvas back (R478). -/
theorem svcStart_resumes {k : Nat} {y : Canvas} (hst : v.st = .stopped) (hk : v.canvas = some k) (hy : canvasOf d k = some y)
    (hyst : y.st = .stopped) (hyun : y.unloading = false) :
    svcStart d n v false = some (moveSvcs (skipLoads (modCanvas
      (modSvc d n fun v => { v with used := 0, step := 0, stopWait := false }) k fun c => { c with owner := some n }) n)) := by
  unfold svcStart
  simp only [hst, hk, hy, hyst, hyun, canvasOf_modSvc, Option.bind_some, Option.any_some, beq_self_eq_true, Bool.not_false,
    Bool.and_self, Option.getD_some, if_true]

/-- START elsewhere unloads what canvas there is, and begins the loads or, without RELOAD, goes to the image (R478). -/
theorem svcStart_unloads {reload : Bool} (hst : v.st = .stopped ∧ reload = true ∨ v.st = .failed ∨ v.st = .disabled) :
    svcStart d n v reload = some (moveSvcs (
      let d := portUnload (modSvc d n fun v => { v with used := 0, step := 0, stopWait := false }) n v
      if reload = true then startLoads d n else skipLoads d n)) := by
  unfold svcStart
  rcases hst with ⟨h, rfl⟩ | h | h <;> rw [h] <;> rfl

/-- STOP lets the loads end, and a LOOP its step (R478). -/
theorem svcStop_stops (hst : v.st = .waiting ∨ v.st = .loading ∨ v.st = .running) :
    svcStop d n v = some (moveSvcs (modSvc (setSvc d n .stopping) n fun x => { x with
      stopWait := if v.st = .loading then decide (v.loadIx < v.loads.length) else v.st == .running && v.kind == 3 })) := by
  unfold svcStop
  rcases hst with h | h | h <;> rw [h] <;> rfl

end

/-! ### A faulted canvas -/

section
variable {s : State} {n k : Nat} {v : Svc} {c : Canvas} (hr : runs s) (hv : svcOf s.dev n = some v) (hk : v.canvas = some k)
variable (hc : canvasOf s.dev k = some c) (hst : c.st = .faulted) (hun : c.unloading = false) (hown : c.owner = some n)
include hr hv hk hc hst hun hown

/-- What a faulted canvas does to the service that owns it, by the state of the service. -/
theorem execServiceCanvasFaulted_eq : execServiceCanvasFaulted n s = after s (
    if v.st = .running then
      let d := portUnload (endRequests s.dev n c.faultSt) n v
      if v.used < v.restarts then
        moveSvcs (modSvc (setSvc d n .starting) n fun v => { v with used := v.used + 1, lastStatus := c.faultSt })
      else failSvc d n c.faultSt
    else if v.st = .stopping then
      moveSvcs (modSvc (endRequests s.dev n c.faultSt) n fun v => { v with stopWait := false })
    else s.dev) := by
  refine act_eq hr ?_
  simp only [hv, hk, hc, hst, hun, hown, Option.bind_some, bne_self_eq_false, Bool.or_self, Bool.false_eq_true, if_false,
    beq_iff_eq]

end

/-- Settles O56: loads by their source, START and STOP by `svcStart` and `svcStop`, a faulted canvas by the service's
state. -/
theorem serviceControl : Obligations.ServiceControl := by
  refine ⟨?loads, ?start, ?stop, ?faulted⟩
  case loads =>
    exact fun s n v e hr hv hl => ⟨fun hsrc hf hb hok => execServiceLoadDone_lands hr hv hl hsrc hf hb rfl hok,
      fun hsrc => execServiceLoadDone_noFlash hr hv hl hsrc,
      fun ok st hsrc hend => execServiceLoadDone_peer hr hv hl ok hsrc hend,
      fun d1 l hsrc hread => execWaitPoll_reads hr hv hl hsrc hread⟩
  case start =>
    intro s r n bytes v t x hr hn hw hfw hx hv c h1 h0 d
    have hact {e : Dev} (he : svcStart s.dev n x (bitAt c 2) = some e) :
        execSvcStart r n (regOff .svcCtl [n]) bytes v s = after s e :=
      act_eq hr ((if_pos (by simp [hn, hv])).trans (writeSvcCtl_starts hw hfw hx rfl h1 h0 he))
    refine ⟨fun k y hst h2 hk hy hyst hyun => hact ?_, fun hst h2 => hact ?_, fun hst h2 => hact ?_⟩
    · rw [h2]; exact svcStart_resumes hst hk hy hyst hyun
    · rw [h2]; exact svcStart_unloads (hst.imp_left fun h => ⟨h, rfl⟩)
    · rw [h2]; exact svcStart_unloads (Or.inr hst)
  case stop =>
    intro s r n bytes v t x hr hn hw hfw hx hv c h0 h1 hst keep
    change execSvcStop r n (regOff .svcCtl [n]) bytes v s = _
    exact act_eq hr ((if_pos (by simp [hn, hv])).trans (writeSvcCtl_stops hw hfw hx rfl h1 h0 (svcStop_stops hst)))
  case faulted =>
    intro s n v k c hr hv hk hc hst hun hown d
    have h := execServiceCanvasFaulted_eq hr hv hk hc hst hun hown
    refine ⟨fun hrun hused => h.trans ?_, fun hrun hused => h.trans ?_, fun hstop => h.trans ?_⟩
    · rw [if_pos hrun, if_pos hused]
    · rw [if_pos hrun, if_neg (Nat.not_lt.mpr hused)]
    · rw [if_neg (by simp [hstop]), if_pos hstop]

end Sys2Proof.Proofs
end

section
/-! SUPPORT. Services at work (R479, R481, R482): periods, polls and loops. -/
namespace Sys2Proof.Proofs
open Sys2Proof Sys2Proof.Machine Sys2Proof.Safety Sys2Proof.Laws

/-! ### Releases -/

section
variable {s : State} {n k : Nat} {v : Svc} {c : Canvas} (hr : runs s) (hv : svcOf s.dev n = some v)
variable (hown : ownedBy s.dev n = some k) (hc : canvasOf s.dev k = some c) (hst : c.st = .running)
variable (hreset : s.dev.creset.active = false)
include hr hv hown hc hst hreset

/-- A period of a running STEP service releases a step, which counts (R479). -/
theorem execStepRelease_step (hk : v.kind = 1) (hrun : v.st = .running) :
    execStepRelease n s = after s (modSvc (releaseStep s.dev n c s.dev.tb.now (svcLines v)) n countStep) := by
  refine act_eq hr ?_
  simp [hv, hown, hc, hst, hreset, hk, hrun]

/-- A period of a SERVE with an admitted entry releases a step (R479). -/
theorem execStepRelease_serve (hk : v.kind = 2) (hadm : v.admitted ≠ []) :
    execStepRelease n s = after s (releaseStep s.dev n c s.dev.tb.now (svcLines v)) := by
  refine act_eq hr ?_
  simp [hv, hown, hc, hst, hreset, hk, hadm]

end

/-! ### Polls -/

section
variable {s : State} {n : Nat} {v : Svc} (hr : runs s) (hv : svcOf s.dev n = some v) (hk : v.kind = 2)
variable (hreset : s.dev.creset.active = false)
include hr hv hk hreset

/-- A poll of a SERVE: admission while it runs, then the delivery in progress, the entries that end, the admitted ones
(R481). -/
theorem execServePoll_polls :
    let ended := fun (d : Dev) => (svcOf d n).elim d (endDelivery d n)
    let told := fun (d : Dev) => (svcOf d n).elim d fun v => v.ending.foldl (tryEnding n) d
    let tried := fun (d : Dev) => (svcOf d n).elim d fun v => v.admitted.foldl (tryEntry n) d
    execServePoll n s = after s (moveSvcs (tried (told (ended (
      if v.st = .running then admitEntries s.dev n v else s.dev))))) := by
  intro ended told tried
  refine act_eq hr ?_
  rw [hv]
  refine (if_neg (by simp [hk, hreset])).trans ?_
  simp only [beq_iff_eq, tried, told, ended]

end

/-! ### Loops -/

section
variable {s : State} {n : Nat} {v : Svc} {d1 : Dev} {l : List Byte} (hr : runs s) (hv : svcOf s.dev n = some v)
variable (hk : v.kind = 3) (hck : v.ckptOn = false)
variable (hst : v.st = .running ∨ (v.st = .stopping ∧ v.stopWait = true)) (hreset : s.dev.creset.active = false)
variable (hread : svcRead s.dev v (svcParam v 2) 8 = (d1, some l))
include hr hv hk hck hst hreset hread

/-- The step counter of a LOOP at work is read: short of the step it waits, else the step's checkpoint is taken where it
is due, or the LOOP goes on (R482). -/
theorem execLoopStepDone_counts : execLoopStepDone n s = after s (
    if leNat l < v.step then d1
    else
      let k := bits (svcParam v 5) 7 0
      if svcParam v 3 ≠ 0 ∧ v.step % svcParam v 3 = 0 then
        if checkpointWaits d1 v k = true then (readWhole d1 (.core v.core) (svcParam v 4) (8 * k)).1
        else modSvc ((List.range k).foldl (submitCheckpoint n v) d1) n fun v => { v with ckptOn := true }
      else loopNext d1 n v) := by
  have hgo : ¬(decide (v.kind ≠ 3) || v.ckptOn || !(v.st == .running || (v.st == .stopping && v.stopWait)) ||
      s.dev.creset.active) = true := by
    rcases hst with h | ⟨h, hw⟩
    · simp [hk, hck, h, hreset]
    · simp [hk, hck, h, hw, hreset]
  refine act_eq hr ?_
  rw [hv]
  refine (if_neg hgo).trans ?_
  simp only [hread, Bool.and_eq_true, decide_eq_true_eq]

end

/-- Settles O57: releases by kind, a poll by `execServePoll_polls`, a LOOP's step by `execLoopStepDone_counts`. -/
theorem serviceWork : Obligations.ServiceWork := by
  refine ⟨?release, ?poll, ?step, ?checkpoint⟩
  case release =>
    exact fun s n v k c hr hv hown hc hst hreset =>
      ⟨fun hk hrun => execStepRelease_step hr hv hown hc hst hreset hk hrun,
        fun hk hadm => execStepRelease_serve hr hv hown hc hst hreset hk hadm⟩
  case poll =>
    intro s n v hr hv hk hreset ended told tried
    have h := execServePoll_polls hr hv hk hreset
    refine ⟨fun hrun => h.trans ?_, fun hrun => h.trans ?_⟩
    · rw [if_pos hrun]
    · rw [if_neg hrun]
  case step =>
    intro s n v d1 l hr hv hk hck hst hreset hread
    have h := execLoopStepDone_counts hr hv hk hck hst hreset hread
    refine ⟨fun hlt => h.trans ?_, fun hle hno => h.trans ?_, fun hle h3 hdue hwait => h.trans ?_⟩
    · rw [if_pos hlt]
    · rw [if_neg (Nat.not_lt.mpr hle)]
      exact congrArg (after s) (if_neg (by tauto))
    · rw [if_neg (Nat.not_lt.mpr hle)]
      refine congrArg (after s) ((if_pos ⟨h3, hdue⟩).trans (if_neg ?_))
      simp [hwait]
  case checkpoint =>
    intro s n v hr hv hck hnone
    change execLoopCheckpointDone n s = _
    refine act_eq hr ?_
    rw [hv]
    exact if_pos (by simpa [hck] using hnone)

end Sys2Proof.Proofs
end

section
/-! SUPPORT. Telemetry, the power limit, sequencers and readings (R492, R498, R501, R502, R516, R520, R523). -/
namespace Sys2Proof.Proofs
open Sys2Proof Sys2Proof.Machine Sys2Proof.Safety Sys2Proof.Laws

/-! ### Telemetry and the power limit -/

/-- The end of a window writes the averages and moves the levers, once for each window (R492, R519, R523). -/
theorem execTelemetryWindowEnd_writes {s : State} (hr : runs s) (domains : List DomainSample) (models : List (SensorId × Int))
    (paces : List Nat) (hnew : s.dev.tb.now / 2000000 ≠ s.dev.windowNo) :
    let d0 := { s.dev with windowNo := s.dev.tb.now / 2000000 }
    let d1 := (List.range 24).foldl (fun d n => regPut d .pwrDom [n] (domainWord d n (domainAt domains n))) d0
    let d2 := (List.range 7).foldl senseRail (regSetField d1 .pwrPkg [] 47 32 (min 0xFFFF (packageMw d1 / 1000)))
    let d3 := putPaces (models.foldl takeModel d2) .thermTile paces
    execTelemetryWindowEnd domains models paces s = after s (if d3.phase = .shutdown then d3 else leversWindow d3) := by
  intro d0 d1 d2 d3
  refine act_eq hr ((if_neg hnew).trans ?_)
  simp only [beq_iff_eq, d0, d1, d2, d3]

/-! ### Sequencers (R501, R502) -/

section
variable {s : State} {r : Rail} (hr : runs s)
include hr

theorem execVoltageSettled_raised (hst : (seqOf s.dev r).st = .raiseV) (hmv : (seqOf s.dev r).mv = (seqOf s.dev r).goal) :
    execVoltageSettled r s = after s (putSeq s.dev r { seqOf s.dev r with st := .raiseF }) := by
  refine act_eq hr ((if_neg (not_not_intro hmv)).trans ?_)
  rw [hst]

theorem execVoltageSettled_lowered (hst : (seqOf s.dev r).st = .lowerV) (hmv : (seqOf s.dev r).mv = (seqOf s.dev r).goal) :
    execVoltageSettled r s = after s (seqStable s.dev r) := by
  refine act_eq hr ((if_neg (not_not_intro hmv)).trans ?_)
  rw [hst]

theorem execClockSwitchDone_raised (hst : (seqOf s.dev r).st = .raiseF) :
    execClockSwitchDone r s = after s (seqStable (putSeq s.dev r { seqOf s.dev r with point := (seqOf s.dev r).target }) r) := by
  refine act_eq hr ?_
  simp only [hst]

theorem execClockSwitchDone_lowered (hst : (seqOf s.dev r).st = .lowerF) :
    let x := seqOf s.dev r
    let d := writeRail (putSeq s.dev r { x with point := x.target }) r (pointMv r x.target)
    execClockSwitchDone r s = after s (putSeq d r { seqOf d r with st := .lowerV }) := by
  refine act_eq hr ?_
  simp only [hst]

theorem execSequencerTimeout_stops (hst : (seqOf s.dev r).st = .raiseV ∨ (seqOf s.dev r).st = .lowerV) :
    execSequencerTimeout r s = after s (logErr (putSeq s.dev r
      { seqOf s.dev r with st := .stable, retry := some (seqOf s.dev r).target }) stVpmFault ukStem (railNo r) 3) :=
  act_eq hr (if_pos (by rcases hst with h | h <;> simp [h]))

theorem execSequencerRetry_starts {p : Nat} (hst : (seqOf s.dev r).st = .stable) (hre : (seqOf s.dev r).retry = some p)
    (hp : (seqOf s.dev r).point ≠ p) : execSequencerRetry r s = after s (seqStart s.dev r p) := by
  refine act_eq hr ?_
  dsimp only
  rw [hre]
  exact (if_neg (not_not_intro hst)).trans (if_neg hp)

end

/-! ### Temperature -/

/-- A reading of a fitted site with a sensor moves its used temperature, and what follows from that (R516, R520). -/
theorem execSensorReading_acts {s : State} {id : SensorId} (hr : runs s) (reading model : Int) (hstem : ∀ k, id ≠ .stem k)
    (hfit : siteFitted s.dev id = true) :
    execSensorReading id reading model s = after s (actOnTemp (takeReading s.dev id reading model) id) := by
  refine act_eq hr ?_
  cases id
  case stem k => exact absurd rfl (hstem k)
  all_goals exact if_pos hfit

/-- A request whose grace has passed is enforced (R523). -/
theorem graceOver_enforces {d : Dev} {l t : Nat} (hg : (lever d l).grace = some t) (hreq : (lever d l).request = true)
    (henf : (lever d l).enforce = false) (ht : t + msTicks * regField d .thermCtl [] 47 32 ≤ d.tb.now) :
    graceOver d l = thermalSignal (logErr (putLever d l { lever d l with enforce := true }) stThermalEnforce ukStem 0 3)
      stThermalEnforce := by
  unfold graceOver
  simp only [hg, hreq, henf, ht, decide_true, Bool.not_false, Bool.and_self, if_true]

/-- Settles O58: a sequencer by the state it is in, a reading by `execSensorReading_acts`, grace by `graceOver_enforces`. -/
theorem powerManagement : Obligations.PowerManagement := by
  refine ⟨?poll, ?window, ?tick, ?target, ?sequencer, ?reading, ?grace⟩
  case poll =>
    intro s rails hr
    change execPmbusPoll rails s = _
    exact act_runs hr _
  case window => exact fun s domains models paces hr hnew => execTelemetryWindowEnd_writes hr domains models paces hnew
  case tick =>
    intro s e hr hmul hat
    change execPowerManagerTick e s = _
    exact act_eq hr (if_pos (by simp [hmul, hat]))
  case target =>
    intro s r hr
    change execSequencerTarget r _ s = _
    exact act_eq hr (if_pos rfl)
  case sequencer =>
    exact fun s r hr => ⟨fun hst hmv => execVoltageSettled_raised hr hst hmv,
      fun hst hmv => execVoltageSettled_lowered hr hst hmv, fun hst => execClockSwitchDone_raised hr hst,
      fun hst => execClockSwitchDone_lowered hr hst, fun hst => execSequencerTimeout_stops hr hst,
      fun p hst hre hp => execSequencerRetry_starts hr hst hre hp⟩
  case reading => exact fun s id reading model hr hstem hfit => execSensorReading_acts hr reading model hstem hfit
  case grace =>
    intro s l t hr hl hg hreq henf ht
    change execGraceExpires l s = _
    exact act_eq hr ((if_pos hl).trans (graceOver_enforces hg hreq henf ht))

end Sys2Proof.Proofs
end

section
/-! SUPPORT. Nap, doze, resting stacks and deep (R503 to R506). -/
namespace Sys2Proof.Proofs
open Sys2Proof Sys2Proof.Machine Sys2Proof.Safety Sys2Proof.Laws

/-- A device in deep leaves it with its points back (R505). -/
theorem leaveDeep_of_deep {d : Dev} (h : d.deep = true) :
    leaveDeep d =
      let e := { d with deep := false }
      seqTarget (seqTarget e .rind (wantedPoint e .rind)) .stem (wantedPoint e .stem) := by
  unfold leaveDeep
  exact if_neg (by simp [h])

/-- Settles O59: each event by the conditions that it tests. -/
theorem powerStates : Obligations.PowerStates := by
  refine ⟨?tile, ?stack, ?enter, ?exit⟩
  case tile =>
    intro s t hr
    dsimp only
    refine ⟨fun hpres hblk hpwr hidle hquiet => ?_, fun hpwr => ?_, fun hpwr hbit hidle hquiet hnap => ?_, fun hpwr hdeep => ?_⟩
    · change execTileNapEnter t s = _
      exact act_eq hr (if_pos (by simp [hpres, hblk, hpwr, hidle, hquiet]))
    · change execTileNapWake t s = _
      exact act_eq hr (if_pos (beq_iff_eq.mpr hpwr))
    · change execTileDozeEnter t s = _
      exact act_eq hr (if_pos (by simp [hpwr, hbit, hidle, hquiet, hnap]))
    · change execTileDozeWake t s = _
      exact act_eq hr (if_pos (by simp [hpwr, hdeep]))
  case stack =>
    intro s n hr
    dsimp only
    refine ⟨fun hpop hrest hbit hmem hsess hquiet hidle => ?_, fun hrest hdeep => ?_⟩
    · change execStackRestEnter n s = _
      have hnone : (s.dev.sessions.any fun e => bitAt e.2.desc.stackMask n) = false :=
        List.any_eq_false.mpr fun e he => by simp [hsess e he]
      exact act_eq hr (if_pos (by simp [hpop, hrest, hbit, hmem, hnone, hquiet, hidle]))
    · change execStackRestWake n s = _
      exact act_eq hr (if_pos (by simp [hrest, hdeep]))
  case enter =>
    intro s hr hmay d1 d2
    change execDeepEnter s = _
    exact act_eq hr (if_neg (by simp [hmay]))
  case exit =>
    intro s hr hdeep d
    change execDeepExit s = _
    exact act_eq hr (leaveDeep_of_deep hdeep)

end Sys2Proof.Proofs
end

section
/-! SUPPORT. Gated blocks and vertical bonds (R507 to R510, R548, R549, R617). -/
namespace Sys2Proof.Proofs
open Sys2Proof Sys2Proof.Machine Sys2Proof.Safety Sys2Proof.Laws

/-! ### BLK_ENABLE (R617) -/

section
variable {d : Dev} {r : Req} {off bytes : Nat} {v : DWord} {t : RegDef} {ix : List Nat} (hw : writable d off bytes v t ix)
variable {new : Nat} (hnew : written d t ix off bytes v = new)
include hw hnew

/-- A write that takes no quadrant in use moves every block whose bit changes. -/
theorem writeBlkEnable_moves (hfree : ∀ q < 4, bitAt (regGet d .blkEnable) q = true → bitAt new q = false → quadInUse d q = false) :
    writeBlkEnable d r off bytes v = (List.range 31).foldl (fun e k =>
      if bitAt new k == bitAt (regGet d .blkEnable) k then e else if bitAt new k then turnOn e k else turnOff e k)
      (regPut d .blkEnable [] new) := by
  subst hnew
  refine (withWrite_eq hw r _).trans (if_neg ?_)
  refine ne_true_of_eq_false (List.any_eq_false.mpr fun q hq => ?_)
  have h := hfree q (List.mem_range.mp hq)
  rw [written] at h
  simpa using fun h1 h2 => h h1 h2

/-- A write that would take a quadrant in use changes nothing. -/
theorem writeBlkEnable_refuses {q : Nat} (hq : q < 4) (hold : bitAt (regGet d .blkEnable) q = true) (hoff : bitAt new q = false)
    (huse : quadInUse d q = true) :
    writeBlkEnable d r off bytes v = logAccess d r stBlockInUse off false true bytes := by
  subst hnew
  rw [written] at hoff
  exact (withWrite_eq hw r _).trans (if_pos (List.any_eq_true.mpr ⟨q, List.mem_range.mpr hq, by simp [hold, hoff, huse]⟩))

end

/-! ### Power-up and drain -/

theorem execBlockPoweredUp_starts {s : State} {k : Nat} (hr : runs s) (hk : k < 31) (hst : blkState s.dev k = .waking)
    (hseed : k < 4 → seedsWait s.dev = false) : execBlockPoweredUp k s = after s (startBlock (setBlk s.dev k .on) k) := by
  refine act_eq hr (if_pos ?_)
  by_cases h4 : k < 4
  · simp [hk, hst, hseed h4]
  · simp [hk, hst, h4]

/-- Settles O60: BLK_ENABLE by its two lemmas, a block by its state, bonds by the conditions of their events. -/
theorem blocksAndBonds : Obligations.BlocksAndBonds := by
  refine ⟨?enable, ?blocks, ?bonds⟩
  case enable =>
    intro s r off bytes v t ix hr hw hoff old new moved
    refine ⟨fun hfree => ⟨fun hch => ?_, fun hch => ?_⟩, fun q hq hold hnew huse hch => ?_⟩
    · change execBlockEnable r off bytes v s = _
      exact act_eq hr ((if_pos (by simp [hoff, hch])).trans (writeBlkEnable_moves hw rfl hfree))
    · change execBlockDisable r off bytes v s = _
      exact act_eq hr ((if_pos (by simp [hoff, hch])).trans (writeBlkEnable_moves hw rfl hfree))
    · change execBlockDisable r off bytes v s = _
      exact act_eq hr ((if_pos (by simp [hoff, hch])).trans (writeBlkEnable_refuses hw rfl hq hold hnew huse))
  case blocks =>
    intro s k hr hk
    refine ⟨fun hst hseed => execBlockPoweredUp_starts hr hk hst hseed, fun hd hst => ?_, fun hd hst => ?_⟩ <;>
      change execBlockDrainComplete k s = _ <;> refine act_eq hr ((if_neg (by simp [hd]; omega)).trans ?_) <;> rw [hst]
  case bonds =>
    intro s slice port hr hs hp
    refine ⟨fun failed hf => ?_, fun hwait => ⟨?_, ?_⟩⟩
    · change execLaneTest slice port failed s = _
      exact act_eq hr (if_pos (by simp [hs, hp, hf]))
    · change execBondSwap slice port s = _
      exact act_eq hr (if_pos (by simp [hs, hp, hwait]))
    · change execQuiescenceTimeout slice port s = _
      exact act_eq hr (if_pos (by simp [hs, hp, hwait]))

end Sys2Proof.Proofs
end
